-- ==== Sys2Proof/Word.lean ====
section
/-! DEFINITION. The word types of the machine (R1, R99) and the plainest reading of fields and byte order (R2). -/

namespace Sys2Proof

/-- A byte of memory (R2). -/
abbrev Byte := BitVec 8
/-- A 64-bit register or address (R99). -/
abbrev Word := BitVec 64
/-- A row of a tile or x register, a c register, or a 128-byte sector (R101, R210). -/
abbrev Row := BitVec 1024
/-- A lane mask (R103). -/
abbrev Lanes := BitVec 128

end Sys2Proof
end

