-- ==== Sys2Proof/Syntax.lean ====
section
/-! DEFINITION. The instructions and events of spec/opcode_table.json, one constructor per row. A slot instruction
carries the fields of its subformat just as the word has them (R49, R52, R54, R56, R327); an event carries what the
rules leave to the moment at which it happens (log 18). -/

namespace Sys2Proof

/-- Subformat R: OP, PG, RD, RA, RB, W, FN, and the literal word of R51 where the bundle appends one (R49). -/
structure FR where
  pg : BitVec 3
  rd : BitVec 6
  ra : BitVec 6
  rb : BitVec 6
  w : BitVec 1
  fn : BitVec 3
  lit : Option (BitVec 32)
  deriving DecidableEq, Repr

/-- Subformat I (R49). -/
structure FI where
  pg : BitVec 3
  rd : BitVec 6
  ra : BitVec 6
  imm : BitVec 10
  lit : Option (BitVec 32)
  deriving DecidableEq, Repr

/-- Subformat LI (R49). -/
structure FLI where
  pg : BitVec 3
  rd : BitVec 6
  imm : BitVec 16
  lit : Option (BitVec 32)
  deriving DecidableEq, Repr

/-- Subformat B: CC, RA or link register, OFF13 (R49). -/
structure FB where
  pg : BitVec 3
  cc : BitVec 3
  ra : BitVec 6
  off : BitVec 13
  lit : Option (BitVec 32)
  deriving DecidableEq, Repr

/-- Subformat M: RT, RA, OFF10 (R49). -/
structure FM where
  pg : BitVec 3
  rt : BitVec 6
  ra : BitVec 6
  off : BitVec 10
  lit : Option (BitVec 32)
  deriving DecidableEq, Repr

/-- Subformat MO: RT, RA, ORD, bits 7:4, the size bit 3, SCOPE (R49, R71). -/
structure FMO where
  pg : BitVec 3
  rt : BitVec 6
  ra : BitVec 6
  ord : BitVec 2
  z : BitVec 4
  w : BitVec 1
  scope : BitVec 3
  lit : Option (BitVec 32)
  deriving DecidableEq, Repr

/-- Subformat MX: RT, RA, RB, W, SCOPE (R49). -/
structure FMX where
  pg : BitVec 3
  rt : BitVec 6
  ra : BitVec 6
  rb : BitVec 6
  w : BitVec 1
  scope : BitVec 3
  lit : Option (BitVec 32)
  deriving DecidableEq, Repr

/-- Subformat LS: CD, RA, OFF11 (R49). -/
structure FLS where
  pg : BitVec 3
  cd : BitVec 5
  ra : BitVec 6
  off : BitVec 11
  lit : Option (BitVec 32)
  deriving DecidableEq, Repr

/-- The vector slot an instruction stands in: V0 works on v and vm, V1 on w and wm (R72). -/
inductive Unit2 where
  | v0
  | v1
  deriving DecidableEq, Repr

/-- V0, V1 and X words (R52, R54). -/
structure FV where
  pg : BitVec 3
  wid : BitVec 2
  fmt : BitVec 4
  rnd : BitVec 2
  dst : BitVec 8
  sa : BitVec 8
  sb : BitVec 8
  sc : BitVec 8
  msk : BitVec 3
  men : BitVec 1
  aux : BitVec 10
  deriving DecidableEq, Repr

/-- M and D words (R52, R56). -/
structure FE where
  pg : BitVec 3
  wid : BitVec 2
  fmt : BitVec 4
  rnd : BitVec 2
  swp : BitVec 1
  tokp : BitVec 6
  toka : BitVec 6
  tokb : BitVec 6
  tokc : BitVec 6
  arg : BitVec 21
  lit : Option (BitVec 32)
  deriving DecidableEq, Repr

/-- A move of an Oasis word, with the literal slot that a LIT source takes (R327, R330). -/
structure FMv where
  inv : BitVec 1
  grd : BitVec 3
  src : BitVec 13
  dst : BitVec 13
  low : BitVec 2
  lit : Option (BitVec 32)
  deriving DecidableEq, Repr

/-- The cache levels a line can be filled into (R211). -/
inductive CacheLevel where
  | icache
  | l1
  | l2
  | rdc
  | msc
  deriving DecidableEq, Repr

/-- What an access needs of a leaf (R397); `range` is a range translated for its place alone (R341, R342), `token` a write of the
dispatcher's (R382). -/
inductive Access where
  | range
  | token
  | fetch
  | read
  | write
  | amo
  | region
  | weights
  deriving DecidableEq, Repr

/-- A write of an agent other than the followed context that reaches its home (R293, R300, R302): the writer's die (none for
one outside the module), whether `pa` is a scratchpad key of the followed quad, COMP, address, bytes, for an AMO its operation
and compare value (`bytes` is then its operand), the clock it carries when it is a release of scope PKG or SYS, and the device
and cache policy it comes with (R211, R216). -/
structure ExtWrite where
  die : Option Nat
  pad : Bool
  comp : Bool
  pa : Nat
  bytes : List Byte
  amo : Option (Nat × Nat)
  stamp : Option (List Nat)
  vmid : Nat
  policy : Nat
  deriving DecidableEq, Repr

/-- What HOME_WRITE_APPLY does: the followed context's own write; another agent's; or, of a context of a die other than the
followed one, the acquire load of scope PKG or SYS at an address, or the acquire fence of such a scope, which raises its die's
clock (R300). -/
inductive HomeRef where
  | own
  | write (w : ExtWrite)
  | acquire (die pa : Nat)
  | fence (die : Nat)
  deriving DecidableEq, Repr

/-- A pair of a UPD of a context other than the followed one (R312, R315): its die, device, base and operator of its region,
launch, instance and UPD, physical address of its element, value. -/
structure ExtPair where
  die : Nat
  vmid : Nat
  base : Word
  opr : Nat
  launch : Nat
  inst : Nat
  upd : Nat
  pa : Nat
  val : Nat
  deriving DecidableEq, Repr

/-- Which pair PAIR_ACCEPT takes (R315): one of the followed context's by its place among those under way, or another
context's. -/
inductive PairRef where
  | own (index : Nat)
  | other (p : ExtPair)
  deriving DecidableEq, Repr

/-- The append of another core's QPUSH (R161): its launch and the packet. -/
structure ExtPush where
  launch : Nat
  packet : List Byte
  deriving DecidableEq, Repr

/-- Which ring LAUNCH_ACCEPT takes a packet from (R378, R379): the host queue or the device queue of the number, or the device
queue after another core's QPUSH has appended to it (R161). -/
inductive RingRef where
  | host
  | device
  | pushed (x : ExtPush)
  deriving DecidableEq, Repr

/-- A UREG or UREL of another context that completes (R306, R311, R313). -/
structure ExtRegion where
  release : Bool
  vmid : Nat
  base : Word
  len : Nat
  opr : Nat
  launch : Nat
  inst : Nat
  deriving DecidableEq, Repr

/-- Which operation TOKEN_COMPLETE completes (R229): one of the followed context's by its id, or another context's UREG or
UREL. -/
inductive OpRef where
  | own (op : Nat)
  | other (r : ExtRegion)
  deriving DecidableEq, Repr

/-- Which instance INSTANCE_RETIRE retires (R41): that of a main core, or from 144 on of an Oasis core; `fault` says whether an
instance that is not followed read a token with a nonzero status. -/
structure InstRef where
  core : Nat
  fault : Bool
  deriving DecidableEq, Repr

/-- A collective message (R350 to R354): group, the sender's and the receiver's modules and endpoints, channel, its number
among the sender's CSENDs to that endpoint and channel (R353), wire format, element bytes, scale bytes, the elements and the
scales that came from poisoned sectors, and the sender's clocks where both are of one module (R300, R360). A nonzero `notice`
is sent in place of a message: 0x63 says that the sender's launch was killed (R361), 0x60 that there is no such endpoint
(R352). -/
structure Message where
  gid : Nat
  srcCampus : Nat
  srcPkg : Nat
  srcEp : Nat
  dstCampus : Nat
  dstPkg : Nat
  dstEp : Nat
  ch : Nat
  seq : Nat
  fmt : Nat
  data : List Byte
  scales : List Byte
  bad : List Nat
  badScales : List Nat
  stamp : List Nat
  notice : Nat
  deriving DecidableEq, Repr

/-- A frame of a link (R412). -/
structure Frame where
  seq : BitVec 64
  ftype : BitVec 8
  epoch : BitVec 8
  len : BitVec 16
  reserved : BitVec 32
  payload : List Byte
  tag : List Byte
  deriving DecidableEq, Repr

/-- A certificate of R417. -/
structure Cert where
  cver : Nat
  ckind : Nat
  reservedZero : Bool
  serial : Word
  subject : List Byte
  issuer : List Byte
  csig : List Byte
  deriving DecidableEq, Repr

/-- The fields of a HELLO (R417); `admitted` is the fabric manager's answer for the peer (R416 step 3). -/
structure Hello where
  campus : Nat
  pkg : Nat
  nonce : List Byte
  xpub : List Byte
  chain : List Cert
  admitted : Bool
  reservedZero : Bool
  deriving DecidableEq, Repr

/-- An access of a fabric endpoint (R409, R410): requester, whether it is to the control window, where `va` is an offset, the
device, address, and the bytes of a write or the length of a read; `release` says that a write is a release at SYS. -/
structure FabricAccess where
  campus : Nat
  pkg : Nat
  ctl : Bool
  release : Bool
  vmid : Nat
  va : Word
  write : Option (List Byte)
  len : Nat
  deriving DecidableEq, Repr

/-- Who makes a control-window write (R409): a fabric endpoint, or a privileged context of device 0. -/
inductive CtlSource where
  | endpoint (campus pkg : Nat)
  | context
  deriving DecidableEq, Repr

/-- The results of bring-up's tests and the contents of the verified configuration record (R418): `strait` the ports that run in
Strait mode (R17), `hbmcap` the HBM usable before their retry buffers are taken from it. -/
structure BringUp where
  firmwareOk : Bool
  recordOk : Bool
  badCores : List Nat
  badChannels : List (Nat × Nat)
  badLinks : List Nat
  badPorts : List Nat
  badBuses : List Nat
  stackMask : BitVec 16
  temps : List Int
  spares : List Nat
  campus : BitVec 8
  pkg : BitVec 16
  strait : BitVec 4
  cxl : Bool
  hbmcap : Word
  device0 : List Byte
  signers : List (List Byte)
  deriving DecidableEq, Repr

/-- Where an uncorrectable error falls (R226, R257, R317). -/
inductive ErrorPlace where
  | sector (n : Nat)
  | bin (line : Nat)
  | cell (plane : Bool) (cell : Nat)
  | gradient (cell : Nat)
  | record (plane : Bool) (row : Nat)
  | scratch (rank sector : Nat)
  | buffer (slot sector : Nat)
  deriving DecidableEq, Repr

/-- A resource that can be retired (R424). -/
inductive Resource where
  | core (n : Nat)
  | quad (n : Nat)
  | channel (stack bit : Nat)
  | link (n : Nat)
  | port (n : Nat)
  deriving DecidableEq, Repr

/-- Every row of the opcode table. -/
inductive Instr where
  /-- ADD, R138. -/
  | add (f : FR)
  /-- SUB, R138. -/
  | sub (f : FR)
  /-- MUL, R138. -/
  | mul (f : FR)
  /-- MULH, R138. -/
  | mulh (f : FR)
  /-- MULHU, R138. -/
  | mulhu (f : FR)
  /-- DIV, R142. -/
  | div (f : FR)
  /-- DIVU, R142. -/
  | divu (f : FR)
  /-- REM, R142. -/
  | rem (f : FR)
  /-- REMU, R142. -/
  | remu (f : FR)
  /-- AND, R138. -/
  | and (f : FR)
  /-- OR, R138. -/
  | or (f : FR)
  /-- XOR, R138. -/
  | xor (f : FR)
  /-- ANDN, R138. -/
  | andn (f : FR)
  /-- ORN, R138. -/
  | orn (f : FR)
  /-- SHL, R138. -/
  | shl (f : FR)
  /-- SHR, R138. -/
  | shr (f : FR)
  /-- SAR, R138. -/
  | sar (f : FR)
  /-- ROL, R138. -/
  | rol (f : FR)
  /-- ROR, R138. -/
  | ror (f : FR)
  /-- MIN, R138. -/
  | min (f : FR)
  /-- MAX, R138. -/
  | max (f : FR)
  /-- MINU, R138. -/
  | minu (f : FR)
  /-- MAXU, R138. -/
  | maxu (f : FR)
  /-- ABS, R138. -/
  | abs (f : FR)
  /-- CMPEQ, R138. -/
  | cmpeq (f : FR)
  /-- CMPNE, R138. -/
  | cmpne (f : FR)
  /-- CMPLT, R138. -/
  | cmplt (f : FR)
  /-- CMPLTU, R138. -/
  | cmpltu (f : FR)
  /-- CMPLE, R138. -/
  | cmple (f : FR)
  /-- CMPLEU, R138. -/
  | cmpleu (f : FR)
  /-- SEL, R139. -/
  | sel (f : FR)
  /-- CLZ, R138. -/
  | clz (f : FR)
  /-- CTZ, R138. -/
  | ctz (f : FR)
  /-- POPC, R138. -/
  | popc (f : FR)
  /-- BSWAP, R138. -/
  | bswap (f : FR)
  /-- SEXT, R139. -/
  | sext (f : FR)
  /-- ZEXT, R139. -/
  | zext (f : FR)
  /-- ADDI, R140. -/
  | addi (f : FI)
  /-- ANDI, R140. -/
  | andi (f : FI)
  /-- ORI, R140. -/
  | ori (f : FI)
  /-- XORI, R140. -/
  | xori (f : FI)
  /-- SHLI, R140. -/
  | shli (f : FI)
  /-- SHRI, R140. -/
  | shri (f : FI)
  /-- SARI, R140. -/
  | sari (f : FI)
  /-- CMPEQI, R140. -/
  | cmpeqi (f : FI)
  /-- CMPLTI, R140. -/
  | cmplti (f : FI)
  /-- CMPLTUI, R140. -/
  | cmpltui (f : FI)
  /-- LI, R141. -/
  | li (f : FLI)
  /-- LIH, R141. -/
  | lih (f : FLI)
  /-- FADD, R143. -/
  | fadd (f : FR)
  /-- FSUB, R143. -/
  | fsub (f : FR)
  /-- FMUL, R143. -/
  | fmul (f : FR)
  /-- FDIV, R143. -/
  | fdiv (f : FR)
  /-- FMIN, R143. -/
  | fmin (f : FR)
  /-- FMAX, R143. -/
  | fmax (f : FR)
  /-- FCMPEQ, R143. -/
  | fcmpeq (f : FR)
  /-- FCMPLT, R143. -/
  | fcmplt (f : FR)
  /-- FCMPLE, R143. -/
  | fcmple (f : FR)
  /-- FCVT, R144. -/
  | fcvt (f : FR)
  /-- FCLASS, R144. -/
  | fclass (f : FR)
  /-- CSRR, R145. -/
  | csrr (f : FR)
  /-- CSRW, R145. -/
  | csrw (f : FR)
  /-- BR, R146. -/
  | br (f : FB)
  /-- CALL, R146. -/
  | call (f : FB)
  /-- JR, R146. -/
  | jr (f : FR)
  /-- CALLR, R146. -/
  | callr (f : FR)
  /-- RET, R146. -/
  | ret (f : FR)
  /-- LOOP, R148. -/
  | loop (f : FR)
  /-- LEXIT, R149. -/
  | lexit (f : FR)
  /-- END, R153. -/
  | endk (f : FR)
  /-- TRAP, R153. -/
  | trap (f : FR)
  /-- TWAIT, R153. -/
  | twait (f : FR)
  /-- QSETF, R150. -/
  | qsetf (f : FR)
  /-- PCFG, R151. -/
  | pcfg (f : FR)
  /-- XFER, R152. -/
  | xfer (f : FR)
  /-- NOP, R153. -/
  | nop (f : FR)
  /-- ERET, R371. -/
  | eret (f : FR)
  /-- PCSRR, R374. -/
  | pcsrr (f : FR)
  /-- PCSRW, R374. -/
  | pcsrw (f : FR)
  /-- TLBINV, R375. -/
  | tlbinv (f : FR)
  /-- LDB, R154. -/
  | ldb (f : FM)
  /-- LDBU, R154. -/
  | ldbu (f : FM)
  /-- LDH, R154. -/
  | ldh (f : FM)
  /-- LDHU, R154. -/
  | ldhu (f : FM)
  /-- LDW, R154. -/
  | ldw (f : FM)
  /-- LDWU, R154. -/
  | ldwu (f : FM)
  /-- LDD, R154. -/
  | ldd (f : FM)
  /-- STB, R154. -/
  | stb (f : FM)
  /-- STH, R154. -/
  | sth (f : FM)
  /-- STW, R154. -/
  | stw (f : FM)
  /-- STD, R154. -/
  | std (f : FM)
  /-- LD, R155. -/
  | ld (f : FMO)
  /-- ST, R155. -/
  | st (f : FMO)
  /-- FENCE, R157. -/
  | fence (f : FMO)
  /-- AMOADD, R158. -/
  | amoadd (f : FMX)
  /-- AMOAND, R158. -/
  | amoand (f : FMX)
  /-- AMOOR, R158. -/
  | amoor (f : FMX)
  /-- AMOXOR, R158. -/
  | amoxor (f : FMX)
  /-- AMOMIN, R158. -/
  | amomin (f : FMX)
  /-- AMOMAX, R158. -/
  | amomax (f : FMX)
  /-- AMOMINU, R158. -/
  | amominu (f : FMX)
  /-- AMOMAXU, R158. -/
  | amomaxu (f : FMX)
  /-- AMOSWP, R158. -/
  | amoswp (f : FMX)
  /-- AMOCAS, R158. -/
  | amocas (f : FMX)
  /-- BINIT, R159. -/
  | binit (f : FR)
  /-- BARR, R159. -/
  | barr (f : FR)
  /-- BDROP, R159. -/
  | bdrop (f : FR)
  /-- BWAIT, R159. -/
  | bwait (f : FR)
  /-- QPUSH, R161. -/
  | qpush (f : FR)
  /-- LDSC, R188. -/
  | ldsc (f : FLS)
  /-- LDSCB, R188. -/
  | ldscb (f : FLS)
  /-- EMPTY, R46. -/
  | empty
  /-- VADD, R169. -/
  | vadd (u : Unit2) (f : FV)
  /-- VSUB, R169. -/
  | vsub (u : Unit2) (f : FV)
  /-- VMUL, R169. -/
  | vmul (u : Unit2) (f : FV)
  /-- VMULH, R169. -/
  | vmulh (u : Unit2) (f : FV)
  /-- VFMA, R169. -/
  | vfma (u : Unit2) (f : FV)
  /-- VFMS, R169. -/
  | vfms (u : Unit2) (f : FV)
  /-- VFNMA, R169. -/
  | vfnma (u : Unit2) (f : FV)
  /-- VFNMS, R169. -/
  | vfnms (u : Unit2) (f : FV)
  /-- VMIN, R169. -/
  | vmin (u : Unit2) (f : FV)
  /-- VMAX, R169. -/
  | vmax (u : Unit2) (f : FV)
  /-- VABS, R169. -/
  | vabs (u : Unit2) (f : FV)
  /-- VNEG, R169. -/
  | vneg (u : Unit2) (f : FV)
  /-- VADDS, R169. -/
  | vadds (u : Unit2) (f : FV)
  /-- VSUBS, R169. -/
  | vsubs (u : Unit2) (f : FV)
  /-- VAVG, R169. -/
  | vavg (u : Unit2) (f : FV)
  /-- VCLAMP, R169. -/
  | vclamp (u : Unit2) (f : FV)
  /-- VCMPEQ, R170. -/
  | vcmpeq (u : Unit2) (f : FV)
  /-- VCMPNE, R170. -/
  | vcmpne (u : Unit2) (f : FV)
  /-- VCMPLT, R170. -/
  | vcmplt (u : Unit2) (f : FV)
  /-- VCMPLE, R170. -/
  | vcmple (u : Unit2) (f : FV)
  /-- VCMPGT, R170. -/
  | vcmpgt (u : Unit2) (f : FV)
  /-- VCMPGE, R170. -/
  | vcmpge (u : Unit2) (f : FV)
  /-- VSEL, R171. -/
  | vsel (u : Unit2) (f : FV)
  /-- VMOV, R171. -/
  | vmov (u : Unit2) (f : FV)
  /-- VAND, R172. -/
  | vand (u : Unit2) (f : FV)
  /-- VOR, R172. -/
  | vor (u : Unit2) (f : FV)
  /-- VXOR, R172. -/
  | vxor (u : Unit2) (f : FV)
  /-- VANDN, R172. -/
  | vandn (u : Unit2) (f : FV)
  /-- VNOT, R172. -/
  | vnot (u : Unit2) (f : FV)
  /-- VSHL, R172. -/
  | vshl (u : Unit2) (f : FV)
  /-- VSHR, R172. -/
  | vshr (u : Unit2) (f : FV)
  /-- VSAR, R172. -/
  | vsar (u : Unit2) (f : FV)
  /-- VCLZ, R172. -/
  | vclz (u : Unit2) (f : FV)
  /-- VPOPC, R172. -/
  | vpopc (u : Unit2) (f : FV)
  /-- VMACW, R173. -/
  | vmacw (u : Unit2) (f : FV)
  /-- VCVT, R174. -/
  | vcvt (u : Unit2) (f : FV)
  /-- VQNT, R175. -/
  | vqnt (u : Unit2) (f : FV)
  /-- VDQN, R175. -/
  | vdqn (u : Unit2) (f : FV)
  /-- VBCAST, R176. -/
  | vbcast (u : Unit2) (f : FV)
  /-- VPERM, R176. -/
  | vperm (u : Unit2) (f : FV)
  /-- VSHUF, R177. -/
  | vshuf (u : Unit2) (f : FV)
  /-- VROT, R176. -/
  | vrot (u : Unit2) (f : FV)
  /-- VIOTA, R176. -/
  | viota (u : Unit2) (f : FV)
  /-- VLUT, R176. -/
  | vlut (u : Unit2) (f : FV)
  /-- VPACK, R178. -/
  | vpack (u : Unit2) (f : FV)
  /-- VUNPK, R178. -/
  | vunpk (u : Unit2) (f : FV)
  /-- VRSUM, R179. -/
  | vrsum (u : Unit2) (f : FV)
  /-- VRMAX, R179. -/
  | vrmax (u : Unit2) (f : FV)
  /-- VRMIN, R179. -/
  | vrmin (u : Unit2) (f : FV)
  /-- VSTAT, R180. -/
  | vstat (u : Unit2) (f : FV)
  /-- VNORM, R181. -/
  | vnorm (u : Unit2) (f : FV)
  /-- VTOPK, R182. -/
  | vtopk (u : Unit2) (f : FV)
  /-- VSORT, R183. -/
  | vsort (u : Unit2) (f : FV)
  /-- VSEGSUM, R184. -/
  | vsegsum (u : Unit2) (f : FV)
  /-- VMAND, R185. -/
  | vmand (u : Unit2) (f : FV)
  /-- VMOR, R185. -/
  | vmor (u : Unit2) (f : FV)
  /-- VMXOR, R185. -/
  | vmxor (u : Unit2) (f : FV)
  /-- VMNOT, R185. -/
  | vmnot (u : Unit2) (f : FV)
  /-- VMSET, R185. -/
  | vmset (u : Unit2) (f : FV)
  /-- VMPOP, R185. -/
  | vmpop (u : Unit2) (f : FV)
  /-- VXFER, R187. -/
  | vxfer (u : Unit2) (f : FV)
  /-- VSETROW, R186. -/
  | vsetrow (u : Unit2) (f : FV)
  /-- XFN, R198. -/
  | xfn (f : FV)
  /-- XEXP2, R196. -/
  | xexp2 (f : FV)
  /-- XLOG2, R196. -/
  | xlog2 (f : FV)
  /-- XRCP, R196. -/
  | xrcp (f : FV)
  /-- XRSQRT, R196. -/
  | xrsqrt (f : FV)
  /-- XSQRT, R196. -/
  | xsqrt (f : FV)
  /-- XTANH, R196. -/
  | xtanh (f : FV)
  /-- XSIGM, R196. -/
  | xsigm (f : FV)
  /-- XGELU, R196. -/
  | xgelu (f : FV)
  /-- XERF, R196. -/
  | xerf (f : FV)
  /-- XSIN, R196. -/
  | xsin (f : FV)
  /-- XCOS, R196. -/
  | xcos (f : FV)
  /-- XEXP, R196. -/
  | xexp (f : FV)
  /-- XSILU, R196. -/
  | xsilu (f : FV)
  /-- XSOFTPLUS, R196. -/
  | xsoftplus (f : FV)
  /-- XMOV, R195. -/
  | xmov (f : FV)
  /-- FMAT, R279. -/
  | fmat (f : FE)
  /-- FMATA, R279. -/
  | fmata (f : FE)
  /-- FGRADX, R263. -/
  | fgradx (f : FE)
  /-- FGRADC, R265. -/
  | fgradc (f : FE)
  /-- FUPD, R266. -/
  | fupd (f : FE)
  /-- REFINE, R267. -/
  | refine (f : FE)
  /-- CLEARG, R266. -/
  | clearg (f : FE)
  /-- GEMM, R280. -/
  | gemm (f : FE)
  /-- GEMMQ, R270. -/
  | gemmq (f : FE)
  /-- GEMMS, R269. -/
  | gemms (f : FE)
  /-- GEMMT, R280. -/
  | gemmt (f : FE)
  /-- FGRAD, R279. -/
  | fgrad (f : FE)
  /-- MCALL, R288. -/
  | mcall (f : FE)
  /-- MPLANE, R283. -/
  | mplane (f : FE)
  /-- MLDC, R284. -/
  | mldc (f : FE)
  /-- MSTC, R285. -/
  | mstc (f : FE)
  /-- MGRID, R284. -/
  | mgrid (f : FE)
  /-- MWLOAD, R284. -/
  | mwload (f : FE)
  /-- MSTAT, R286. -/
  | mstat (f : FE)
  /-- DCPY, R239. -/
  | dcpy (f : FE)
  /-- DMC, R240. -/
  | dmc (f : FE)
  /-- DGAT, R241. -/
  | dgat (f : FE)
  /-- DSCT, R241. -/
  | dsct (f : FE)
  /-- DZERO, R242. -/
  | dzero (f : FE)
  /-- DFILL, R242. -/
  | dfill (f : FE)
  /-- DPREF, R243. -/
  | dpref (f : FE)
  /-- DFLUSH, R244. -/
  | dflush (f : FE)
  /-- DINV, R245. -/
  | dinv (f : FE)
  /-- PHASE, R218. -/
  | phase (f : FE)
  /-- DJOIN, R246. -/
  | djoin (f : FE)
  /-- TMOV_OPR, R247. -/
  | tmovOpr (f : FE)
  /-- TMOV_QNT, R249. -/
  | tmovQnt (f : FE)
  /-- TMOV_DQN, R249. -/
  | tmovDqn (f : FE)
  /-- TMOV_LZC, R250. -/
  | tmovLzc (f : FE)
  /-- TMOV_LZD, R250. -/
  | tmovLzd (f : FE)
  /-- TMOV_CRC, R251. -/
  | tmovCrc (f : FE)
  /-- TMOV_RES, R247. -/
  | tmovRes (f : FE)
  /-- UREG, R311. -/
  | ureg (f : FE)
  /-- UREL, R313. -/
  | urel (f : FE)
  /-- UPD, R312. -/
  | upd (f : FE)
  /-- UFENCE, R314. -/
  | ufence (f : FE)
  /-- CSEND, R356. -/
  | csend (f : FE)
  /-- CRECV_STORE, R357. -/
  | crecvStore (f : FE)
  /-- CRECV_ADDW, R357. -/
  | crecvAddw (f : FE)
  /-- CRECV_ADDQ, R357. -/
  | crecvAddq (f : FE)
  /-- MV, R331. -/
  | mv (f : FMv)
  /-- IALU_ADD, R334. -/
  | ialuAdd (f : FMv)
  /-- IALU_SUB, R334. -/
  | ialuSub (f : FMv)
  /-- IALU_MUL, R334. -/
  | ialuMul (f : FMv)
  /-- IALU_AND, R334. -/
  | ialuAnd (f : FMv)
  /-- IALU_OR, R334. -/
  | ialuOr (f : FMv)
  /-- IALU_XOR, R334. -/
  | ialuXor (f : FMv)
  /-- IALU_SHL, R334. -/
  | ialuShl (f : FMv)
  /-- IALU_SHR, R334. -/
  | ialuShr (f : FMv)
  /-- IALU_SAR, R334. -/
  | ialuSar (f : FMv)
  /-- IALU_MINU, R334. -/
  | ialuMinu (f : FMv)
  /-- IALU_MAXU, R334. -/
  | ialuMaxu (f : FMv)
  /-- IALU_CEQ, R334. -/
  | ialuCeq (f : FMv)
  /-- IALU_CNE, R334. -/
  | ialuCne (f : FMv)
  /-- IALU_CLT, R334. -/
  | ialuClt (f : FMv)
  /-- IALU_CLTU, R334. -/
  | ialuCltu (f : FMv)
  /-- IALU_CLE, R334. -/
  | ialuCle (f : FMv)
  /-- VALU_FADD, R335. -/
  | valuFadd (f : FMv)
  /-- VALU_FSUB, R335. -/
  | valuFsub (f : FMv)
  /-- VALU_FMUL, R335. -/
  | valuFmul (f : FMv)
  /-- VALU_FMA, R335. -/
  | valuFma (f : FMv)
  /-- VALU_FMAX, R335. -/
  | valuFmax (f : FMv)
  /-- VALU_FMIN, R335. -/
  | valuFmin (f : FMv)
  /-- VALU_IADD, R335. -/
  | valuIadd (f : FMv)
  /-- VALU_BFWIDE, R335. -/
  | valuBfwide (f : FMv)
  /-- VALU_BFNARROW, R335. -/
  | valuBfnarrow (f : FMv)
  /-- VALU_AND, R335. -/
  | valuAnd (f : FMv)
  /-- VALU_OR, R335. -/
  | valuOr (f : FMv)
  /-- VALU_XOR, R335. -/
  | valuXor (f : FMv)
  /-- LSU_LDD, R336. -/
  | lsuLdd (f : FMv)
  /-- LSU_LDW, R336. -/
  | lsuLdw (f : FMv)
  /-- LSU_LDY, R336. -/
  | lsuLdy (f : FMv)
  /-- LSU_STD, R336. -/
  | lsuStd (f : FMv)
  /-- LSU_STW, R336. -/
  | lsuStw (f : FMv)
  /-- LSU_STY, R336. -/
  | lsuSty (f : FMv)
  /-- LSU_MDRD, R336. -/
  | lsuMdrd (f : FMv)
  /-- LSU_MDWR, R336. -/
  | lsuMdwr (f : FMv)
  /-- ROW_CPY, R338. -/
  | rowCpy (f : FMv)
  /-- ROW_ZERO, R338. -/
  | rowZero (f : FMv)
  /-- ROW_TOBUF, R338. -/
  | rowTobuf (f : FMv)
  /-- ROW_FROMBUF, R338. -/
  | rowFrombuf (f : FMv)
  /-- CVS_APPLY, R341. -/
  | cvsApply (f : FMv)
  /-- CVS_COUNT, R341. -/
  | cvsCount (f : FMv)
  /-- SYNC_INV, R342. -/
  | syncInv (f : FMv)
  /-- SYNC_WBINV, R342. -/
  | syncWbinv (f : FMv)
  /-- SYNC_FENCE, R342. -/
  | syncFence (f : FMv)
  /-- SYNC_SIGNAL, R342. -/
  | syncSignal (f : FMv)
  /-- PC_JUMP, R343. -/
  | pcJump (f : FMv)
  /-- PC_CALL, R343. -/
  | pcCall (f : FMv)
  /-- PC_RET, R343. -/
  | pcRet (f : FMv)
  /-- PC_HALT, R343. -/
  | pcHalt (f : FMv)
  /-- PC_YIELD, R343. -/
  | pcYield (f : FMv)
  /-- OASIS_RESULT_LAND, R333. -/
  | oasisResultLand (unit : Nat)
  /-- OASIS_OP_COMPLETE, R333. -/
  | oasisOpComplete (unit : Nat)
  /-- DRAM_REFRESH_DUE, R340. -/
  | dramRefreshDue (bank : Nat)
  /-- OASIS_PREEMPT, R346. -/
  | oasisPreempt
  /-- NOP_EMPTY_BUNDLE, R153. -/
  | nopEmptyBundle
  /-- LOOP_EXECUTION_END, R32. -/
  | loopExecutionEnd
  /-- PENDING_WRITE_LAND, R68. -/
  | pendingWriteLand (entry : Nat)
  /-- OVERDUE_VALUE_ARRIVE, R66. -/
  | overdueValueArrive (level entry : Nat)
  /-- SCOREBOARD_RESULT_WRITE, R64. -/
  | scoreboardResultWrite (reg : Nat)
  /-- DRAIN_CYCLE, R68. -/
  | drainCycle
  /-- INSTANCE_RETIRE, R41. -/
  | instRetire (inst : InstRef)
  /-- INSTANCE_STOP, R372. -/
  | instStop (core : Nat)
  /-- STORE_LOST_FAULT, R368. -/
  | storeLostFault (pa : Word)
  /-- BINIT_DEFERRED, R160. -/
  | binitDeferred
  /-- ENGINE_OP_START, R229. -/
  | engineOpStart (op : Nat)
  /-- TOKEN_COMPLETE, R230. -/
  | tokenComplete (op : OpRef)
  /-- DMC_LANDING, R240. -/
  | dmcLanding (op rank : Nat)
  /-- PHASE_CACHE_EIGHTH_DRAINED, R218. -/
  | phaseCacheEighthDrained (op bank : Nat)
  /-- PHASE_SCRATCH_EIGHTH_RELEASED, R218. -/
  | phaseScratchEighthReleased (op bank : Nat)
  /-- STORE_ACKNOWLEDGE, R212. -/
  | storeAcknowledge
  /-- RELEASE_STORE_PERFORM, R157. -/
  | releaseStorePerform
  /-- ACQUIRE_FENCE_REFRESH, R300. -/
  | acquireFenceRefresh
  /-- HOME_WRITE_APPLY, R300. -/
  | homeWriteApply (w : HomeRef)
  /-- LINE_FILL, R300. -/
  | lineFill (level : CacheLevel) (sector : Nat)
  /-- L2_EVICTION, R213. -/
  | l2Eviction (sector : Nat)
  /-- MSC_EVICTION, R223. -/
  | mscEviction (sector : Nat)
  /-- AMO_PERFORM, R158. -/
  | amoPerform
  /-- TABLE_WALK, R396. -/
  | tableWalk (vmid : Nat) (va : Word) (acc : Access)
  /-- TLBINV_COMPLETE, R375. -/
  | tlbinvComplete
  /-- PAIR_ACCEPT, R315. -/
  | pairAccept (pair : PairRef)
  /-- CSEND_TRANSMIT, R358. -/
  | csendTransmit (op : Nat)
  /-- MESSAGE_ACCEPT, R358. -/
  | messageAccept (msg : Message)
  /-- CRECV_MATCH, R353. -/
  | crecvMatch (op : Nat)
  /-- FRAME_DATA_RECEIVE, R414. -/
  | frameDataReceive (link : Nat) (f : Frame)
  /-- FRAME_ACK_RECEIVE, R415. -/
  | frameAckReceive (link : Nat) (f : Frame)
  /-- FRAME_NACK_RECEIVE, R415. -/
  | frameNackReceive (link : Nat) (f : Frame)
  /-- FRAME_IDLE_RECEIVE, R412. -/
  | frameIdleReceive (link : Nat) (f : Frame)
  /-- ACK_TIMER, R415. -/
  | ackTimer (link : Nat)
  /-- RETRANSMIT_TIMEOUT, R414. -/
  | retransmitTimeout (link : Nat)
  /-- LINK_FAIL, R414. -/
  | linkFail (link : Nat)
  /-- EPOCH_END, R413. -/
  | epochEnd (link : Nat)
  /-- LINK_TRAIN, R416. -/
  | linkTrain (link : Nat) (passed : Bool)
  /-- HELLO, R417. -/
  | hello (link : Nat) (m : Hello)
  /-- PROOF, R417. -/
  | proof (link : Nat) (sig : List Byte) (clean : Bool)
  /-- READY, R417. -/
  | ready (link : Nat) (rbuf ft : Word) (clean : Bool)
  /-- ABORT, R417. -/
  | abort (link step reason : Nat) (clean : Bool)
  /-- FABRIC_VIRT_ACCESS, R409. -/
  | fabricVirtAccess (a : FabricAccess)
  /-- CTL_WRITE, R409. -/
  | ctlWrite (from_ : CtlSource) (off : Nat) (data : List Byte)
  /-- DOORBELL, R379. -/
  | doorbell (from_ : CtlSource) (vmid queue : Nat) (value : Word)
  /-- FEATURE_ACCEPT, R420. -/
  | featureAccept (mask : BitVec 512)
  /-- REPLACE_CLEAR, R425. -/
  | replaceClear
  /-- IMGADDR, R426. -/
  | imgaddr (pa : Word)
  /-- IMGSTAT_WRITE, R426. -/
  | imgstatWrite
  /-- BRING_UP, R418. -/
  | bringUp (r : BringUp)
  /-- TEMPERATURE_SWING, R421. -/
  | temperatureSwing (die : Nat) (temp : Int)
  /-- VBUS_RETEST, R421. -/
  | vbusRetest (die : Nat)
  /-- STORE_LAYER_TRIP, R422. -/
  | storeLayerTrip (die : Nat)
  /-- STORE_LAYER_DEADLINE, R422. -/
  | storeLayerDeadline (die : Nat)
  /-- STORE_LAYER_RESTART, R422. -/
  | storeLayerRestart (die : Nat)
  /-- POWER_CAP, R423. -/
  | powerCap
  /-- UNCORRECTABLE_ERROR, R226. -/
  | uncorrectableError (loc : ErrorPlace)
  /-- RESOURCE_RETIRE, R424. -/
  | resourceRetire (r : Resource)
  /-- LAUNCH_ACCEPT, R382. -/
  | launchAccept (vmid : Nat) (ring : RingRef) (queue : Nat)
  /-- CONTROL_KILL, R383. -/
  | controlKill (launch : Nat)
  /-- LAUNCH_READY, R385. -/
  | launchReady (launch : Nat)
  /-- GROUP_PLACE, R388. -/
  | groupPlace (launch : Nat)
  /-- OASIS_INSTANCE_PLACE, R388. -/
  | oasisInstPlace (launch : Nat)
  /-- DRR_ROUND, R389. -/
  | drrRound
  /-- AGEING_INTERVAL, R389. -/
  | ageingInterval
  /-- PRIORITY_PREEMPT, R390. -/
  | priorityPreempt (launch : Nat)
  /-- TIME_SLICE_PREEMPT, R390. -/
  | timeSlicePreempt (launch : Nat)
  /-- MEMBER_HALT, R37. -/
  | memberHalt (core : Nat)
  /-- GROUP_SAVE, R391. -/
  | groupSave (launch group : Nat)
  /-- ABANDON_INTERVAL, R391. -/
  | abandonInterval (launch group : Nat)
  /-- GROUP_RESUME, R391. -/
  | groupResume (launch group : Nat)
  /-- LAUNCH_COMPLETE, R42. -/
  | launchComplete (launch : Nat)
  /-- OBJECT_LOAD, R98. -/
  | objectLoad (vmid : Nat) (image : List Byte) (base : Word)
  /-- VBUS_RETEST_DONE, R421. -/
  | vbusRetestDone (die : Nat) (lost : Nat) (quads : List Nat)
  deriving DecidableEq, Repr

end Sys2Proof
end

