-- ==== Sys2Proof/Config.lean ====
section
/-! DEFINITION. What an implementation fixes and the values the spec leaves open. Everything opaque here is free: no
proof can see a value of it (log 1). -/

namespace Sys2Proof.Config

/-- Free bits and words, one for each value of the counter State.freeIdx (log 1). -/
opaque freeBit : Nat → Bool
opaque freeNat : Nat → Nat
opaque freeWord : Nat → Word

/-- Which of the things that could happen next does happen: an index into their list (R229, R294; log 7). -/
opaque schedule : Nat → Nat

/-- The result code of an architected special function, from its index, the element format and the input code
(R193, R198; log 12). -/
opaque xfn : Nat → Nat → BitVec 32 → BitVec 32

/-- The K that a RANGE step leaves of a NaN, by its step word (R198, R202; log 28). -/
opaque nanK : Word → Int

/-- What a loadable routine leaves: its status, INFO, and the bytes it writes into the array and into its shapes, as
(which, offset, byte) triples (R288; log 13). -/
opaque routineStatus : Nat → BitVec 8
opaque routineInfo : Nat → BitVec 56
opaque routineWrites : Nat → List (Nat × Nat × Byte)
/-- The shape registers that a routine image reads in translated memory, as a mask, by its image id and version. -/
opaque routineReads : Nat → Nat → Nat

/-- The Horyel root key in the boot ROM, and the private key of the module's own certificate (R416 to R418; log 14). -/
opaque horyelKey : List Byte
opaque deviceKey : List Byte
/-- The private key of the followed side of a link, and the nonce it sends, per training attempt (R416). -/
opaque privateKey : Nat → List Byte
opaque nonce : Nat → List Byte
/-- The certificate chain that the module sends (R417), and the payloads in which it sends a message (R356, R412). -/
opaque certChain : List Byte
opaque wire : Message → List (List Byte)

/-- The stream the compressor chooses for a block (R223, R250; log 20). -/
opaque compress : List Byte → List Byte

/-- Where a stack's compression metadata region begins, as an offset in the stack (R220; log 22). -/
opaque metaBase : Nat → Nat

/-- The eighth of the die's stacked stores that holds the home slice of a sector: core in die · 128 + bank · 8 + eighth
(R213, R218; log 52). -/
opaque homeSlice : Nat → Nat

/-- The most steps that something which must happen in the end is passed over for other things (R43, R293; log 7). -/
opaque patience : Nat

/-- The trip point of the store layers in °C (R422; log 49). -/
opaque tripPoint : Int

/-- Where the tables of reserved HBM stand (R351, R384, R403, R409; log 22). -/
opaque vdevTable : Nat
opaque handleTable : Nat
opaque groupTable : Nat
opaque admitTable : Nat

/-- A (CAMPUS, PKG) pair is among the 16 that the 128 bytes of a device's part of the admission table hold (R409; log
22). -/
opaque admits : List Byte → Nat → Nat → Bool

/-- The dispatcher's programmable times, in ns: PREEMPT_DELAY, the slice, the ageing interval, the round, the abandon
interval (R389 to R391; log 47). -/
opaque preemptDelay : BitVec 48
opaque slice : BitVec 48
opaque ageing : BitVec 48
opaque round : BitVec 48
opaque abandon : BitVec 48

/-- Bytes a device's receive store holds (R358), and bytes an Isthmus or Strait retry buffer holds (R414). -/
opaque receiveStore : Nat

end Sys2Proof.Config
end

