-- ==== Sys2Proof/Decode.lean ====
section
/-! DEFINITION. The decoder of slot words, bundles and Oasis words, total on any words, and the encoder (R45 to R56,
R70 to R76, R327, R328). A word is first decoded to the row its opcode names; whether its fields are accepted is
decided in Machine/Check.lean, which gives the cause of R61 or R332. -/

namespace Sys2Proof

/-- Which slots' maps a 32-bit opcode stands in (R70, R71). -/
inductive SClass where
  | common
  | s0
  | s1
  deriving DecidableEq, Repr

/-- An instruction by its encoding. -/
inductive View where
  | sR (c : SClass) (op : Nat) (f : FR)
  | sI (c : SClass) (op : Nat) (f : FI)
  | sLI (c : SClass) (op : Nat) (f : FLI)
  | sB (c : SClass) (op : Nat) (f : FB)
  | sM (c : SClass) (op : Nat) (f : FM)
  | sMO (c : SClass) (op : Nat) (f : FMO)
  | sMX (c : SClass) (op : Nat) (f : FMX)
  | l (op : Nat) (f : FLS)
  | v (op : Nat) (u : Unit2) (f : FV)
  | x (op : Nat) (f : FV)
  | m (op : Nat) (f : FE)
  | d (op : Nat) (f : FE)
  | move (f : FMv)
  | empty
  | event
  deriving DecidableEq, Repr

/-- How each instruction is encoded: its slot class, opcode and fields; events have no encoding (R70 to R76, R327). -/
def view : Instr → View
  | .add f => .sR .common 0 f
  | .sub f => .sR .common 1 f
  | .mul f => .sR .common 2 f
  | .mulh f => .sR .common 3 f
  | .mulhu f => .sR .common 4 f
  | .div f => .sR .common 5 f
  | .divu f => .sR .common 6 f
  | .rem f => .sR .common 7 f
  | .remu f => .sR .common 8 f
  | .and f => .sR .common 9 f
  | .or f => .sR .common 10 f
  | .xor f => .sR .common 11 f
  | .andn f => .sR .common 12 f
  | .orn f => .sR .common 13 f
  | .shl f => .sR .common 14 f
  | .shr f => .sR .common 15 f
  | .sar f => .sR .common 16 f
  | .rol f => .sR .common 17 f
  | .ror f => .sR .common 18 f
  | .min f => .sR .common 19 f
  | .max f => .sR .common 20 f
  | .minu f => .sR .common 21 f
  | .maxu f => .sR .common 22 f
  | .abs f => .sR .common 23 f
  | .cmpeq f => .sR .common 24 f
  | .cmpne f => .sR .common 25 f
  | .cmplt f => .sR .common 26 f
  | .cmpltu f => .sR .common 27 f
  | .cmple f => .sR .common 28 f
  | .cmpleu f => .sR .common 29 f
  | .sel f => .sR .common 30 f
  | .clz f => .sR .common 31 f
  | .ctz f => .sR .common 32 f
  | .popc f => .sR .common 33 f
  | .bswap f => .sR .common 34 f
  | .sext f => .sR .common 35 f
  | .zext f => .sR .common 36 f
  | .addi f => .sI .common 37 f
  | .andi f => .sI .common 38 f
  | .ori f => .sI .common 39 f
  | .xori f => .sI .common 40 f
  | .shli f => .sI .common 41 f
  | .shri f => .sI .common 42 f
  | .sari f => .sI .common 43 f
  | .cmpeqi f => .sI .common 44 f
  | .cmplti f => .sI .common 45 f
  | .cmpltui f => .sI .common 46 f
  | .li f => .sLI .common 47 f
  | .lih f => .sLI .common 48 f
  | .fadd f => .sR .common 49 f
  | .fsub f => .sR .common 50 f
  | .fmul f => .sR .common 51 f
  | .fdiv f => .sR .common 52 f
  | .fmin f => .sR .common 53 f
  | .fmax f => .sR .common 54 f
  | .fcmpeq f => .sR .common 55 f
  | .fcmplt f => .sR .common 56 f
  | .fcmple f => .sR .common 57 f
  | .fcvt f => .sR .common 58 f
  | .fclass f => .sR .common 59 f
  | .csrr f => .sR .common 60 f
  | .csrw f => .sR .common 61 f
  | .br f => .sB .s0 64 f
  | .call f => .sB .s0 65 f
  | .jr f => .sR .s0 66 f
  | .callr f => .sR .s0 67 f
  | .ret f => .sR .s0 68 f
  | .loop f => .sR .s0 69 f
  | .lexit f => .sR .s0 70 f
  | .endk f => .sR .s0 71 f
  | .trap f => .sR .s0 72 f
  | .twait f => .sR .s0 73 f
  | .qsetf f => .sR .s0 74 f
  | .pcfg f => .sR .s0 75 f
  | .xfer f => .sR .s0 76 f
  | .nop f => .sR .s0 77 f
  | .eret f => .sR .s0 78 f
  | .pcsrr f => .sR .s0 79 f
  | .pcsrw f => .sR .s0 80 f
  | .tlbinv f => .sR .s0 81 f
  | .ldb f => .sM .s1 64 f
  | .ldbu f => .sM .s1 65 f
  | .ldh f => .sM .s1 66 f
  | .ldhu f => .sM .s1 67 f
  | .ldw f => .sM .s1 68 f
  | .ldwu f => .sM .s1 69 f
  | .ldd f => .sM .s1 70 f
  | .stb f => .sM .s1 72 f
  | .sth f => .sM .s1 73 f
  | .stw f => .sM .s1 74 f
  | .std f => .sM .s1 75 f
  | .ld f => .sMO .s1 76 f
  | .st f => .sMO .s1 77 f
  | .fence f => .sMO .s1 78 f
  | .amoadd f => .sMX .s1 80 f
  | .amoand f => .sMX .s1 81 f
  | .amoor f => .sMX .s1 82 f
  | .amoxor f => .sMX .s1 83 f
  | .amomin f => .sMX .s1 84 f
  | .amomax f => .sMX .s1 85 f
  | .amominu f => .sMX .s1 86 f
  | .amomaxu f => .sMX .s1 87 f
  | .amoswp f => .sMX .s1 88 f
  | .amocas f => .sMX .s1 89 f
  | .binit f => .sR .s1 90 f
  | .barr f => .sR .s1 91 f
  | .bdrop f => .sR .s1 92 f
  | .bwait f => .sR .s1 93 f
  | .qpush f => .sR .s1 94 f
  | .ldsc f => .l 0 f
  | .ldscb f => .l 1 f
  | .empty => .empty
  | .vadd u f => .v 0 u f
  | .vsub u f => .v 1 u f
  | .vmul u f => .v 2 u f
  | .vmulh u f => .v 3 u f
  | .vfma u f => .v 4 u f
  | .vfms u f => .v 5 u f
  | .vfnma u f => .v 6 u f
  | .vfnms u f => .v 7 u f
  | .vmin u f => .v 8 u f
  | .vmax u f => .v 9 u f
  | .vabs u f => .v 10 u f
  | .vneg u f => .v 11 u f
  | .vadds u f => .v 12 u f
  | .vsubs u f => .v 13 u f
  | .vavg u f => .v 14 u f
  | .vclamp u f => .v 15 u f
  | .vcmpeq u f => .v 16 u f
  | .vcmpne u f => .v 17 u f
  | .vcmplt u f => .v 18 u f
  | .vcmple u f => .v 19 u f
  | .vcmpgt u f => .v 20 u f
  | .vcmpge u f => .v 21 u f
  | .vsel u f => .v 22 u f
  | .vmov u f => .v 23 u f
  | .vand u f => .v 24 u f
  | .vor u f => .v 25 u f
  | .vxor u f => .v 26 u f
  | .vandn u f => .v 27 u f
  | .vnot u f => .v 28 u f
  | .vshl u f => .v 29 u f
  | .vshr u f => .v 30 u f
  | .vsar u f => .v 31 u f
  | .vmacw u f => .v 32 u f
  | .vcvt u f => .v 33 u f
  | .vqnt u f => .v 34 u f
  | .vdqn u f => .v 35 u f
  | .vbcast u f => .v 36 u f
  | .vperm u f => .v 37 u f
  | .vshuf u f => .v 38 u f
  | .vrot u f => .v 39 u f
  | .viota u f => .v 40 u f
  | .vlut u f => .v 41 u f
  | .vpack u f => .v 42 u f
  | .vunpk u f => .v 43 u f
  | .vrsum u f => .v 44 u f
  | .vrmax u f => .v 45 u f
  | .vrmin u f => .v 46 u f
  | .vstat u f => .v 47 u f
  | .vnorm u f => .v 48 u f
  | .vtopk u f => .v 49 u f
  | .vsort u f => .v 50 u f
  | .vsegsum u f => .v 51 u f
  | .vmand u f => .v 52 u f
  | .vmor u f => .v 53 u f
  | .vmxor u f => .v 54 u f
  | .vmnot u f => .v 55 u f
  | .vmset u f => .v 56 u f
  | .vmpop u f => .v 57 u f
  | .vxfer u f => .v 58 u f
  | .vsetrow u f => .v 59 u f
  | .vclz u f => .v 60 u f
  | .vpopc u f => .v 61 u f
  | .xfn f => .x 0 f
  | .xexp2 f => .x 0 f
  | .xlog2 f => .x 0 f
  | .xrcp f => .x 0 f
  | .xrsqrt f => .x 0 f
  | .xsqrt f => .x 0 f
  | .xtanh f => .x 0 f
  | .xsigm f => .x 0 f
  | .xgelu f => .x 0 f
  | .xerf f => .x 0 f
  | .xsin f => .x 0 f
  | .xcos f => .x 0 f
  | .xexp f => .x 0 f
  | .xsilu f => .x 0 f
  | .xsoftplus f => .x 0 f
  | .xmov f => .x 1 f
  | .fmat f => .m 0 f
  | .fmata f => .m 0 f
  | .fgradx f => .m 0 f
  | .fgradc f => .m 0 f
  | .fupd f => .m 0 f
  | .refine f => .m 0 f
  | .clearg f => .m 0 f
  | .gemm f => .m 0 f
  | .gemmq f => .m 0 f
  | .gemms f => .m 0 f
  | .gemmt f => .m 0 f
  | .fgrad f => .m 0 f
  | .mcall f => .m 0 f
  | .mplane f => .m 1 f
  | .mldc f => .m 2 f
  | .mstc f => .m 3 f
  | .mgrid f => .m 4 f
  | .mwload f => .m 5 f
  | .mstat f => .m 6 f
  | .dcpy f => .d 0 f
  | .dmc f => .d 1 f
  | .dgat f => .d 2 f
  | .dsct f => .d 3 f
  | .dzero f => .d 4 f
  | .dfill f => .d 5 f
  | .dpref f => .d 6 f
  | .dflush f => .d 7 f
  | .dinv f => .d 8 f
  | .phase f => .d 9 f
  | .djoin f => .d 10 f
  | .ureg f => .d 16 f
  | .urel f => .d 17 f
  | .upd f => .d 18 f
  | .ufence f => .d 19 f
  | .csend f => .d 24 f
  | .tmovOpr f => .d 11 f
  | .tmovQnt f => .d 11 f
  | .tmovDqn f => .d 11 f
  | .tmovLzc f => .d 11 f
  | .tmovLzd f => .d 11 f
  | .tmovCrc f => .d 11 f
  | .tmovRes f => .d 11 f
  | .crecvStore f => .d 25 f
  | .crecvAddw f => .d 25 f
  | .crecvAddq f => .d 25 f
  | .mv f => .move f
  | .ialuAdd f => .move f
  | .ialuSub f => .move f
  | .ialuMul f => .move f
  | .ialuAnd f => .move f
  | .ialuOr f => .move f
  | .ialuXor f => .move f
  | .ialuShl f => .move f
  | .ialuShr f => .move f
  | .ialuSar f => .move f
  | .ialuMinu f => .move f
  | .ialuMaxu f => .move f
  | .ialuCeq f => .move f
  | .ialuCne f => .move f
  | .ialuClt f => .move f
  | .ialuCltu f => .move f
  | .ialuCle f => .move f
  | .valuFadd f => .move f
  | .valuFsub f => .move f
  | .valuFmul f => .move f
  | .valuFma f => .move f
  | .valuFmax f => .move f
  | .valuFmin f => .move f
  | .valuIadd f => .move f
  | .valuBfwide f => .move f
  | .valuBfnarrow f => .move f
  | .valuAnd f => .move f
  | .valuOr f => .move f
  | .valuXor f => .move f
  | .lsuLdd f => .move f
  | .lsuLdw f => .move f
  | .lsuLdy f => .move f
  | .lsuStd f => .move f
  | .lsuStw f => .move f
  | .lsuSty f => .move f
  | .lsuMdrd f => .move f
  | .lsuMdwr f => .move f
  | .rowCpy f => .move f
  | .rowZero f => .move f
  | .rowTobuf f => .move f
  | .rowFrombuf f => .move f
  | .cvsApply f => .move f
  | .cvsCount f => .move f
  | .syncInv f => .move f
  | .syncWbinv f => .move f
  | .syncFence f => .move f
  | .syncSignal f => .move f
  | .pcJump f => .move f
  | .pcCall f => .move f
  | .pcRet f => .move f
  | .pcHalt f => .move f
  | .pcYield f => .move f
  | .oasisResultLand _ => .event
  | .oasisOpComplete _ => .event
  | .dramRefreshDue _ => .event
  | .oasisPreempt => .event
  | .nopEmptyBundle => .event
  | .loopExecutionEnd => .event
  | .pendingWriteLand _ => .event
  | .overdueValueArrive _ _ => .event
  | .scoreboardResultWrite _ => .event
  | .drainCycle => .event
  | .instRetire _ => .event
  | .instStop _ => .event
  | .storeLostFault _ => .event
  | .binitDeferred => .event
  | .engineOpStart _ => .event
  | .tokenComplete _ => .event
  | .dmcLanding _ _ => .event
  | .phaseCacheEighthDrained _ _ => .event
  | .phaseScratchEighthReleased _ _ => .event
  | .storeAcknowledge => .event
  | .releaseStorePerform => .event
  | .acquireFenceRefresh => .event
  | .homeWriteApply _ => .event
  | .lineFill _ _ => .event
  | .l2Eviction _ => .event
  | .mscEviction _ => .event
  | .amoPerform => .event
  | .tableWalk _ _ _ => .event
  | .tlbinvComplete => .event
  | .pairAccept _ => .event
  | .csendTransmit _ => .event
  | .messageAccept _ => .event
  | .crecvMatch _ => .event
  | .frameDataReceive _ _ => .event
  | .frameAckReceive _ _ => .event
  | .frameNackReceive _ _ => .event
  | .frameIdleReceive _ _ => .event
  | .ackTimer _ => .event
  | .retransmitTimeout _ => .event
  | .linkFail _ => .event
  | .epochEnd _ => .event
  | .linkTrain _ _ => .event
  | .hello _ _ => .event
  | .proof _ _ _ => .event
  | .ready _ _ _ _ => .event
  | .abort _ _ _ _ => .event
  | .fabricVirtAccess _ => .event
  | .ctlWrite _ _ _ => .event
  | .doorbell _ _ _ _ => .event
  | .featureAccept _ => .event
  | .replaceClear => .event
  | .imgaddr _ => .event
  | .imgstatWrite => .event
  | .bringUp _ => .event
  | .temperatureSwing _ _ => .event
  | .vbusRetest _ => .event
  | .storeLayerTrip _ => .event
  | .storeLayerDeadline _ => .event
  | .storeLayerRestart _ => .event
  | .powerCap => .event
  | .uncorrectableError _ => .event
  | .resourceRetire _ => .event
  | .launchAccept _ _ _ => .event
  | .controlKill _ => .event
  | .launchReady _ => .event
  | .groupPlace _ => .event
  | .oasisInstPlace _ => .event
  | .drrRound => .event
  | .ageingInterval => .event
  | .priorityPreempt _ => .event
  | .timeSlicePreempt _ => .event
  | .memberHalt _ => .event
  | .groupSave _ _ => .event
  | .abandonInterval _ _ => .event
  | .groupResume _ _ => .event
  | .launchComplete _ => .event
  | .objectLoad _ _ _ => .event
  | .vbusRetestDone _ _ _ => .event

/-- The common block, subformat R (R70). -/
def rowCommonR : Nat → Option (FR → Instr)
  | 0 => some .add
  | 1 => some .sub
  | 2 => some .mul
  | 3 => some .mulh
  | 4 => some .mulhu
  | 5 => some .div
  | 6 => some .divu
  | 7 => some .rem
  | 8 => some .remu
  | 9 => some .and
  | 10 => some .or
  | 11 => some .xor
  | 12 => some .andn
  | 13 => some .orn
  | 14 => some .shl
  | 15 => some .shr
  | 16 => some .sar
  | 17 => some .rol
  | 18 => some .ror
  | 19 => some .min
  | 20 => some .max
  | 21 => some .minu
  | 22 => some .maxu
  | 23 => some .abs
  | 24 => some .cmpeq
  | 25 => some .cmpne
  | 26 => some .cmplt
  | 27 => some .cmpltu
  | 28 => some .cmple
  | 29 => some .cmpleu
  | 30 => some .sel
  | 31 => some .clz
  | 32 => some .ctz
  | 33 => some .popc
  | 34 => some .bswap
  | 35 => some .sext
  | 36 => some .zext
  | 49 => some .fadd
  | 50 => some .fsub
  | 51 => some .fmul
  | 52 => some .fdiv
  | 53 => some .fmin
  | 54 => some .fmax
  | 55 => some .fcmpeq
  | 56 => some .fcmplt
  | 57 => some .fcmple
  | 58 => some .fcvt
  | 59 => some .fclass
  | 60 => some .csrr
  | 61 => some .csrw
  | _ => none

/-- The common block, subformat I (R70). -/
def rowCommonI : Nat → Option (FI → Instr)
  | 37 => some .addi
  | 38 => some .andi
  | 39 => some .ori
  | 40 => some .xori
  | 41 => some .shli
  | 42 => some .shri
  | 43 => some .sari
  | 44 => some .cmpeqi
  | 45 => some .cmplti
  | 46 => some .cmpltui
  | _ => none

/-- The common block, subformat LI (R70). -/
def rowCommonLI : Nat → Option (FLI → Instr)
  | 47 => some .li
  | 48 => some .lih
  | _ => none

/-- The S0 map from 0x40, subformat B (R70). -/
def rowS0B : Nat → Option (FB → Instr)
  | 64 => some .br
  | 65 => some .call
  | _ => none

/-- The S0 map from 0x40, subformat R (R70). -/
def rowS0R : Nat → Option (FR → Instr)
  | 66 => some .jr
  | 67 => some .callr
  | 68 => some .ret
  | 69 => some .loop
  | 70 => some .lexit
  | 71 => some .endk
  | 72 => some .trap
  | 73 => some .twait
  | 74 => some .qsetf
  | 75 => some .pcfg
  | 76 => some .xfer
  | 77 => some .nop
  | 78 => some .eret
  | 79 => some .pcsrr
  | 80 => some .pcsrw
  | 81 => some .tlbinv
  | _ => none

/-- The S1 map from 0x40, subformat M (R71). -/
def rowS1M : Nat → Option (FM → Instr)
  | 64 => some .ldb
  | 65 => some .ldbu
  | 66 => some .ldh
  | 67 => some .ldhu
  | 68 => some .ldw
  | 69 => some .ldwu
  | 70 => some .ldd
  | 72 => some .stb
  | 73 => some .sth
  | 74 => some .stw
  | 75 => some .std
  | _ => none

/-- The S1 map from 0x40, subformat MO (R71). -/
def rowS1MO : Nat → Option (FMO → Instr)
  | 76 => some .ld
  | 77 => some .st
  | 78 => some .fence
  | _ => none

/-- The S1 map from 0x40, subformat MX (R71). -/
def rowS1MX : Nat → Option (FMX → Instr)
  | 80 => some .amoadd
  | 81 => some .amoand
  | 82 => some .amoor
  | 83 => some .amoxor
  | 84 => some .amomin
  | 85 => some .amomax
  | 86 => some .amominu
  | 87 => some .amomaxu
  | 88 => some .amoswp
  | 89 => some .amocas
  | _ => none

/-- The S1 map from 0x40, subformat R (R71). -/
def rowS1R : Nat → Option (FR → Instr)
  | 90 => some .binit
  | 91 => some .barr
  | 92 => some .bdrop
  | 93 => some .bwait
  | 94 => some .qpush
  | _ => none

/-- The L map, subformat LS (R76). -/
def rowL : Nat → Option (FLS → Instr)
  | 0 => some .ldsc
  | 1 => some .ldscb
  | _ => none

/-- The V map (R72). -/
def rowV : Nat → Option (Unit2 → FV → Instr)
  | 0 => some .vadd
  | 1 => some .vsub
  | 2 => some .vmul
  | 3 => some .vmulh
  | 4 => some .vfma
  | 5 => some .vfms
  | 6 => some .vfnma
  | 7 => some .vfnms
  | 8 => some .vmin
  | 9 => some .vmax
  | 10 => some .vabs
  | 11 => some .vneg
  | 12 => some .vadds
  | 13 => some .vsubs
  | 14 => some .vavg
  | 15 => some .vclamp
  | 16 => some .vcmpeq
  | 17 => some .vcmpne
  | 18 => some .vcmplt
  | 19 => some .vcmple
  | 20 => some .vcmpgt
  | 21 => some .vcmpge
  | 22 => some .vsel
  | 23 => some .vmov
  | 24 => some .vand
  | 25 => some .vor
  | 26 => some .vxor
  | 27 => some .vandn
  | 28 => some .vnot
  | 29 => some .vshl
  | 30 => some .vshr
  | 31 => some .vsar
  | 32 => some .vmacw
  | 33 => some .vcvt
  | 34 => some .vqnt
  | 35 => some .vdqn
  | 36 => some .vbcast
  | 37 => some .vperm
  | 38 => some .vshuf
  | 39 => some .vrot
  | 40 => some .viota
  | 41 => some .vlut
  | 42 => some .vpack
  | 43 => some .vunpk
  | 44 => some .vrsum
  | 45 => some .vrmax
  | 46 => some .vrmin
  | 47 => some .vstat
  | 48 => some .vnorm
  | 49 => some .vtopk
  | 50 => some .vsort
  | 51 => some .vsegsum
  | 52 => some .vmand
  | 53 => some .vmor
  | 54 => some .vmxor
  | 55 => some .vmnot
  | 56 => some .vmset
  | 57 => some .vmpop
  | 58 => some .vxfer
  | 59 => some .vsetrow
  | 60 => some .vclz
  | 61 => some .vpopc
  | _ => none

/-- The rows of XFN, by function index (R190, R191). -/
def rowXfn : Nat → FV → Instr
  | 0 => .xexp2
  | 1 => .xlog2
  | 2 => .xrcp
  | 3 => .xrsqrt
  | 4 => .xsqrt
  | 5 => .xtanh
  | 6 => .xsigm
  | 7 => .xgelu
  | 8 => .xerf
  | 9 => .xsin
  | 10 => .xcos
  | 11 => .xexp
  | 12 => .xsilu
  | 13 => .xsoftplus
  | _ => .xfn

/-- The rows of MCALL, by routine index (R279). -/
def rowRoutine : Nat → FE → Instr
  | 0 => .fmat
  | 1 => .fmata
  | 2 => .fgradx
  | 3 => .fgradc
  | 4 => .fupd
  | 5 => .refine
  | 6 => .clearg
  | 7 => .gemm
  | 8 => .gemmq
  | 9 => .gemms
  | 10 => .gemmt
  | 11 => .fgrad
  | _ => .mcall

/-- The rows of TMOV, by kind and unit; the last row stands for the forms R247 refuses (R247). -/
def rowTmov : Nat → Nat → FE → Instr
  | 1, 0 => .tmovQnt
  | 1, 1 => .tmovDqn
  | 1, 2 => .tmovLzc
  | 1, 3 => .tmovLzd
  | 1, 4 => .tmovCrc
  | 2, _ => .tmovRes
  | _, _ => .tmovOpr

/-- The rows of CRECV, by HOP (R355). -/
def rowCrecv : Nat → FE → Instr
  | 1 => .crecvAddw
  | 2 => .crecvAddq
  | _ => .crecvStore

/-- The M map (R74). -/
def rowM : Nat → Option (FE → Instr)
  | 0 => some fun f => rowRoutine (f.arg.extractLsb' 15 6).toNat f
  | 1 => some .mplane
  | 2 => some .mldc
  | 3 => some .mstc
  | 4 => some .mgrid
  | 5 => some .mwload
  | 6 => some .mstat
  | _ => none

/-- The D map (R75). -/
def rowD : Nat → Option (FE → Instr)
  | 0 => some .dcpy
  | 1 => some .dmc
  | 2 => some .dgat
  | 3 => some .dsct
  | 4 => some .dzero
  | 5 => some .dfill
  | 6 => some .dpref
  | 7 => some .dflush
  | 8 => some .dinv
  | 9 => some .phase
  | 10 => some .djoin
  | 16 => some .ureg
  | 17 => some .urel
  | 18 => some .upd
  | 19 => some .ufence
  | 24 => some .csend
  | 11 => some fun f => rowTmov (f.arg.extractLsb' 12 2).toNat (f.arg.extractLsb' 14 3).toNat f
  | 25 => some fun f => rowCrecv (f.arg.extractLsb' 7 2).toNat f
  | _ => none

/-- The X map (R73). -/
def rowX : Nat → Option (FV → Instr)
  | 0 => some fun f => rowXfn (f.aux.extractLsb' 0 5).toNat f
  | 1 => some .xmov
  | _ => none

/-- The rows of a move, by destination port (R328, R334 to R343). -/
noncomputable def rowMove : Nat → FMv → Instr
  | 320 => .ialuAdd
  | 576 => .ialuAdd
  | 321 => .ialuSub
  | 577 => .ialuSub
  | 322 => .ialuMul
  | 578 => .ialuMul
  | 323 => .ialuAnd
  | 579 => .ialuAnd
  | 324 => .ialuOr
  | 580 => .ialuOr
  | 325 => .ialuXor
  | 581 => .ialuXor
  | 326 => .ialuShl
  | 582 => .ialuShl
  | 327 => .ialuShr
  | 583 => .ialuShr
  | 328 => .ialuSar
  | 584 => .ialuSar
  | 329 => .ialuMinu
  | 585 => .ialuMinu
  | 330 => .ialuMaxu
  | 586 => .ialuMaxu
  | 331 => .ialuCeq
  | 587 => .ialuCeq
  | 332 => .ialuCne
  | 588 => .ialuCne
  | 333 => .ialuClt
  | 589 => .ialuClt
  | 334 => .ialuCltu
  | 590 => .ialuCltu
  | 335 => .ialuCle
  | 591 => .ialuCle
  | 832 => .valuFadd
  | 833 => .valuFsub
  | 834 => .valuFmul
  | 835 => .valuFma
  | 836 => .valuFmax
  | 837 => .valuFmin
  | 838 => .valuIadd
  | 839 => .valuBfwide
  | 840 => .valuBfnarrow
  | 841 => .valuAnd
  | 842 => .valuOr
  | 843 => .valuXor
  | 1088 => .lsuLdd
  | 1089 => .lsuLdw
  | 1090 => .lsuLdy
  | 1091 => .lsuStd
  | 1092 => .lsuStw
  | 1093 => .lsuSty
  | 1094 => .lsuMdrd
  | 1095 => .lsuMdwr
  | 1344 => .rowCpy
  | 1345 => .rowZero
  | 1346 => .rowTobuf
  | 1347 => .rowFrombuf
  | 1600 => .cvsApply
  | 1601 => .cvsCount
  | 1856 => .syncInv
  | 1857 => .syncWbinv
  | 1858 => .syncFence
  | 1859 => .syncSignal
  | 2112 => .pcJump
  | 2113 => .pcCall
  | 2114 => .pcRet
  | 2115 => .pcHalt
  | 2116 => .pcYield
  | _ => .mv

/-- The trigger ports of a move row; none for MV (R328, R334 to R343). -/
def movePorts : Instr → List Nat
  | .ialuAdd _ => [320, 576]
  | .ialuSub _ => [321, 577]
  | .ialuMul _ => [322, 578]
  | .ialuAnd _ => [323, 579]
  | .ialuOr _ => [324, 580]
  | .ialuXor _ => [325, 581]
  | .ialuShl _ => [326, 582]
  | .ialuShr _ => [327, 583]
  | .ialuSar _ => [328, 584]
  | .ialuMinu _ => [329, 585]
  | .ialuMaxu _ => [330, 586]
  | .ialuCeq _ => [331, 587]
  | .ialuCne _ => [332, 588]
  | .ialuClt _ => [333, 589]
  | .ialuCltu _ => [334, 590]
  | .ialuCle _ => [335, 591]
  | .valuFadd _ => [832]
  | .valuFsub _ => [833]
  | .valuFmul _ => [834]
  | .valuFma _ => [835]
  | .valuFmax _ => [836]
  | .valuFmin _ => [837]
  | .valuIadd _ => [838]
  | .valuBfwide _ => [839]
  | .valuBfnarrow _ => [840]
  | .valuAnd _ => [841]
  | .valuOr _ => [842]
  | .valuXor _ => [843]
  | .lsuLdd _ => [1088]
  | .lsuLdw _ => [1089]
  | .lsuLdy _ => [1090]
  | .lsuStd _ => [1091]
  | .lsuStw _ => [1092]
  | .lsuSty _ => [1093]
  | .lsuMdrd _ => [1094]
  | .lsuMdwr _ => [1095]
  | .rowCpy _ => [1344]
  | .rowZero _ => [1345]
  | .rowTobuf _ => [1346]
  | .rowFrombuf _ => [1347]
  | .cvsApply _ => [1600]
  | .cvsCount _ => [1601]
  | .syncInv _ => [1856]
  | .syncWbinv _ => [1857]
  | .syncFence _ => [1858]
  | .syncSignal _ => [1859]
  | .pcJump _ => [2112]
  | .pcCall _ => [2113]
  | .pcRet _ => [2114]
  | .pcHalt _ => [2115]
  | .pcYield _ => [2116]
  | _ => []

/-- Every trigger port (R328). -/
def triggerPorts : List Nat :=
  [320, 576, 321, 577, 322, 578, 323, 579, 324, 580, 325, 581, 326, 582, 327, 583] ++
  [328, 584, 329, 585, 330, 586, 331, 587, 332, 588, 333, 589, 334, 590, 335, 591] ++
  [832, 833, 834, 835, 836, 837, 838, 839, 840, 841, 842, 843, 1088, 1089, 1090, 1091] ++
  [1092, 1093, 1094, 1095, 1344, 1345, 1346, 1347, 1600, 1601, 1856, 1857, 1858, 1859, 2112, 2113] ++
  [2114, 2115, 2116]

/-- The eight slots of a bundle, in PRES order (R45). -/
inductive Slot where
  | s0
  | s1
  | v0
  | v1
  | x
  | m
  | d
  | l
  deriving DecidableEq, Repr

/-- WHERE of a slot (R62). -/
def Slot.index : Slot → Nat
  | .s0 => 0
  | .s1 => 1
  | .v0 => 2
  | .v1 => 3
  | .x => 4
  | .m => 5
  | .d => 6
  | .l => 7

/-- A slot whose word has 32 bits (R46). -/
def Slot.narrow : Slot → Bool
  | .s0 | .s1 | .l => true
  | .v0 | .v1 | .x | .m | .d => false

/-- A slot that may have a literal word (R45). -/
def Slot.takesLit : Slot → Bool
  | .s0 | .s1 | .m | .d => true
  | .v0 | .v1 | .x | .l => false

/-- Every slot, in order (R46). -/
def allSlots : List Slot := [.s0, .s1, .v0, .v1, .x, .m, .d, .l]

/-- Fields of subformat R (R49). -/
def decR (w : BitVec 32) (lit : Option (BitVec 32)) : FR :=
  ⟨w.extractLsb' 22 3, w.extractLsb' 16 6, w.extractLsb' 10 6, w.extractLsb' 4 6, w.extractLsb' 3 1,
    w.extractLsb' 0 3, lit⟩

/-- Fields of subformat I (R49). -/
def decI (w : BitVec 32) (lit : Option (BitVec 32)) : FI :=
  ⟨w.extractLsb' 22 3, w.extractLsb' 16 6, w.extractLsb' 10 6, w.extractLsb' 0 10, lit⟩

/-- Fields of subformat LI (R49). -/
def decLI (w : BitVec 32) (lit : Option (BitVec 32)) : FLI :=
  ⟨w.extractLsb' 22 3, w.extractLsb' 16 6, w.extractLsb' 0 16, lit⟩

/-- Fields of subformat B (R49). -/
def decB (w : BitVec 32) (lit : Option (BitVec 32)) : FB :=
  ⟨w.extractLsb' 22 3, w.extractLsb' 19 3, w.extractLsb' 13 6, w.extractLsb' 0 13, lit⟩

/-- Fields of subformat M (R49). -/
def decM (w : BitVec 32) (lit : Option (BitVec 32)) : FM :=
  ⟨w.extractLsb' 22 3, w.extractLsb' 16 6, w.extractLsb' 10 6, w.extractLsb' 0 10, lit⟩

/-- Fields of subformat MO (R49, R71). -/
def decMO (w : BitVec 32) (lit : Option (BitVec 32)) : FMO :=
  ⟨w.extractLsb' 22 3, w.extractLsb' 16 6, w.extractLsb' 10 6, w.extractLsb' 8 2, w.extractLsb' 4 4,
    w.extractLsb' 3 1, w.extractLsb' 0 3, lit⟩

/-- Fields of subformat MX (R49). -/
def decMX (w : BitVec 32) (lit : Option (BitVec 32)) : FMX :=
  ⟨w.extractLsb' 22 3, w.extractLsb' 16 6, w.extractLsb' 10 6, w.extractLsb' 4 6, w.extractLsb' 3 1,
    w.extractLsb' 0 3, lit⟩

/-- Fields of subformat LS (R49). -/
def decLS (w : BitVec 32) (lit : Option (BitVec 32)) : FLS :=
  ⟨w.extractLsb' 22 3, w.extractLsb' 17 5, w.extractLsb' 11 6, w.extractLsb' 0 11, lit⟩

/-- Fields of a V0, V1 or X word (R52, R54). -/
def decV (w : BitVec 64) : FV :=
  ⟨w.extractLsb' 54 3, w.extractLsb' 52 2, w.extractLsb' 48 4, w.extractLsb' 46 2, w.extractLsb' 38 8,
    w.extractLsb' 30 8, w.extractLsb' 22 8, w.extractLsb' 14 8, w.extractLsb' 11 3, w.extractLsb' 10 1,
    w.extractLsb' 0 10⟩

/-- Fields of an M or D word (R52, R56). -/
def decE (w : BitVec 64) (lit : Option (BitVec 32)) : FE :=
  ⟨w.extractLsb' 54 3, w.extractLsb' 52 2, w.extractLsb' 48 4, w.extractLsb' 46 2, w.extractLsb' 45 1,
    w.extractLsb' 39 6, w.extractLsb' 33 6, w.extractLsb' 27 6, w.extractLsb' 21 6, w.extractLsb' 0 21, lit⟩

/-- Fields of a move (R327). -/
def decMv (w : BitVec 32) (lit : Option (BitVec 32)) : FMv :=
  ⟨w.extractLsb' 31 1, w.extractLsb' 28 3, w.extractLsb' 15 13, w.extractLsb' 2 13, w.extractLsb' 0 2, lit⟩

/-- The row a common-block, S0 or S1 opcode names: the first of the tables that has it. -/
def decodeScalar (s1 : Bool) (w : BitVec 32) (lit : Option (BitVec 32)) : Option Instr :=
  let op := (w.extractLsb' 25 7).toNat
  if op < 64 then
    match rowCommonR op, rowCommonI op, rowCommonLI op with
    | some g, _, _ => some (g (decR w lit))
    | none, some g, _ => some (g (decI w lit))
    | none, none, some g => some (g (decLI w lit))
    | none, none, none => none
  else if s1 then
    match rowS1M op, rowS1MO op, rowS1MX op, rowS1R op with
    | some g, _, _, _ => some (g (decM w lit))
    | none, some g, _, _ => some (g (decMO w lit))
    | none, none, some g, _ => some (g (decMX w lit))
    | none, none, none, some g => some (g (decR w lit))
    | none, none, none, none => none
  else
    match rowS0B op, rowS0R op with
    | some g, _ => some (g (decB w lit))
    | none, some g => some (g (decR w lit))
    | none, none => none

/-- The instruction of a slot's word; none where the opcode is undefined (cause 0x03, R61). -/
def decodeSlot (k : Slot) (w : BitVec 64) (lit : Option (BitVec 32)) : Option Instr :=
  let op := (w.extractLsb' 57 7).toNat
  match k with
  | .s0 => decodeScalar false (w.extractLsb' 0 32) lit
  | .s1 => decodeScalar true (w.extractLsb' 0 32) lit
  | .l => (rowL (w.extractLsb' 25 7).toNat).map fun g => g (decLS (w.extractLsb' 0 32) lit)
  | .v0 => (rowV op).map fun g => g .v0 (decV w)
  | .v1 => (rowV op).map fun g => g .v1 (decV w)
  | .x => (rowX op).map fun g => g (decV w)
  | .m => (rowM op).map fun g => g (decE w lit)
  | .d => (rowD op).map fun g => g (decE w lit)

/-- The instruction of a move slot (R327, R328). -/
noncomputable def decodeMove (w : BitVec 32) (lit : Option (BitVec 32)) : Instr :=
  rowMove (w.extractLsb' 2 13).toNat (decMv w lit)

/-- A bundle header (R45). -/
structure Header where
  pres : BitVec 8
  lit : BitVec 8
  tgt : Bool
  safe : Bool
  reserved : BitVec 14
  deriving DecidableEq, Repr

def decHeader (w : BitVec 32) : Header :=
  ⟨w.extractLsb' 24 8, w.extractLsb' 16 8, w.getLsbD 15, w.getLsbD 14, w.extractLsb' 0 14⟩

/-- The header has a slot, by the bit order of PRES (R45). -/
def Header.has (h : Header) (k : Slot) : Bool := h.pres.getLsbD (7 - k.index)
def Header.hasLit (h : Header) (k : Slot) : Bool := h.lit.getLsbD (7 - k.index)

/-- Why a header is illegal (step 1 of R61), apart from the code range. -/
def Header.ok (h : Header) : Bool :=
  h.reserved == 0 && allSlots.all fun k => !h.hasLit k || (h.has k && k.takesLit)

/-- The bundle's length in bytes (R46). -/
def Header.len (h : Header) : Nat :=
  4 + (allSlots.map fun k => (if h.has k then (if k.narrow then 4 else 8) else 0) + (if h.hasLit k then 4 else 0)).sum

/-- A slot as it stands in a bundle: its word, and the instruction, none where the opcode is undefined. -/
structure SlotWord where
  slot : Slot
  word : BitVec 64
  ins : Option Instr
  deriving DecidableEq, Repr

/-- The slot words that follow a header (R46). Words that are missing read as zero. -/
def decSlots (h : Header) : List Slot → List (BitVec 32) → List SlotWord
  | [], _ => []
  | k :: t, ws =>
    if h.has k then
      let lo := ws.headD 0
      let (w, r) := if k.narrow then (lo.setWidth 64, ws.tail) else ((ws.tail.headD 0) ++ lo, ws.tail.tail)
      let lit := if h.hasLit k then some (r.headD 0) else none
      let r' := if h.hasLit k then r.tail else r
      ⟨k, w, decodeSlot k w lit⟩ :: decSlots h t r'
    else decSlots h t ws

/-- Why a bundle cannot be decoded. -/
inductive BundleError where
  /-- A reserved header bit, or a LIT bit for an absent slot or one that takes none (R61 step 1). -/
  | header
  deriving DecidableEq, Repr

/-- A whole bundle: header and the 32-bit words after it. -/
def decodeBundle (h : BitVec 32) (ws : List (BitVec 32)) : Except BundleError (List SlotWord) :=
  if (decHeader h).ok then .ok (decSlots (decHeader h) allSlots ws) else .error .header

/-! The encoder. -/

def encR (op : Nat) (f : FR) : BitVec 32 :=
  (BitVec.ofNat 7 op ++ (f.pg ++ (f.rd ++ (f.ra ++ (f.rb ++ (f.w ++ f.fn)))))).cast (by decide)

def encI (op : Nat) (f : FI) : BitVec 32 :=
  (BitVec.ofNat 7 op ++ (f.pg ++ (f.rd ++ (f.ra ++ f.imm)))).cast (by decide)

def encLI (op : Nat) (f : FLI) : BitVec 32 :=
  (BitVec.ofNat 7 op ++ (f.pg ++ (f.rd ++ f.imm))).cast (by decide)

def encB (op : Nat) (f : FB) : BitVec 32 :=
  (BitVec.ofNat 7 op ++ (f.pg ++ (f.cc ++ (f.ra ++ f.off)))).cast (by decide)

def encM (op : Nat) (f : FM) : BitVec 32 :=
  (BitVec.ofNat 7 op ++ (f.pg ++ (f.rt ++ (f.ra ++ f.off)))).cast (by decide)

def encMO (op : Nat) (f : FMO) : BitVec 32 :=
  (BitVec.ofNat 7 op ++ (f.pg ++ (f.rt ++ (f.ra ++ (f.ord ++ (f.z ++ (f.w ++ f.scope))))))).cast (by decide)

def encMX (op : Nat) (f : FMX) : BitVec 32 :=
  (BitVec.ofNat 7 op ++ (f.pg ++ (f.rt ++ (f.ra ++ (f.rb ++ (f.w ++ f.scope)))))).cast (by decide)

def encLS (op : Nat) (f : FLS) : BitVec 32 :=
  (BitVec.ofNat 7 op ++ (f.pg ++ (f.cd ++ (f.ra ++ f.off)))).cast (by decide)

def encV (op : Nat) (f : FV) : BitVec 64 :=
  (BitVec.ofNat 7 op ++ (f.pg ++ (f.wid ++ (f.fmt ++ (f.rnd ++ (f.dst ++ (f.sa ++ (f.sb ++ (f.sc ++ (f.msk ++
    (f.men ++ f.aux))))))))))).cast (by decide)

def encE (op : Nat) (f : FE) : BitVec 64 :=
  (BitVec.ofNat 7 op ++ (f.pg ++ (f.wid ++ (f.fmt ++ (f.rnd ++ (f.swp ++ (f.tokp ++ (f.toka ++ (f.tokb ++ (f.tokc ++
    f.arg)))))))))).cast (by decide)

def encMv (f : FMv) : BitVec 32 :=
  (f.inv ++ (f.grd ++ (f.src ++ (f.dst ++ f.low)))).cast (by decide)

/-- The word of an instruction, as the slot holds it (a 32-bit word in bits 31:0). Events and the empty bundle have
none. -/
def encodeWord (i : Instr) : BitVec 64 :=
  match view i with
  | .sR _ op f => (encR op f).setWidth 64
  | .sI _ op f => (encI op f).setWidth 64
  | .sLI _ op f => (encLI op f).setWidth 64
  | .sB _ op f => (encB op f).setWidth 64
  | .sM _ op f => (encM op f).setWidth 64
  | .sMO _ op f => (encMO op f).setWidth 64
  | .sMX _ op f => (encMX op f).setWidth 64
  | .l op f => (encLS op f).setWidth 64
  | .v op _ f => encV op f
  | .x op f => encV op f
  | .m op f => encE op f
  | .d op f => encE op f
  | .move f => (encMv f).setWidth 64
  | .empty => 0
  | .event => 0

/-- The literal word that follows an instruction's word. -/
def literalOf (i : Instr) : Option (BitVec 32) :=
  match view i with
  | .sR _ _ f => f.lit
  | .sI _ _ f => f.lit
  | .sLI _ _ f => f.lit
  | .sB _ _ f => f.lit
  | .sM _ _ f => f.lit
  | .sMO _ _ f => f.lit
  | .sMX _ _ f => f.lit
  | .l _ f => f.lit
  | .v _ _ _ => none
  | .x _ _ => none
  | .m _ f => f.lit
  | .d _ f => f.lit
  | .move f => f.lit
  | .empty => none
  | .event => none

/-- The slot an instruction stands in (the common block in S0); none for Oasis moves, events and the empty bundle. -/
def slotOf (i : Instr) : Option Slot :=
  match view i with
  | .sR c _ _ | .sI c _ _ | .sLI c _ _ | .sB c _ _ | .sM c _ _ | .sMO c _ _ | .sMX c _ _ =>
    some (if c = .s1 then .s1 else .s0)
  | .l _ _ => some .l
  | .v _ .v0 _ => some .v0
  | .v _ .v1 _ => some .v1
  | .x _ _ => some .x
  | .m _ _ => some .m
  | .d _ _ => some .d
  | .move _ => none
  | .empty => none
  | .event => none

/-- The words of an instruction, in address order (R46, R327): its word, then its literal. -/
def encode (i : Instr) : List (BitVec 32) :=
  let w := encodeWord i
  let low := match slotOf i with
    | some k => if k.narrow then [w.extractLsb' 0 32] else [w.extractLsb' 0 32, w.extractLsb' 32 32]
    | none => match view i with
      | .move _ => [w.extractLsb' 0 32]
      | _ => []
  low ++ (literalOf i).toList

/-- What the words of a slot decode to. -/
def decodeWords (k : Slot) (lit : Bool) (ws : List (BitVec 32)) : Option Instr :=
  let lo := ws.headD 0
  let (w, r) := if k.narrow then (lo.setWidth 64, ws.tail) else ((ws.tail.headD 0) ++ lo, ws.tail.tail)
  decodeSlot k w (if lit then some (r.headD 0) else none)

/-- The word names the row that the instruction is: a form with a fixed function, routine, unit or trigger carries the
field values of its row. -/
def named (i : Instr) : Bool :=
  match view i with
  | .x op f => (rowX op).map (fun g => g f) == some i
  | .m op f => (rowM op).map (fun g => g f) == some i
  | .d op f => (rowD op).map (fun g => g f) == some i
  | .move f => if movePorts i = [] then !(triggerPorts.contains f.dst.toNat) else (movePorts i).contains f.dst.toNat
  | _ => true

/-- Bits that spec/opcode_table.json fixes in the row of an instruction with a 32-bit word, which a bare word must
match. -/
def fixedMask (i : Instr) : BitVec 32 :=
  match view i with
  | .sI _ _ _ | .sLI _ _ _ | .sM _ _ _ | .sMX _ _ _ | .l _ _ => 0xFE000000#32
  | .sB _ op _ => if op = 0x41 then 0xFE380000#32 else 0xFE000000#32
  | .sMO _ op _ => if op = 0x4E then 0xFE3FFCF8#32 else 0xFE0003F0#32
  | .sR c op _ => maskR c op
  | .move f => if movePorts i = [] then 0x3#32 else if f.dst.toNat < 0x300 then 0x73FF#32 else 0x7FFF#32
  | .v _ _ _ | .x _ _ | .m _ _ | .d _ _ | .empty | .event => 0#32
where
  /-- Fixed bits of the R subformat rows: the opcode and the fields an instruction does not use (R49, R135). -/
  maskR (c : SClass) (op : Nat) : BitVec 32 :=
    match c with
    | .s1 => if op = 0x5B ∨ op = 0x5C then 0xFE0003FF#32 else if op = 0x5E then 0xFE00000F#32 else 0xFE3F000F#32
    | .common =>
      if op = 0x1E ∨ op = 0x3C ∨ op = 0x3D then 0xFE00000F#32
      else if op = 0x17 ∨ op = 0x1F ∨ op = 0x20 ∨ op = 0x21 ∨ op = 0x22 then 0xFE0003F7#32
      else if op = 0x23 ∨ op = 0x24 then 0xFE0003F8#32
      else if 0x31 ≤ op ∧ op ≤ 0x34 then 0xFE00000C#32
      else if op = 0x3A then 0xFE000008#32
      else if op = 0x3B then 0xFE0003FF#32
      else if 0x35 ≤ op then 0xFE00000F#32
      else 0xFE000007#32
    | .s0 =>
      if op = 0x42 ∨ op = 0x44 ∨ op = 0x46 then 0xFE3F03FF#32
      else if op = 0x43 then 0xFE0003FF#32
      else if op = 0x45 then 0xFE3FFC0E#32
      else if op = 0x47 then 0xFE3FFFFF#32
      else if op = 0x48 ∨ op = 0x4D then 0xFE3FFC0F#32
      else if op = 0x49 then 0xFE3F000F#32
      else if op = 0x4B then 0xFE070000#32
      else if op = 0x4C then 0xFE000000#32
      else if op = 0x4E then 0xFFFFFFFF#32
      else if op = 0x51 then 0xFE00000C#32
      else 0xFE00000F#32

/-- The zero bits a row fixes besides the bits that name it. -/
def fixedOk (i : Instr) (w : BitVec 32) : Bool :=
  let named32 : BitVec 32 := match view i with
    | .move _ => w &&& 0x7FFC#32
    | _ => w &&& 0xFE000000#32
  (w &&& fixedMask i) == (named32 &&& fixedMask i)

/-- How many bits a row fixes. -/
def fixedCount (i : Instr) : Nat := ((List.range 32).filter fun k => (fixedMask i).getLsbD k).length

/-- The candidate with the most fixed bits, the earlier one on ties. -/
def mostFixed : List Instr → Option Instr
  | [] => none
  | i :: t => match mostFixed t with
    | none => some i
    | some j => if fixedCount i < fixedCount j then some j else some i

/-- The instruction of a table row's bare word (log 4). A 32-bit word does not say whether it stands in S0, S1, L or an
Oasis word: of the rows whose fixed bits it matches, the one that fixes most bits is taken. A 64-bit word is read as V0,
then X, M, D. -/
noncomputable def decodeTableWord (nbits w : Nat) : Option Instr :=
  if nbits ≤ 32 then
    let b := BitVec.ofNat 32 w
    mostFixed (([decodeScalar false b none, decodeScalar true b none, decodeSlot .l (b.setWidth 64) none,
      some (decodeMove b none)].filterMap id).filter fun i => fixedOk i b)
  else
    let b := BitVec.ofNat 64 w
    [Slot.v0, .x, .m, .d].findSome? fun k => decodeSlot k b none

end Sys2Proof
end

