-- ==== Sys2Proof/Machine/Sparse.lean ====
section
/-! DEFINITION. Sparse maps in one canonical form: keys strictly rising, no entry equal to the default that an
unlisted key reads as. Register files, caches and memories are held this way, so equal contents are equal data. -/

namespace Sys2Proof.Machine

/-- A sparse map from numbers to values. -/
abbrev Sp (α : Type) := List (Nat × α)

variable {α : Type}

/-- The value at a key; `d` where none is listed. -/
def spGet (d : α) : Sp α → Nat → α
  | [], _ => d
  | (k, v) :: t, n => if n = k then v else spGet d t n

/-- Set the value at a key, keeping the canonical form. -/
def spSet [DecidableEq α] (d : α) : Sp α → Nat → α → Sp α
  | [], n, v => if v = d then [] else [(n, v)]
  | (k, w) :: t, n, v =>
    if n < k then (if v = d then (k, w) :: t else (n, v) :: (k, w) :: t)
    else if n = k then (if v = d then t else (n, v) :: t)
    else (k, w) :: spSet d t n v

/-- Every key of the map lies above `lo`, keys rise strictly, and no value is the default. -/
def spAbove [DecidableEq α] (d : α) (lo : Nat) : Sp α → Bool
  | [] => true
  | (k, v) :: t => decide (lo < k) && decide (v ≠ d) && spAbove d k t

/-- The canonical form. -/
def spWf [DecidableEq α] (d : α) : Sp α → Bool
  | [] => true
  | (k, v) :: t => decide (v ≠ d) && spAbove d k t

/-- Set consecutive keys from `n` on. -/
def spSets [DecidableEq α] (d : α) (m : Sp α) (n : Nat) : List α → Sp α
  | [] => m
  | v :: t => spSets d (spSet d m n v) (n + 1) t

/-- The values at `c` consecutive keys from `n` on. -/
def spGets (d : α) (m : Sp α) (n : Nat) : Nat → List α
  | 0 => []
  | c + 1 => spGet d m n :: spGets d m (n + 1) c

/-- Bytes, least significant first, of a number (R2). -/
def natBytes (x : Nat) : Nat → List Byte
  | 0 => []
  | c + 1 => BitVec.ofNat 8 x :: natBytes (x / 256) c

/-- The number whose bytes, least significant first, these are (R2). -/
def bytesNat : List Byte → Nat
  | [] => 0
  | b :: t => b.toNat + 256 * bytesNat t

/-- A field of a byte list. -/
def field (l : List Byte) (off size : Nat) : Nat := bytesNat ((l.drop off).take size)

/-- Bits hi down to lo of a number. -/
def bits (x hi lo : Nat) : Nat := x / 2 ^ lo % 2 ^ (hi + 1 - lo)

/-- Write a list of bytes over another at an offset. -/
def patch (l : List Byte) (off : Nat) (b : List Byte) : List Byte :=
  l.take off ++ b ++ l.drop (off + b.length)

/-- The value of an n-bit number read in two's complement. -/
def signed (n x : Nat) : Int := if x % 2 ^ n < 2 ^ (n - 1) then (x % 2 ^ n : Nat) else ((x % 2 ^ n : Nat) : Int) - 2 ^ n

end Sys2Proof.Machine
end

