-- ==== Sys2Proof/Machine/Num.lean ====
section
/-! DEFINITION. Number formats and arithmetic (R115 to R134): exact values, one rounding, NaN and zero rules. A value is
a NaN, an infinity, or a sign with an exact fraction. -/

namespace Sys2Proof.Machine

/-- An exact value; a finite one is (−1)^neg · num / den, with den > 0, so zeros carry a sign. -/
inductive Val where
  | nan
  | inf (neg : Bool)
  | fin (neg : Bool) (num den : Nat)
  deriving DecidableEq, Repr

/-- Bits of an element, by FMT code (R53). -/
def fmtBits (f : Nat) : Nat :=
  match f with
  | 0 | 9 | 10 => 32
  | 1 | 2 | 7 | 8 => 16
  | 11 => 64
  | _ => 8

/-- Float formats of R115: FP32, BF16, FP16, E4M3, E5M2. -/
def isFloat (f : Nat) : Bool := f < 5
def isSigned (f : Nat) : Bool := f == 5 || f == 7 || f == 9 || f == 11
def isInt (f : Nat) : Bool := 5 ≤ f && f ≤ 11

/-- Fraction bits and bias (R115). -/
def fracBits (f : Nat) : Nat :=
  match f with
  | 0 => 23
  | 1 => 7
  | 2 => 10
  | 3 => 3
  | _ => 2
def bias (f : Nat) : Nat :=
  match f with
  | 0 | 1 => 127
  | 3 => 7
  | _ => 15
def expBits (f : Nat) : Nat := fmtBits f - 1 - fracBits f

/-- Canonical NaN (R115). -/
def canonNaN (f : Nat) : Nat :=
  match f with
  | 0 => 0x7FC00000
  | 1 => 0x7FC0
  | 2 => 0x7E00
  | 3 => 0x7F
  | _ => 0x7E

/-- Largest finite code (R115). -/
def maxCode (f : Nat) : Nat :=
  match f with
  | 0 => 0x7F7FFFFF
  | 1 => 0x7F7F
  | 2 => 0x7BFF
  | 3 => 0x7E
  | _ => 0x7B

/-- The code of +∞; in E4M3 the NaN that stands for it (R121). -/
def infCode (f : Nat) : Nat :=
  match f with
  | 0 => 0x7F800000
  | 1 => 0x7F80
  | 2 => 0x7C00
  | 3 => 0x7F
  | _ => 0x7C

def signBit (f : Nat) (neg : Bool) : Nat := if neg then 2 ^ (fmtBits f - 1) else 0

/-- Multiply by a power of two, exactly. -/
def Val.scale (v : Val) (k : Int) : Val :=
  match v with
  | .fin s n d => if 0 ≤ k then .fin s (n * 2 ^ k.toNat) d else .fin s n (d * 2 ^ (-k).toNat)
  | v => v

/-- The value of a float code (R116). -/
def decF (f c : Nat) : Val :=
  let fb := fracBits f
  let s := decide (c / 2 ^ (fmtBits f - 1) % 2 = 1)
  let e := c / 2 ^ fb % 2 ^ expBits f
  let m := c % 2 ^ fb
  if f = 3 then
    if e = 15 ∧ m = 7 then .nan
    else if e = 0 then .fin s m (2 ^ 9) else (Val.fin s (8 + m) 1).scale ((e : Int) - 10)
  else if e = 2 ^ expBits f - 1 then (if m = 0 then .inf s else .nan)
  else if e = 0 then .fin s m (2 ^ (bias f + fb - 1))
  else (Val.fin s (2 ^ fb + m) 1).scale ((e : Int) - bias f - fb)

def Val.isNaN : Val → Bool
  | .nan => true
  | _ => false
def Val.isZero : Val → Bool
  | .fin _ n _ => n == 0
  | _ => false
def Val.sign : Val → Bool
  | .nan => false
  | .inf s => s
  | .fin s _ _ => s
def Val.neg : Val → Val
  | .nan => .nan
  | .inf s => .inf !s
  | .fin s n d => .fin (!s) n d
def Val.abs : Val → Val
  | .nan => .nan
  | .inf _ => .inf false
  | .fin _ n d => .fin false n d

def Val.ofInt (i : Int) : Val := .fin (decide (i < 0)) i.natAbs 1
def Val.zero : Val := .fin false 0 1

/-- Numerator of a finite value with its sign. -/
def sgn (s : Bool) (n : Nat) : Int := if s then -(n : Int) else n

/-- Exact sum; `mode` matters only for the sign of an exact zero (R122, R124). -/
def Val.add (mode : Nat) (a b : Val) : Val :=
  match a, b with
  | .nan, _ => .nan
  | _, .nan => .nan
  | .inf s, .inf t => if s = t then .inf s else .nan
  | .inf s, _ => .inf s
  | _, .inf t => .inf t
  | .fin s n d, .fin t m e =>
    if n = 0 ∧ m = 0 then (if s = t then .fin s 0 1 else .fin (mode == 3) 0 1)
    else
      let x := sgn s n * e + sgn t m * d
      if x = 0 then .fin (mode == 3) 0 1 else .fin (decide (x < 0)) x.natAbs (d * e)

def Val.sub (mode : Nat) (a b : Val) : Val := a.add mode b.neg

/-- Exact product (R122, R124). -/
def Val.mul (a b : Val) : Val :=
  match a, b with
  | .nan, _ => .nan
  | _, .nan => .nan
  | .inf s, .inf t => .inf (s != t)
  | .inf s, .fin t m _ => if m = 0 then .nan else .inf (s != t)
  | .fin s n _, .inf t => if n = 0 then .nan else .inf (s != t)
  | .fin s n d, .fin t m e => .fin (s != t) (n * m) (d * e)

/-- Exact quotient (R122, R124). -/
def Val.div (a b : Val) : Val :=
  match a, b with
  | .nan, _ => .nan
  | _, .nan => .nan
  | .inf _, .inf _ => .nan
  | .inf s, .fin t _ _ => .inf (s != t)
  | .fin s _ _, .inf t => .fin (s != t) 0 1
  | .fin s n d, .fin t m e =>
    if m = 0 then (if n = 0 then .nan else .inf (s != t)) else .fin (s != t) (n * e) (d * m)

/-- a < b on values that are not NaN; zeros are equal. -/
def Val.lt (a b : Val) : Bool :=
  match a, b with
  | .nan, _ => false
  | _, .nan => false
  | .inf s, .inf t => s && !t
  | .inf s, _ => s
  | _, .inf t => !t
  | .fin s n d, .fin t m e => decide (sgn s n * e < sgn t m * d)

def Val.eq (a b : Val) : Bool :=
  match a, b with
  | .nan, _ => false
  | _, .nan => false
  | .inf s, .inf t => s == t
  | .inf _, _ => false
  | _, .inf _ => false
  | .fin s n d, .fin t m e => decide (sgn s n * e = sgn t m * d)

/-- Minimum and maximum, with −0 below +0 and a NaN for a NaN (R122, R124). -/
def Val.below (a b : Val) : Bool := a.lt b || (a.eq b && a.sign && !b.sign)
def Val.min (a b : Val) : Val := if a.isNaN || b.isNaN then .nan else if b.below a then b else a
def Val.max (a b : Val) : Val := if a.isNaN || b.isNaN then .nan else if a.below b then b else a

/-- ⌊log₂ (n/d)⌋ for n, d > 0. -/
def ratLog (n d : Nat) : Int :=
  let g : Int := (n.log2 : Int) - d.log2
  let low := if 0 ≤ g then decide (n < d * 2 ^ g.toNat) else decide (n * 2 ^ (-g).toNat < d)
  if low then g - 1 else g

/-- n/d rounded to an integer (R120); `neg` is the sign of the value. -/
def roundNat (mode : Nat) (neg : Bool) (n d : Nat) : Nat :=
  let q := n / d
  let r := n % d
  let up := match mode with
    | 0 => decide (d < 2 * r) || (decide (2 * r = d) && decide (q % 2 = 1))
    | 1 => false
    | 2 => decide (r ≠ 0) && !neg
    | _ => decide (r ≠ 0) && neg
  if up then q + 1 else q

/-- The result of an overflow (R121). -/
def overflowCode (f mode : Nat) (sat neg : Bool) : Nat :=
  let toInf := mode == 0 || (mode == 2 && !neg) || (mode == 3 && neg)
  signBit f neg + (if toInf && !sat then infCode f else maxCode f)

/-- A finite value rounded once to a float format (R120, R121). -/
def roundFin (f mode : Nat) (sat neg : Bool) (n d : Nat) : Nat :=
  if n = 0 then signBit f neg
  else
    let fb := fracBits f
    let emin : Int := 1 - (bias f : Int)
    let e := ratLog n d
    let e' := if e < emin then emin else e
    let q := e' - fb
    let m := if 0 ≤ q then roundNat mode neg n (d * 2 ^ q.toNat) else roundNat mode neg (n * 2 ^ (-q).toNat) d
    let (m, e') := if m = 2 ^ (fb + 1) then (2 ^ fb, e' + 1) else (m, e')
    if m < 2 ^ fb then signBit f neg + m
    else
      let c := ((e' + bias f).toNat) * 2 ^ fb + (m - 2 ^ fb)
      if maxCode f < c then overflowCode f mode sat neg else signBit f neg + c

/-- A value rounded once to a float format: the result of every arithmetic instruction (R120 to R124). -/
def roundF (f mode : Nat) (v : Val) : Nat :=
  match v with
  | .nan => canonNaN f
  | .inf s => signBit f s + infCode f
  | .fin s n d => roundFin f mode false s n d

/-- The quantising forms, which saturate when `sat` is set; an infinity follows R121. -/
def roundSat (f mode : Nat) (sat : Bool) (v : Val) : Nat :=
  match v with
  | .nan => canonNaN f
  | .inf s => signBit f s + (if sat && f == 3 then maxCode f else infCode f)
  | .fin s n d => roundFin f mode sat s n d

/-- RNE to FP32 and back to a value. -/
def rne32 (v : Val) : Val := decF 0 (roundF 0 0 v)
def rnd32 (mode : Nat) (v : Val) : Val := decF 0 (roundF 0 mode v)

/-- The value of an integer code (R118). -/
def decI' (f c : Nat) : Int := if isSigned f then signed (fmtBits f) c else ((c % 2 ^ fmtBits f : Nat) : Int)

/-- Range of an integer format (R118). -/
def intMin (f : Nat) : Int := if isSigned f then -(2 ^ (fmtBits f - 1)) else 0
def intMax (f : Nat) : Int := if isSigned f then 2 ^ (fmtBits f - 1) - 1 else 2 ^ fmtBits f - 1
def clampI (f : Nat) (i : Int) : Int := max (intMin f) (min (intMax f) i)

/-- The code of an integer in b bits. -/
def wrap (b : Nat) (i : Int) : Nat := (i % (2 ^ b : Nat)).toNat

/-- A value rounded to an integer and clamped (R126). -/
def toIntClamp (f mode : Nat) (v : Val) : Int :=
  match v with
  | .nan => 0
  | .inf s => if s then intMin f else intMax f
  | .fin s n d => clampI f (sgn s (roundNat mode s n d))

/-- ⌊ ⌋ or ⌈ ⌉ or the nearer power of two, for a float converted to SC8 (R127). -/
def toSc8 (mode : Nat) (v : Val) : Nat :=
  match v with
  | .nan => 0x80
  | .inf _ => 0x7F
  | .fin _ n d =>
    if n = 0 then 0x81
    else
      let e := ratLog n d
      let exact := if 0 ≤ e then decide (n = d * 2 ^ e.toNat) else decide (n * 2 ^ (-e).toNat = d)
      let up :=
        if exact then e
        else if mode = 2 then e + 1
        else if mode = 0 then
          -- nearer of 2^e and 2^(e+1): compare twice the value with 3·2^e
          let (x, y) := if 0 ≤ e then (2 * n, 3 * d * 2 ^ e.toNat) else (2 * n * 2 ^ (-e).toNat, 3 * d)
          if x < y then e else if y < x then e + 1 else if e % 2 = 0 then e else e + 1
        else e
      wrap 8 (max (-127) (min 127 up))

/-- The value of an SC8 code (R119). -/
def sc8Val (c : Nat) : Val := if c % 256 = 0x80 then .nan else (Val.fin false 1 1).scale (signed 8 c)

/-- A NaN converted between float formats keeps its pattern (R125). -/
def convNaN (f g c : Nat) : Nat :=
  let s := signBit g (decide (c / 2 ^ (fmtBits f - 1) % 2 = 1))
  if g = 3 then s + 0x7F
  else
    let fr := c % 2 ^ fracBits f
    let top :=
      if fracBits f ≤ fracBits g then fr * 2 ^ (fracBits g - fracBits f)
      else let t := fr / 2 ^ (fracBits f - fracBits g); if t = 0 then 1 else t
    s + infCode g + top

/-- A conversion between two codes of R53, neither INT64 (R125 to R127). SC8 to SC8, which the checks let pass and R127 does not
name, leaves the code as it is (DESIGN CHOICE, log 57). A negative integer that .sat converts to a wider unsigned format is one
of both the last rows of R126: it is clamped, to 0 (DESIGN CHOICE, log 63). -/
def convert (f g mode : Nat) (sat : Bool) (c : Nat) : Nat :=
  if isFloat f then
    if isFloat g then
      if (decF f c).isNaN then convNaN f g c else roundSat g mode sat (decF f c)
    else if g = 12 then toSc8 mode (decF f c)
    else wrap (fmtBits g) (toIntClamp g mode (decF f c))
  else if f = 12 then
    if g = 12 then c % 256 else roundSat g mode sat (sc8Val c)
  else
    if isFloat g then roundSat g mode sat (Val.ofInt (decI' f c))
    else wrap (fmtBits g) (if sat then clampI g (decI' f c) else decI' f c)

/-- Widening to FP32 keeps every code's value (R125). -/
def widen (f c : Nat) : Val := decF f c

/-- Integer square root, bit by bit from 2^b down. -/
def isqrtFrom (n : Nat) : Nat → Nat → Nat
  | 0, r => if (r + 1) * (r + 1) ≤ n then r + 1 else r
  | b + 1, r => isqrtFrom n b (if (r + 2 ^ (b + 1)) * (r + 2 ^ (b + 1)) ≤ n then r + 2 ^ (b + 1) else r)
def isqrt (n : Nat) : Nat := isqrtFrom n (n.log2 / 2 + 1) 0

/-- √(n/d), or 1/√ of it by exchanging n and d: a fraction that rounds, at 60 bits or fewer, as the exact root does. -/
def sqrtFrac (n d : Nat) : Nat × Nat :=
  let x := n * d * 2 ^ 192
  let r := isqrt x
  (2 * r + (if r * r = x then 0 else 1), 2 * d * 2 ^ 96)

/-- Square root (R124). -/
def Val.sqrt (v : Val) : Val :=
  match v with
  | .nan => .nan
  | .inf s => if s then .nan else .inf false
  | .fin s n d => if n = 0 then .fin s 0 1 else if s then .nan else let (a, b) := sqrtFrac n d; .fin false a b

/-- The value of an immediate select under FMT, as a code of FMT (R55). -/
def immCode (f k : Nat) : Nat :=
  if isFloat f then
    let e := k / 4 % 16
    let s := decide (k / 64 % 2 = 1)
    if e = 0 then signBit f s
    else roundF f 0 ((Val.fin s (4 + k % 4) 4).scale ((e : Int) - 8))
  else if f = 12 || isSigned f then wrap (fmtBits f) (signed 7 k)
  else k % 128

end Sys2Proof.Machine
end

