-- ==== Sys2Proof/Machine/Check.lean ====
section
/-! DEFINITION. The encoding checks of a slot word (step 2 of R61) and of a move (R332), and the registers an
instruction names (R58, R59, R61). A check gives the first cause in the order of R61: 0x0D, 0x02, 0x06, 0x09. -/

namespace Sys2Proof

/-- Bits of a row read and written (R52). -/
def Machine.widBits (w : BitVec 2) : Nat := 256 * 2 ^ w.toNat

/-- The CSR number of the variant of R145. -/
def FR.csrn (f : FR) : Nat := f.ra.toNat * 64 + f.rb.toNat

/-- Bits 3:0 of an R word: W and FN. -/
def FR.low4 (f : FR) : Nat := f.w.toNat * 8 + f.fn.toNat

/-- The operand i of the I subformat (R140, R51). -/
def FI.val (f : FI) : Word :=
  match f.lit with
  | some l => l.signExtend 64
  | none => f.imm.signExtend 64

/-- Elements of a row (R163). -/
def FV.elems (f : FV) : Nat := Machine.widBits f.wid / Machine.fmtBits f.fmt.toNat

/-- Fields of ARG (R236, R273). -/
def FE.a (f : FE) (lo n : Nat) : Nat := (f.arg.extractLsb' lo n).toNat

/-- ARG has bits only where `m` has them. -/
def FE.only (f : FE) (m : BitVec 21) : Bool := (f.arg &&& ~~~m) == 0

end Sys2Proof

namespace Sys2Proof.Machine

/-- The first condition that holds. -/
def firstCause : List (Bool × Nat) → Option Nat
  | [] => none
  | (b, c) :: t => if b then some c else firstCause t

/-- Known CSR numbers (R109, R365). -/
def userCsr (n : Nat) : Bool := n ≤ 8 || (0x10 ≤ n && n ≤ 0x15) || n == 0x18 || n == 0x19 || n == 0x1A
def systemCsr (n : Nat) : Bool :=
  (0x100 ≤ n && n ≤ 0x105) || (0x110 ≤ n && n ≤ 0x113) || (0x120 ≤ n && n ≤ 0x123)

/-- R-format codes of the common block that take no second operand (R138, R139, R143). -/
def unaryOp (op : Nat) : Bool :=
  op == 0x17 || op == 0x1F || op == 0x20 || op == 0x21 || op == 0x22 || op == 0x23 || op == 0x24 || op == 0x3B

/-- R-format codes that accept W (R138, R142). -/
def takesW (op : Nat) : Bool :=
  op ≤ 0x22 && op != 0x1E

/-- FN is legal for a common-block R code (R135, R139, R143, R144). -/
def fnOk (op : Nat) (f : FR) : Bool :=
  if op = 0x23 ∨ op = 0x24 then decide (f.fn.toNat < 3)
  else if 0x31 ≤ op ∧ op ≤ 0x34 then decide (f.fn.toNat < 4)
  else if op = 0x3A then decide (f.fn.toNat < 4) || f.rb == 6 || f.rb == 8
  else f.fn == 0

/-- Reserved fields of the common block's R forms (R135 to R145). -/
def badCommonR (op : Nat) (f : FR) : Bool :=
  if op = 0x3C ∨ op = 0x3D then
    f.low4 != 0 || f.lit.isSome || !(userCsr f.csrn || systemCsr f.csrn)
  else
    (f.w != 0 && !takesW op) || !fnOk op f || (unaryOp op && f.rb != 0) ||
    (op == 0x3A && decide (9 < f.rb.toNat)) ||
    (f.lit.isSome && (unaryOp op || op == 0x3A || f.rb != 0))

/-- Reserved fields of the S0 forms from 0x40 (R146 to R153, R371, R374, R375). -/
def badS0R (op : Nat) (f : FR) : Bool :=
  let z := f.w == 0 && f.fn == 0
  let noLit := f.lit.isNone
  match op with
  | 0x42 | 0x44 => !(f.rd == 0 && f.rb == 0 && z && noLit)
  | 0x43 => !(f.rb == 0 && z && noLit)
  | 0x45 => !(f.rd == 0 && f.ra == 0 && f.w == 0 && decide (f.fn.toNat < 2) && noLit)
  | 0x46 => !(f.rd == 0 && f.rb == 0 && z && noLit)
  | 0x47 | 0x4E => !(f.rd == 0 && f.ra == 0 && f.rb == 0 && z && noLit)
  | 0x48 | 0x4D => !(f.rd == 0 && f.ra == 0 && z && noLit)
  | 0x49 => !(f.rd == 0 && z && noLit)
  | 0x4A => !(z && (noLit || f.rb == 0))
  | 0x4B => !(f.rd.extractLsb' 0 3 == 0 && f.low4 != 15 && (noLit || f.rb == 0))
  | 0x4C =>
    !noLit || decide (5 < f.fn.toNat) ||
    ((f.fn == 0 || f.fn == 5) && (f.rb != 0 || f.w != 0)) ||
    (f.fn == 0 && decide (7 < f.rd.toNat)) || (f.fn == 5 && decide (7 < f.ra.toNat))
  | 0x4F | 0x50 => !(z && noLit && decide (f.csrn ≤ 0x30))
  | 0x51 =>
    !(f.w == 0 && noLit && decide (f.fn.toNat < 3)) || (f.fn == 1 && f.ra != 0) ||
    (f.fn == 2 && (f.ra != 0 || f.rb != 0))
  | _ => false

/-- Reserved fields of the S1 R forms (R159, R161). -/
def badS1R (op : Nat) (f : FR) : Bool :=
  let z := f.w == 0 && f.fn == 0
  match op with
  | 0x5A | 0x5D => !(f.rd == 0 && z && (f.lit.isNone || f.rb == 0))
  | 0x5B | 0x5C => !(f.rb == 0 && z && f.lit.isNone)
  | _ => !(z && (f.lit.isNone || f.rb == 0))

/-- Privileged S0 codes (R162). -/
def privilegedOp (op : Nat) : Bool := 0x4E ≤ op && op ≤ 0x51

/-- Which selects of a V instruction are used: destination, SA, SB, SC (R169 to R187). -/
def usesSel (op : Nat) (f : FV) : Bool × Bool × Bool × Bool :=
  let tile := f.aux.getLsbD 8
  if op ≤ 0x03 then (true, true, true, false)
  else if op ≤ 0x07 then (true, true, true, true)
  else if op ≤ 0x09 then (true, true, true, false)
  else if op ≤ 0x0B then (true, true, false, false)
  else if op ≤ 0x0E then (true, true, true, false)
  else if op = 0x0F then (true, true, true, true)
  else if op ≤ 0x15 then (tile, true, true, false)
  else if op = 0x16 then (true, true, true, true)
  else if op = 0x17 ∨ op = 0x1C then (true, true, false, false)
  else if op ≤ 0x1F then (true, true, true, false)
  else if op = 0x20 then (true, true, true, true)
  else if op ≤ 0x24 then (true, true, false, false)
  else if op = 0x26 then (true, true, decide ((f.aux.extractLsb' 0 4).toNat < 4), false)
  else if op = 0x27 then (true, true, false, false)
  else if op = 0x28 then (true, false, false, false)
  else if op ≤ 0x2A then (true, true, true, false)
  else if op ≤ 0x2E then (true, true, false, false)
  else if op = 0x2F then (true, true, false, true)
  else if op = 0x30 then (true, true, true, false)
  else if op = 0x31 then (true, true, false, false)
  else if op ≤ 0x33 then (true, true, true, false)
  else if op ≤ 0x37 then (false, false, false, false)
  else if op = 0x38 then (false, true, false, false)
  else if op = 0x39 then (true, false, false, false)
  else if op = 0x3A then (true, true, false, false)
  else if op = 0x3B then (false, false, false, false)
  else (true, true, false, false)

/-- AUX bits an instruction assigns (R168). -/
def auxMask (op : Nat) : BitVec 10 :=
  if 0x10 ≤ op ∧ op ≤ 0x15 then 0x1FF
  else match op with
  | 0x20 => 0x003
  | 0x21 => 0x07F
  | 0x22 => 0x3FF
  | 0x23 => 0x3FB
  | 0x24 => 0x3FF
  | 0x26 => 0x00F
  | 0x27 => 0x0FF
  | 0x28 | 0x2A | 0x2B | 0x2C | 0x2D | 0x2E | 0x2F | 0x30 => 0x001
  | 0x31 => 0x3FF
  | 0x32 => 0x00F
  | 0x34 | 0x35 | 0x36 => 0x1FF
  | 0x37 => 0x03F
  | 0x38 => 0x1C7
  | 0x39 => 0x038
  | 0x3B => 0x3FF
  | _ => 0

def setF (f : Nat) : Bool := f ≤ 2
def setI (f : Nat) : Bool := 5 ≤ f && f ≤ 10
def setB (f : Nat) : Bool := f ≤ 12 && f != 11
def setSort (f : Nat) : Bool := setF f || (7 ≤ f && f ≤ 10)

/-- The ratio r of R174 and R175. -/
def chunkRatio (op : Nat) (f : FV) : Nat :=
  let bs := fmtBits f.fmt.toNat
  let bd := if op = 0x21 then fmtBits (f.aux.extractLsb' 0 4).toNat else 8
  max bs bd / min bs bd

/-- Reserved AUX values, masks and bits (R165, R168, R174 to R183). -/
def badAux (op : Nat) (f : FV) : Bool :=
  let a := f.aux
  (a &&& ~~~auxMask op) != 0 ||
  (if 0x10 ≤ op ∧ op ≤ 0x15 then
      (if a.getLsbD 8 then (a.extractLsb' 0 8) != 0
       else a.extractLsb' 3 2 == 3)
   else match op with
    | 0x21 => decide (13 ≤ (a.extractLsb' 0 4).toNat) ||
        (decide ((a.extractLsb' 0 4).toNat ≠ 11) && decide (chunkRatio op f ≤ (a.extractLsb' 5 2).toNat))
    | 0x22 | 0x23 => decide (chunkRatio op f ≤ (a.extractLsb' 3 2).toNat)
    | 0x24 => decide (f.elems ≤ (a.extractLsb' 0 7).toNat)
    | 0x26 => decide (7 ≤ (a.extractLsb' 0 4).toNat)
    | 0x31 =>
      let g := 2 ^ ((a.extractLsb' 0 3).toNat + 3)
      decide (5 ≤ (a.extractLsb' 0 3).toNat) || decide (f.elems % g ≠ 0) ||
        (a.extractLsb' 3 7).toNat == 0 || decide (g < (a.extractLsb' 3 7).toNat)
    | 0x32 => decide (6 ≤ (a.extractLsb' 1 3).toNat) || decide (f.elems < 2 ^ ((a.extractLsb' 1 3).toNat + 1))
    | 0x3B => decide (2 ≤ (a.extractLsb' 8 2).toNat)
    | _ => false)

/-- MEN = 1 is not accepted (R183 to R186). -/
def menMustBe0 (op : Nat) : Bool := op == 0x32 || op == 0x33 || (0x34 ≤ op && op ≤ 0x39) || op == 0x3B

/-- A format the instruction accepts (R166, R169 to R187). -/
def fmtOkV (op : Nat) (f : FV) : Bool :=
  let m := f.fmt.toNat
  if op = 0x03 ∨ op = 0x0C ∨ op = 0x0D ∨ (0x1D ≤ op ∧ op ≤ 0x1F) ∨ op = 0x3C ∨ op = 0x3D then setI m
  else if op ≤ 0x15 then setF m || setI m
  else if op ≤ 0x1C then setB m
  else if op = 0x20 then decide (5 ≤ m) && decide (m ≤ 8)
  else if op = 0x21 then
    let d := (f.aux.extractLsb' 0 4).toNat
    m != 11 && d != 11 && !((m == 12 && isInt d) || (d == 12 && isInt m))
  else if op = 0x22 ∨ op = 0x23 then setF m
  else if op ≤ 0x29 then setB m
  else if op ≤ 0x2B then decide (7 ≤ m) && decide (m ≤ 10)
  else if op ≤ 0x2E then setF m || setI m
  else if op = 0x2F ∨ op = 0x31 then setF m
  else if op = 0x30 then m == 0
  else if op ≤ 0x33 then setSort m
  else if op = 0x38 ∨ op = 0x3A then setB m
  else if op = 0x3B then m == 0 && f.wid == 0
  else m == 0

/-- A source select that cannot be used in V0 or V1 (R55); `reg` where only a register will do. -/
def badSrcV (f : FV) (used reg : Bool) (s : BitVec 8) : Bool :=
  if !used then s != 0
  else if s.toNat < 64 then false
  else if reg then true
  else if s.toNat < 72 then false
  else if s.toNat < 128 then true
  else isFloat f.fmt.toNat && (s.extractLsb' 2 4 == 0) && (s.extractLsb' 0 2 != 0)

def badDstV (used reg : Bool) (s : BitVec 8) : Bool :=
  if !used then s != 0 else if reg then decide (64 ≤ s.toNat) else decide (72 ≤ s.toNat)

/-- Selects of a V instruction (cause 0x06, R55, R165). -/
def badSelV (op : Nat) (f : FV) : Bool :=
  let (d, a, b, c) := usesSel op f
  let pair := op == 0x32 || op == 0x33
  badDstV d (pair || op == 0x3A) f.dst || (pair && decide (62 < f.dst.toNat)) ||
  badSrcV f a (op == 0x3A) f.sa || badSrcV f b false f.sb || badSrcV f c false f.sc

/-- Checks of a V0 or V1 word. -/
def checkV (op : Nat) (f : FV) : Option Nat :=
  firstCause [
    (f.wid == 3 || decide (13 ≤ f.fmt.toNat) || (f.men == 0 && f.msk != 0) || badAux op f ||
      (menMustBe0 op && f.men != 0) || (op == 0x30 && f.rnd != 0), 0x02),
    (badSelV op f, 0x06),
    (!fmtOkV op f, 0x09)]

/-- Checks of an X word (R190, R195). -/
def checkX (op : Nat) (f : FV) : Option Nat :=
  let idx := (f.aux.extractLsb' 0 5).toNat
  if op = 0 then
    firstCause [
      (f.wid == 3 || decide (13 ≤ f.fmt.toNat) || (f.men == 0 && f.msk != 0) || f.aux.extractLsb' 5 5 != 0 ||
        idx == 14 || idx == 15 || (decide (idx < 14) && f.rnd != 0), 0x02),
      (decide (16 ≤ f.dst.toNat) || (decide (16 ≤ f.sa.toNat) && decide (f.sa.toNat < 128)) || f.sb != 0 || f.sc != 0 ||
        (decide (128 ≤ f.sa.toNat) && badSrcV f true false f.sa), 0x06),
      (decide (2 < f.fmt.toNat), 0x09)]
  else
    let dir := (f.aux.extractLsb' 0 2).toNat
    let (d, a) := if dir % 2 = 0 then (f.dst, f.sa) else (f.sa, f.dst)
    firstCause [
      (f.wid == 3 || decide (13 ≤ f.fmt.toNat) || f.rnd != 0 || f.msk != 0 || f.men != 0 || f.aux.extractLsb' 2 2 != 0,
        0x02),
      (decide (16 ≤ d.toNat) || a != 0 || f.sb != 0 || f.sc != 0, 0x06),
      (f.fmt != 0, 0x09)]

/-- Checks of an M word (R273, R274, R279). -/
def checkM (op : Nat) (f : FE) : Option Nat :=
  if op = 0 then
    let r := f.a 15 6
    let arch := r ≤ 11
    let fm := f.fmt.toNat
    let fmOk :=
      if r ≤ 3 ∨ r = 11 then fm ≤ 2 else if r ≤ 6 then fm == 0 else if r = 8 then 3 ≤ fm && fm ≤ 5 else fm == 1 || fm == 2
    let accOk := 7 ≤ r && r ≤ 10
    let gathOk := r ≤ 3 || 7 ≤ r
    firstCause [
      (f.wid != 0 || decide (13 ≤ fm) || f.lit.isSome || !f.only 0x1FE000 ||
        (arch && ((f.rnd != 0 && !(7 ≤ r && r ≤ 10)) || (f.a 14 1 == 1 && !accOk) || (f.a 13 1 == 1 && !gathOk))), 0x02),
      (arch && !fmOk, 0x09)]
  else
    let only := match op with
      | 1 | 6 => f.only 0
      | 3 => f.only 0x1E0000 && f.a 17 2 != 3
      | _ => f.only 0x180000
    firstCause [(f.wid != 0 || f.fmt != 0 || f.rnd != 0 || f.lit.isSome || !only, 0x02)]

/-- Checks of a D word (R218, R236, R243 to R247, R308, R354, R355). -/
def checkD (op : Nat) (f : FE) : Option Nat :=
  let zero := f.wid == 0 && f.fmt == 0 && f.rnd == 0
  let noLit := f.lit.isNone
  let tok := f.tokp != 0
  let bad (b : Bool) : Option Nat := firstCause [(!b, 0x02)]
  match op with
  | 0x00 => bad (zero && noLit && f.only 0x1E0000)
  | 0x01 => bad (zero && noLit && f.only 0x1E7800)
  | 0x02 | 0x03 => bad (zero && noLit && f.only 0x1F8000)
  | 0x04 => bad (zero && noLit && f.only 0x060000)
  | 0x05 => bad (zero && f.only 0x0607E0 && (noLit || f.a 5 6 == 0))
  | 0x06 => bad (zero && noLit && f.only 0x180001)
  | 0x07 => bad (zero && noLit && f.only 0x180001)
  | 0x08 => bad (zero && noLit && f.only 0x180007 && decide (f.a 0 3 ≤ 4))
  | 0x09 => bad (zero && noLit && f.swp == 0 && tok && f.only 0x1F8000)
  | 0x0A => bad (zero && noLit && tok && f.only 0x00001F && decide (f.a 0 3 ≤ 4) && (f.a 3 1 == 1 || f.a 0 3 == 0))
  | 0x0B =>
    let unit := f.a 14 3
    let kind := f.a 12 2
    let opn := f.a 2 3
    let quant := unit ≤ 1
    match kind with
    | 0 => bad (zero && unit == 4 && f.only 0x01F7E0 && (noLit || f.a 5 6 == 0))
    | 1 => firstCause [
        (!(f.wid == 0 && noLit && unit ≤ 4 && f.only (if unit = 4 then 0x19F01C else 0x1FF01C) && decide (f.fmt.toNat < 13) &&
          (if quant then decide (opn ≤ 2) else opn == 0 && f.fmt == 0 && f.rnd == 0)), 0x02),
        (quant && decide (1 < f.fmt.toNat), 0x09)]
    | 2 => bad (zero && noLit && unit ≤ 4 && f.only 0x07F000)
    | _ => some 0x02
  | 0x10 => bad (zero && noLit && f.swp == 0 && tok && f.only 0x1F87FF && decide (f.a 0 5 ≤ 10))
  | 0x11 => bad (zero && noLit && f.swp == 0 && f.only 0x0007E0)
  | 0x12 => bad (zero && noLit && f.swp == 0 && f.only 0x1987E0)
  | 0x13 => bad (zero && noLit && f.swp == 0 && tok && f.only 0)
  | _ =>
    let fm := f.fmt.toNat
    let hop := f.a 7 2
    let fields :=
      if op = 0x18 then f.rnd == 0 && f.only 0x187FF8
      else f.only 0x1FFFE0 && hop != 3 &&
        (if hop = 2 then decide (f.a 5 2 ≤ 1) else f.a 5 2 == 0 && f.a 15 4 == 0) && (hop != 0 || f.rnd == 0)
    firstCause [
      (!(f.wid == 0 && f.swp == 0 && tok && noLit && fields && decide (fm < 13)), 0x02),
      (!(fm == 0 || fm == 1 || fm == 3 || fm == 4), 0x09)]

/-- Ports of R328: defined, usable as a source, usable as a destination. -/
def portKinds (p : Nat) : Bool × Bool × Bool :=
  if p = 0 then (true, true, true)
  else if 0x020 ≤ p ∧ p ≤ 0x03F then (true, true, true)
  else if 0x040 ≤ p ∧ p ≤ 0x04F then (true, true, true)
  else if 0x061 ≤ p ∧ p ≤ 0x067 then (true, true, true)
  else if 0x1EFF ≤ p then (true, true, false)
  else if triggerPorts.contains p then (true, false, true)
  else if [0x110, 0x210, 0x310, 0x410, 0x510, 0x610, 0x710].contains p then (true, true, false)
  else if [0x100, 0x102, 0x200, 0x202, 0x300, 0x301, 0x401, 0x500, 0x501, 0x600, 0x700].contains p then
    (true, false, true)
  else (false, false, false)

/-- Checks of a move, the first three rows of R332. -/
def checkMove (f : FMv) : Option Nat :=
  let (ds, ss, _) := portKinds f.src.toNat
  let (dd, _, sd) := portKinds f.dst.toNat
  firstCause [
    (f.low != 0 || (f.grd == 0 && f.inv == 1) || (f.src == 0x1EFF && f.lit.isNone), 0x02),
    (!ds || !dd, 0x03),
    (!ss || !sd, 0x06)]

/-- The encoding check of an instruction, in a privileged context or not (R61 step 2, R332, R363). -/
def check (priv : Bool) (i : Instr) : Option Nat :=
  match view i with
  | .sR .common op f =>
    firstCause [(!priv && (op == 0x3C || op == 0x3D) && decide (0x100 ≤ f.csrn), 0x0D), (badCommonR op f, 0x02)]
  | .sR .s0 op f => firstCause [(!priv && privilegedOp op, 0x0D), (badS0R op f, 0x02)]
  | .sR .s1 op f => firstCause [(badS1R op f, 0x02)]
  | .sI _ op f =>
    firstCause [((f.lit.isSome && f.imm != 0) || (decide (0x29 ≤ op) && decide (op ≤ 0x2B) && decide (63 < f.val.toNat)), 0x02)]
  | .sLI _ _ f => firstCause [(f.lit.isSome && f.imm != 0, 0x02)]
  | .sB _ op f =>
    firstCause [(f.cc == 7 || (op == 0x40 && f.cc == 0 && f.ra != 0) || (op == 0x41 && f.cc != 0) ||
      (f.lit.isSome && f.off != 0), 0x02)]
  | .sM _ _ f => firstCause [(f.lit.isSome && f.off != 0, 0x02)]
  | .sMO _ op f =>
    firstCause [(f.lit.isSome || f.z != 0 || decide (4 < f.scope.toNat) ||
      (if op = 0x4C then f.ord != 1 else if op = 0x4D then f.ord != 2 else f.ord == 0 || f.rt != 0 || f.ra != 0 || f.w != 0),
      0x02)]
  | .sMX _ _ f => firstCause [(f.lit.isSome || decide (4 < f.scope.toNat), 0x02)]
  | .l _ f => firstCause [(f.lit.isSome, 0x02)]
  | .v op _ f => checkV op f
  | .x op f => checkX op f
  | .m op f => checkM op f
  | .d op f => checkD op f
  | .move f => checkMove f
  | .empty => none
  | .event => none

/-! Registers named by an instruction: a pair of a file and a number. Files follow R374 (0 s, 1 v, 2 w, 3 x, 4 m, 5 c,
6 vm, 7 wm, 8 shape register, 9 port); 10 is a row counter, 11 a CSR. Numbers are the names as written. -/

abbrev Ref := Nat × Nat

def sRef (n : BitVec 6) : List Ref := if n = 0 then [] else [(0, n.toNat)]

/-- The file of a tile select in V0 or V1, and of the other one. -/
def tileFile : Unit2 → Nat
  | .v0 => 1
  | .v1 => 2
def maskFile : Unit2 → Nat
  | .v0 => 6
  | .v1 => 7

def selRef (u : Unit2) (s : BitVec 8) : List Ref :=
  if s.toNat < 64 then [(tileFile u, s.toNat)] else if s.toNat < 72 then [(9, s.toNat - 64)] else []

/-- Second operand register of an R form: RB, unless a literal replaces it. -/
def rbRef (f : FR) : List Ref := if f.lit.isSome then [] else sRef f.rb

/-- Registers an instruction reads as sources (R61, R100). Consumed tokens are not read (R228); TWAIT waits for its
registers without reading them (R153). -/
def readsOf (i : Instr) : List Ref :=
  match view i with
  | .sR .common op f =>
    if op = 0x3C then []
    else if op = 0x3D then sRef f.rd
    else sRef f.ra ++ (if unaryOp op ∨ op = 0x3A then [] else rbRef f) ++ (if op = 0x1E then sRef f.rd else [])
  | .sR .s0 op f =>
    match op with
    | 0x42 | 0x43 | 0x44 | 0x46 => sRef f.ra
    | 0x4A | 0x4B => sRef f.ra ++ rbRef f
    | 0x4C =>
      match f.fn.toNat with
      | 0 | 1 | 2 => sRef f.ra
      | 3 => [(1, f.ra.toNat)]
      | 4 => [(2, f.ra.toNat)]
      | _ => [(4, f.ra.toNat % 8)]
    | 0x50 => sRef f.rd
    | 0x51 => sRef f.ra ++ sRef f.rb
    | _ => []
  | .sR .s1 op f =>
    match op with
    | 0x5B | 0x5C => sRef f.ra
    | _ => sRef f.ra ++ rbRef f
  | .sI _ _ f => sRef f.ra
  | .sLI _ op f => if op = 0x30 then sRef f.rd else []
  | .sB _ op f => if op = 0x40 then sRef f.ra else []
  | .sM _ op f => sRef f.ra ++ (if 0x48 ≤ op then sRef f.rt else [])
  | .sMO _ op f => if op = 0x4E then [] else sRef f.ra ++ (if op = 0x4D then sRef f.rt else [])
  | .sMX _ op f => sRef f.ra ++ sRef f.rb ++ (if op = 0x59 then sRef f.rt else [])
  | .l _ f => sRef f.ra
  | .v op u f =>
    let (_, a, b, c) := usesSel op f
    let src (used : Bool) (s : BitVec 8) : List Ref := if used then selRef u s else []
    (if op = 0x3A then [(3 - tileFile u, f.sa.toNat % 64)]
     else src a f.sa ++ src b f.sb ++ src c f.sc) ++
    (if f.men = 1 then [(maskFile u, f.msk.toNat)] else []) ++
    (if 0x34 ≤ op ∧ op ≤ 0x36 then [(maskFile u, (f.aux.extractLsb' 3 3).toNat), (maskFile u, (f.aux.extractLsb' 6 3).toNat)]
     else if op = 0x37 ∨ op = 0x39 then [(maskFile u, (f.aux.extractLsb' 3 3).toNat)] else []) ++
    (if op = 0x22 ∨ op = 0x23 then [(5, (f.aux.extractLsb' 5 5).toNat)] else [])
  | .x op f =>
    if op = 0 then
      (if f.sa.toNat < 128 then [(3, f.sa.toNat % 16)] else []) ++ (if f.men = 1 then [(6, f.msk.toNat)] else [])
    else
      match (f.aux.extractLsb' 0 2).toNat with
      | 0 => [(1, (f.aux.extractLsb' 4 6).toNat)]
      | 2 => [(2, (f.aux.extractLsb' 4 6).toNat)]
      | _ => [(3, f.sa.toNat % 16)]
  | .m op _ =>
    (List.range 8).map (fun k => (8, k)) ++ (if op = 0 then (List.range 8).map (fun k => (4, k)) else [])
  | .d op f =>
    let rg (lo : Nat) : List Ref := sRef (f.arg.extractLsb' lo 6)
    (List.range 8).map (fun k => (8, k + 8)) ++
    (match op with
     | 0x05 => if f.lit.isSome then [] else rg 5
     | 0x09 => rg 15
     | 0x0B => if f.a 12 2 = 0 ∧ f.lit.isNone then rg 5 else []
     | 0x10 => rg 15 ++ rg 5
     | 0x11 | 0x12 => rg 5
     | 0x18 => rg 9 ++ rg 3
     | 0x19 => rg 9
     | _ => [])
  | .move _ => []
  | .empty => []
  | .event => []

/-- Locations an instruction writes, as the duplicate-write check counts them (R58). -/
def writesOf (i : Instr) : List Ref :=
  match view i with
  | .sR .common op f =>
    if op = 0x3D then (if f.csrn = 0x18 then [(10, 0)] else if f.csrn = 0x19 then [(10, 1)] else [(11, f.csrn)])
    else sRef f.rd
  | .sR .s0 op f =>
    match op with
    | 0x43 => sRef f.rd
    | 0x4A => [(8, f.rd.toNat / 8)]
    | 0x4C =>
      match f.fn.toNat with
      | 0 => [(4, f.rd.toNat % 8)]
      | 1 => [(1, f.rd.toNat)]
      | 2 => [(2, f.rd.toNat)]
      | _ => sRef f.rd
    | 0x4F | 0x51 => sRef f.rd
    | _ => []
  | .sR .s1 op f => if op = 0x5A ∨ op = 0x5D then [] else sRef f.rd
  | .sI _ _ f => sRef f.rd
  | .sLI _ _ f => sRef f.rd
  | .sB _ op f => if op = 0x41 then sRef f.ra else []
  | .sM _ op f => if op < 0x48 then sRef f.rt else []
  | .sMO _ op f => if op = 0x4C then sRef f.rt else []
  | .sMX _ _ f => sRef f.rt
  | .l _ f => [(5, f.cd.toNat)]
  | .v op u f =>
    let (d, _, _, _) := usesSel op f
    (if d then selRef u f.dst else []) ++
    (if op = 0x32 ∨ op = 0x33 then [(tileFile u, f.dst.toNat + 1)] else []) ++
    (if (0x10 ≤ op ∧ op ≤ 0x15 ∧ !f.aux.getLsbD 8) ∨ (0x34 ≤ op ∧ op ≤ 0x38) then [(maskFile u, (f.aux.extractLsb' 0 3).toNat)]
     else []) ++
    (if op = 0x3B then [(10, tileFile u - 1)] else [])
  | .x op f =>
    if op = 0 then [(3, f.dst.toNat % 16)]
    else
      match (f.aux.extractLsb' 0 2).toNat with
      | 1 => [(1, (f.aux.extractLsb' 4 6).toNat)]
      | 3 => [(2, (f.aux.extractLsb' 4 6).toNat)]
      | _ => [(3, f.dst.toNat % 16)]
  | .m _ f => sRef f.tokp
  | .d _ f => sRef f.tokp
  | .move _ => []
  | .empty => []
  | .event => []

/-- Bits of the lane budget an instruction counts (R57). -/
def laneBits (i : Instr) : Nat :=
  match view i with
  | .v _ _ f | .x _ f => widBits f.wid
  | _ => 0

/-- The predicate an instruction names (R49). -/
def predOf (i : Instr) : Nat :=
  match view i with
  | .sR _ _ f => f.pg.toNat
  | .sI _ _ f => f.pg.toNat
  | .sLI _ _ f => f.pg.toNat
  | .sB _ _ f => f.pg.toNat
  | .sM _ _ f => f.pg.toNat
  | .sMO _ _ f => f.pg.toNat
  | .sMX _ _ f => f.pg.toNat
  | .l _ f => f.pg.toNat
  | .v _ _ f => f.pg.toNat
  | .x _ f => f.pg.toNat
  | .m _ f => f.pg.toNat
  | .d _ f => f.pg.toNat
  | .move _ => 0
  | .empty => 0
  | .event => 0

end Sys2Proof.Machine
end

