-- ==== Sys2Proof/Machine/State.lean ====
section
/-! DEFINITION. The state of the machine: every piece of state the spec gives the module, one main core and one Oasis
core followed in full (log 6), as plain data. Register files, caches and memories are sparse maps in canonical form
(Machine/Sparse.lean). -/

namespace Sys2Proof.Machine

/-- Reasons a step stops with a fault: there are none. What the spec calls a fault the machine takes as an exception, or it ends
the launch (R369, R372). -/
inductive Fault where
  deriving DecidableEq, Repr

/-- Reasons there is no meaning. -/
inductive Refusal where
  /-- The instruction of this mnemonic has no meaning yet. Raised by exec. Safe. -/
  | notModelled (mnemonic : String)
  deriving DecidableEq, Repr

/-- Where a result goes, bound at issue (R67): an S register by physical number; a row of a tile register with the bits
written; a row of an x register with the bits written; an m or c register; the bits
written of a lane-mask register; a field of a physical copy of a
shape register; bytes of the own scratchpad (a port push). -/
inductive Dst where
  | s (phys : Nat)
  | tile (w : Bool) (phys row : Nat) (mask : Row)
  | x (reg row : Nat) (mask : Row)
  | m (reg : Nat)
  | c (reg : Nat)
  | lanes (wm : Bool) (reg : Nat) (mask : Lanes)
  | shape (dq copy : Bool) (reg field : Nat)
  | push (off : Nat) (mask : Row)
  deriving DecidableEq, Repr

/-- A bound write: destination and value (R68). -/
structure Write where
  dst : Dst
  val : Row
  deriving DecidableEq, Repr

/-- An entry of the pending write table (R68, R374). `arrived` says that its value has arrived, or will have when its
count runs out; an overdue entry whose value arrives while its bank is frozen is written at the return (R69). `late` is
how many cycles the value may still stay out, by the bound of R66; `born` the issue number of its bundle, counted over all
levels, and `lands` the landing index at its level (R67). -/
structure Pending where
  slot : Nat
  cls : Nat
  count : Nat
  overdue : Bool
  arrived : Bool
  late : Nat
  born : Nat
  lands : Nat
  file : Nat
  reg : Nat
  writes : List Write
  deriving DecidableEq, Repr

/-- A loop record (R21, R93). -/
structure LoopRec where
  level : Nat
  kind : Nat
  tripSrc : Nat
  stages : Nat
  tripVal : Nat
  bodyLen : Nat
  dvrow : Nat
  dwrow : Nat
  rstepS : Nat
  rstepV : Nat
  rstepW : Nat
  pdelta : Nat
  livev : Word
  livew : Word
  deriving DecidableEq, Repr

/-- An open level of the loop stack (R29). -/
structure LoopEnt where
  lrec : LoopRec
  exec : Nat
  total : Nat
  trip : Nat
  start : Word
  last : Word
  fin : Word
  preds : BitVec 8
  baseS : Nat
  baseV : Nat
  baseW : Nat
  swap : Bool
  deriving DecidableEq, Repr

/-- A user X micro-program (R95). -/
structure XRec where
  index : Nat
  steps : List Word
  table : List Byte
  deriving DecidableEq, Repr

/-- A loaded kernel (R20, R92, R93). -/
structure Kernel where
  vmid : Nat
  kdesc : Word
  base : Word
  len : Nat
  entry : Word
  lat : List Nat
  loops : List LoopRec
  livev : Word
  livew : Word
  argSize : Nat
  nbufr : Nat
  nbufw : Nat
  xfnMask : BitVec 16
  xfns : List XRec
  routMask : BitVec 32
  routRefs : List (Nat × Nat × Nat)
  feat : BitVec 512
  priv : Bool
  oasis : Bool
  deriving DecidableEq, Repr

/-- Whether the followed core runs a context (R41, R391). -/
inductive RunStatus where
  | idle
  | running
  | ending
  | halted
  deriving DecidableEq, Repr

/-- A fault mark of an S register: poison (cause 0x33) or token fault (cause 0x34), with its TVAL (R156, R231). -/
structure Mark where
  token : Bool
  tval : Word
  deriving DecidableEq, Repr

/-- The bytes of a load that may still be performed again (R294): its address, place, size, leaf, and whether its value is
sign-extended. -/
structure LoadOp where
  va : Word
  pad : Bool
  pa : Nat
  size : Nat
  leaf : Word
  sext : Bool
  deriving DecidableEq, Repr

/-- A scoreboarded result not yet written (R64, R137): `val` is none while it is still awaited; `again` the plain load whose
value it is, where nothing yet keeps that from being performed later than its bundle issued (R294; log 9). -/
structure Result where
  reg : Nat
  val : Option Word
  poison : Option Word
  again : Option LoadOp
  deriving DecidableEq, Repr

/-- Kind of a queued memory operation: a store, a store that acts as a release, or an AMO (R157, R158, R295). -/
inductive MemKind where
  | store
  | release
  | amo
  deriving DecidableEq, Repr

/-- A store or AMO issued and not yet performed (R157, R158); `pa` is a scratchpad key where `pad` is set, `release`
the scope it releases at, and `after` the level and issue number of its bundle. It is performed after the context's writes
issued before each of `waits`, a scope, level and issue number: its own, and those of the release fences before it (R295). -/
structure MemOp where
  kind : MemKind
  va : Word
  pa : Nat
  size : Nat
  data : Word
  scope : Nat
  leaf : Word
  amo : Nat
  cmp : Word
  reg : Nat
  release : Option Nat
  pad : Bool
  after : Nat × Nat
  waits : List (Nat × Nat × Nat)
  deriving DecidableEq, Repr

/-- An operation of the engine queue (R228): its instruction, the values of its register operands, the live shapes and m
registers bound at issue, its token register, the operations it waits for, and how far it has come. -/
structure EngOp where
  id : Nat
  ins : Instr
  vals : List Word
  shapes : List (List (BitVec 32))
  ms : List Word
  tok : Nat
  deps : List Nat
  started : Bool
  status : Nat
  info : Nat
  left : List (Nat × Nat)
  pairs : List (Nat × Word × Nat)
  msg : Option Message
  deriving DecidableEq, Repr

/-- An entry of the context's region table (R307): virtual base, length, operator, releasing. -/
structure Region where
  base : Word
  len : Nat
  opr : Nat
  releasing : Bool
  deriving DecidableEq, Repr

/-- The trap CSRs of one level (R365). -/
structure TrapRegs where
  cause : Word
  epc : Word
  val : Word
  scr : Word
  deriving DecidableEq, Repr

/-- The followed context, on its core (R29, R99, R365). `pcfgd` is the port a PCFG of the bundle in issue has reset;
`lost` the first lost sector of a store-lost fault not yet taken (R422). `memq` holds stores and AMOs that have not left the
core, `transit` stores on their way to the home, past the RDC where that is on another die, and `unacked` the home, count,
sector and issue number of each write applied and not acknowledged (R212, R300, R301); `zeroed` says that the device asked
for zeroed scratchpads when the context was placed or resumed (R114, R405); `relFence` and `relSince` the scope of the release fences in force, and the scope, level and issue number of
the latest of each scope and level; `acqWait` the scope of an acquire fence that still waits, for stores too where `acqAll`
says so. -/
structure Core where
  num : Nat
  status : RunStatus
  s : Sp Word
  v : Sp Row
  w : Sp Row
  x : Sp Row
  m : Sp Word
  shape : Sp (BitVec 32)
  mqLive : Bool
  dqLive : Bool
  c : Sp Row
  vm : Sp Lanes
  wm : Sp Lanes
  vrow : BitVec 8
  wrow : BitVec 8
  port : Sp (BitVec 32)
  pidx : Sp Nat
  pcfgd : Option Nat
  marks : Sp (Option Mark)
  unread : List Nat
  engFault : Bool
  lost : Option Word
  pc : Word
  blen : Nat
  slot : Nat
  safe : Bool
  jump : Option Word
  skipTo : Option Word
  xfer : Option Word
  loops : List LoopEnt
  empties : Nat
  endDue : Bool
  lexit : Bool
  atPoint : Bool
  binit : Option (Nat × BitVec 32)
  issue : List Nat
  bank0 : List Pending
  bank1 : List Pending
  bank2 : List Pending
  karg : Word
  sidx : List Word
  tlevel : Nat
  thandler : Word
  thsize : Word
  vmid : BitVec 7
  zeroed : Bool
  tsave : Word
  kstat : Word
  trap1 : TrapRegs
  trap2 : TrapRegs
  kernel : Option Kernel
  launch : Nat
  inst : Nat
  sysq : Bool
  oc : Sp Nat
  sb : List Result
  memq : List MemOp
  transit : List MemOp
  unacked : List (Nat × Nat × Nat × Nat)
  relFence : Option Nat
  relSince : List (Nat × Nat × Nat)
  acqWait : Option Nat
  acqAll : Bool
  refresh : Bool
  tlbinv : Option (Nat × Word × Nat × Nat)
  eng : List EngOp
  engNext : Nat
  regions : Sp (Option Region)
  tmOpr : BitVec 32
  tmRes : Sp (BitVec 32)
  deriving DecidableEq, Repr

/-- The four scratchpads of the quad (R207, R218). Keys of `sp` are rank·2²⁶ + offset; of `spPoison`, that over 128;
of `pending`, rank·128 + bank·8 + eighth. -/
structure Quad where
  sp : List Host.Cell
  spPoison : Sp Bool
  pending : Sp Bool
  split : Sp Word
  deriving DecidableEq, Repr

/-- Array state of the followed core (R254): plane images of R272 (cell part, then grid part), the gradient image, the
active-plane bit, and poison by cell (0 to 16383) and record (16384 + row) of each plane, and by gradient cell. `owner`
is the launch and instance whose state it holds (R256). -/
structure ArrState where
  plane0 : List Host.Cell
  plane1 : List Host.Cell
  grad : List Host.Cell
  active : Bool
  poi0 : Sp Bool
  poi1 : Sp Bool
  poiG : Sp Bool
  owner : Option (Nat × Nat)
  deriving DecidableEq, Repr

/-- A cached 128-byte sector (R210): its bytes, dirtiness, the tag of the home's counter at its fill (R214, R300), poison,
the device of the request that put it there, whether its page's policy is STREAM (R211), and its way in the memory-side cache
(R216). -/
structure Sector where
  data : Row
  dirty : Bool
  tag : Nat
  poison : Bool
  dev : Nat
  way : Nat
  late : Bool
  deriving DecidableEq, Repr

/-- A fill that a miss has asked for: the level, the key, the device, whether it is of the weight-stream class (R215, R216),
and whether the line goes in at the eviction end (R211, R215). -/
structure FillReq where
  level : CacheLevel
  key : Nat
  dev : Nat
  weights : Bool
  late : Bool
  deriving DecidableEq, Repr

/-- A Caravanserai bin (R315): its 512-byte line, the way it occupies, the device, base and operator of its region, entries
by physical element address, pairs accepted into it, and whose pairs each element's entry holds (element address, launch,
instance, UPD). The list of bins is in order of creation. -/
structure Bin where
  line : Nat
  way : Nat
  vmid : Nat
  base : Word
  opr : Nat
  entries : Sp (Option Word)
  pairs : Nat
  owners : List (Nat × Nat × Nat × Nat)
  deriving DecidableEq, Repr

/-- A physical update region (R306): device, virtual base, length, operator, and the contexts (launch, instance) that
hold an id of it, once for each id. -/
structure PRegion where
  vmid : Nat
  base : Word
  len : Nat
  opr : Nat
  holders : List (Nat × Nat)
  deriving DecidableEq, Repr

/-- Memory below the core (R206, R210 to R226, R300). Keys of `poison` and `relClk` are sector numbers (address over
128); of the caches, twice the sector number plus 1 for a copy held through a COMP mapping (R220, R224); of `spClk`,
scratchpad keys over 128. `dram` holds the compression metadata too, in each stack's metadata region (R220). `l1` and
`icache` are the followed core's (R10), `rdc` its die's. `fills` lists the fills that misses have asked for; `pairPoison` the
contexts and UPDs whose update pairs met a poisoned sector (R314, R317); `down` the dies whose home function has moved to
the memory side (R422). `l2Use`, `rdcUse` and `mscUse` hold line numbers, the one used last first (R211, R215); `pads` the
eighths of the followed quad that are no cache: die·2048 + core·128 + bank·8 + eighth (R208, R213). -/
structure Mem where
  dram : List Host.Cell
  poison : Sp Bool
  icache : Sp (Option Sector)
  l1 : Sp (Option Sector)
  l2 : Sp (Option Sector)
  rdc : Sp (Option Sector)
  msc : Sp (Option Sector)
  hc : Sp Nat
  vc : Sp Nat
  relClk : Sp (List Nat)
  spClk : Sp (List Nat)
  bins : List Bin
  pregions : List PRegion
  fills : List FillReq
  pairPoison : List (Nat × Nat × Nat)
  down : List Nat
  l2Use : List Nat
  rdcUse : List Nat
  mscUse : List Nat
  pads : List Nat
  deriving DecidableEq, Repr

/-- A cached translation (R400): its device (none when global), page number, level, leaf. -/
structure TlbEnt where
  vmid : Option Nat
  page : Nat
  level : Nat
  leaf : Word
  deriving DecidableEq, Repr

/-- A cached pointer entry (R400): the die whose L2 TLB holds it, the device, the level of the table it leads to, the virtual
address over what that table maps, and the table's address. -/
structure PtrEnt where
  die : Nat
  vmid : Nat
  level : Nat
  pre : Nat
  table : Nat
  deriving DecidableEq, Repr

/-- A miss of the followed core in its die's walk pool (R401): device, 64 KiB page, access, and what its walk found, a cause
or a leaf with its level. -/
structure Miss where
  vmid : Nat
  page : Nat
  acc : Access
  cause : Option Nat
  leaf : Option (Word × Nat)
  deriving DecidableEq, Repr

/-- An outstanding operation of an interlocked Oasis unit (R333): unit, operation, virtual address, length of a range or
number of a buffer slot, the physical addresses bound when it was triggered (`pa` written, `pb` read) with the leaf, and
the data it stores. -/
structure OasOp where
  unit : Nat
  op : Nat
  va : Word
  len : Word
  pa : Nat
  pb : Nat
  leaf : Word
  data : BitVec 512
  deriving DecidableEq, Repr

/-- An exposed Oasis result on its way (R333): unit, words left, value, guard it names (0 for none). -/
structure OasRes where
  unit : Nat
  left : Nat
  val : BitVec 512
  guard : Nat
  deriving DecidableEq, Repr

/-- The followed Oasis core (R326 to R346). Units are numbered 0 IALU A, 1 IALU B, 2 VALU, 3 LSU, 4 ROW, 5 CVS, 6 SYNC;
keys of `opr` are unit·4 + register, of `res` the unit, of `bufs` and `bufPoison` slot·8 + sector. `poisonR` is the address of
a poisoned load whose value the LSU's R holds; `slot` the slot in issue; `wrote` the guards the last word wrote by moves; `relFence` says that a sync.fence makes later
stores release at SYS (R295, R342). -/
structure Oasis where
  num : Nat
  status : RunStatus
  o : Sp Word
  y : Sp (BitVec 512)
  gd : BitVec 8
  opr : Sp (BitVec 512)
  res : Sp (BitVec 512)
  poisonR : Option Word
  flight : List OasRes
  ops : List OasOp
  pc : Word
  jump : Option Word
  stack : List Word
  bufs : Sp Row
  bufPoison : Sp Bool
  code : Sp (BitVec 32)
  base : Word
  words : Nat
  vmid : Nat
  launch : Nat
  inst : Nat
  slot : Nat
  wrote : BitVec 8
  relFence : Bool
  preempt : Bool
  yielded : Bool
  postponed : Nat
  deriving DecidableEq, Repr

/-- States of a launch (R387). -/
inductive LaunchState where
  | accepted
  | ready
  | placing
  | running
  | draining
  | complete
  | rejected
  | cancelled
  | killed
  deriving DecidableEq, Repr

/-- An accepted launch (R380, R381, R387): packet bytes, kernel, depth and ancestors (nearest first), dependences, the
cache operations of R386 (base, length, kind), groups not yet placed, dies of its die tuples, instances retired, engine
fault seen, FTIME when it became ready and intervals it has aged, killed, the physical places, with their mapping's COMP, of
the completion token and the kill block (R382), and the core whose fault killed it, with CYCLE then (R372). -/
structure Launch where
  id : Nat
  vmid : Nat
  sysq : Bool
  packet : List Byte
  kernel : Kernel
  ancestors : List Nat
  state : LaunchState
  deps : List Nat
  flushes : List (Nat × Nat × Nat)
  unplaced : List Nat
  dies : List (Nat × Nat)
  retired : Nat
  engFault : Bool
  readyAt : Word
  aged : Nat
  killed : Bool
  tokenAt : Nat × Bool
  killAt : Nat × Bool
  killer : Option (Nat × Word)
  deriving DecidableEq, Repr

/-- A placed group (R388): launch, group number, base core (or Oasis core), size, Oasis or main, members halted and
retired, FTIME of a pre-emption request, FTIME of its placement, and FTIME before which no request is repeated. -/
structure Placed where
  launch : Nat
  group : Nat
  base : Nat
  size : Nat
  oasis : Bool
  halted : List Nat
  retired : List Nat
  preempt : Option Word
  placedAt : Word
  noAsk : Word
  deriving DecidableEq, Repr

/-- A saved group (R391, R392): launch, group, its base core, ranks that had retired, the followed member's context, its
array state once saved, the SPLITs of its members in the followed quad, their eighths still in place, the saved bytes and
poison of the others, the followed Oasis instance, and the cores, but for the followed one, where array state or an eighth of
another quad is still in place. -/
structure Saved where
  launch : Nat
  group : Nat
  base : Nat
  retired : List Nat
  core : Option Core
  array : Option ArrState
  splits : List (Nat × Word)
  left : List Nat
  sp : List Host.Cell
  spPoison : Sp Bool
  oasis : Option Oasis
  away : List Nat
  deriving DecidableEq, Repr

/-- The arrival of packets not yet accepted (R379, R380): device, queue (64 and up for device-side ones), the virtual address
of the queue's ring as it then stood (R405), FTIME, the launch that pushed them, and the TAIL that was read with it. -/
structure Bell where
  vmid : Nat
  queue : Nat
  ring : Nat
  time : Word
  parent : Nat
  value : Nat
  deriving DecidableEq, Repr

/-- The dispatcher (R378 to R391): launches in order of acceptance, the next launch id, arrivals, placed and saved groups,
deficits, weights as the last round took them (R389, R405), VFLAGS as a placement or resume last took them (R405), the device
served last, the launch being served, and FTIME of the last round and the last charge. -/
structure Disp where
  launches : List Launch
  nextId : Nat
  bells : List Bell
  placed : List Placed
  saved : List Saved
  deficit : Sp Int
  weight : Sp Nat
  vflags : Sp (Option Nat)
  lastVmid : Nat
  serving : Nat
  roundAt : Word
  chargedAt : Word
  deriving DecidableEq, Repr

/-- Collectives (R351 to R361): messages received and not matched, messages sent and not accepted with their operation,
and the match counts of CSENDs and CRECVs per (group, peer, channel). -/
structure Coll where
  store : List Message
  out : List (Nat × Message)
  sent : Sp Nat
  recvd : Sp Nat
  deriving DecidableEq, Repr

/-- Frames received of one epoch (R414, R415): all below `cum`, those beyond it with the payload of DATA frames, payloads
in order that are not yet delivered, and DATA frames since the last ACK. -/
structure Window where
  cum : Nat
  beyond : List (Nat × Option (List Byte))
  inOrder : List (List Byte)
  sinceAck : Nat
  deriving DecidableEq, Repr

/-- A link, 0 to 31 Isthmus and 32 to 35 Strait (R412 to R417): training step (0 before step 3, 3 to 5, 6 trained),
failures in a row, training attempts, TRAIN frames sent in this attempt, the peer's HELLO, PRK; the sender's epoch, SEQ,
FTIME at which the epoch began, payloads waiting for room with the operation whose message they carry, frames kept with their
epochs, the operation, epoch and SEQ of each frame kept, FTIME of the last new acknowledgement, the rate, as a numerator over a
power of two of the line's; the receiver's epoch and the frames of it and of the next, errors counted,
payloads delivered; and every frame sent. -/
structure Link where
  step : Nat
  failures : Nat
  retired : Bool
  attempt : Nat
  trainSeq : Nat
  peer : Option Hello
  prk : List Byte
  epoch : Nat
  seq : Nat
  epochAt : Word
  queue : List (Nat × List Byte)
  unacked : List (Nat × Frame)
  carry : List (Nat × Nat × Nat)
  ackedAt : Word
  rate : Nat × Nat
  peerEpoch : Nat
  win : Window
  next : Window
  errors : Nat
  delivered : List (List Byte)
  outbox : List Frame
  deriving DecidableEq, Repr

/-- A die's health (R421, R422): temperature recorded and now, retest due and running, spare lanes, store layer tripped
and past its deadline, FTIMEs of its trips. -/
structure Die where
  temp : Int
  now : Int
  retest : Bool
  testing : Bool
  spares : Nat
  tripped : Bool
  lost : Bool
  trips : List Word
  deriving DecidableEq, Repr

/-- The device information block (R411) and module-level facts (R418 to R426): `strait` the ports in Strait mode (R17), `cxl` that
the second tier is there (R419). -/
structure Info where
  offer : BitVec 512
  accept : BitVec 512
  accepted : Bool
  quadMask : BitVec 36
  stackMask : BitVec 16
  isthMask : BitVec 32
  portMask : BitVec 4
  state : BitVec 8
  hbmcap : Word
  pcret : BitVec 1024
  replace : Word
  imgaddr : Word
  imgstat : Word
  vbrange : BitVec 16
  mctp : List Nat
  campus : BitVec 8
  pkg : BitVec 16
  strait : BitVec 4
  cxl : Bool
  deriving DecidableEq, Repr

/-- What comes from outside the followed cores: an event; a barrier operation of a quad peer (rank, scratchpad key of the
object, kind and operand; R160); another core's TLBINV (mode, address, device; R375); another core's fatal fault (core,
TCAUSE word, TEPC, TVAL; from 144 on an Oasis core; R369, R372); a read of the device information block over MCTP (offset, length; R411);
that every frame a link's peer has sent in its present epoch has been acknowledged (R413). -/
inductive Outside where
  | event (i : Instr)
  | barrier (rank key kind operand : Nat)
  | invalidate (mode : Nat) (va : Word) (vmid : Nat)
  | fatal (core : Nat) (cause epc tval : Word)
  | mctp (off len : Nat)
  | epochDone (link : Nat)
  deriving DecidableEq, Repr

/-- The whole machine at one moment. `arr` is the followed context's array state, `arrLeft` that of a pre-empted context still
in place on the core (R256, R392). `tlb` is the followed core's L1 TLB, `l2tlb` the L2 TLBs with the die of each entry, and
`pool` what waits for a walk (R400, R401). `retiring` holds the quads that are to be retired once no context is on them, with the
reason (R424, R425). `images` holds the resident routine images (index, image id, version; R288);
`loadStatus` the status of the last object given to the loader (R98);
`replies` the completions returned to fabric requesters, and what MCTP reads of the device information block (R409, R411); `inbox` the events that come from outside and have not
happened yet; `peerOps` the quad peers' barrier operations of the present cycle: rank, scratchpad key of the object, kind
(0 BINIT, 1 BARR, 2 BDROP, 3 landing count), and operand; `peerInvs` the TLBINVs of other cores that have not completed: mode,
address and device (R375; log 6, 19). -/
structure Mach where
  core : Core
  quad : Quad
  arr : ArrState
  arrLeft : Option ArrState
  mem : Mem
  tlb : List TlbEnt
  l2tlb : List (Nat × TlbEnt)
  ptrs : List PtrEnt
  pool : List Miss
  cycle : Word
  ftime : Word
  oas : Oasis
  kernels : List Kernel
  images : List (Nat × Nat × Nat)
  loadStatus : Option Nat
  disp : Disp
  coll : Coll
  links : Sp (Option Link)
  dies : Sp (Option Die)
  retiring : List (Nat × Nat)
  info : Info
  replies : List (Option (List Byte))
  inbox : List Outside
  peerOps : List (Nat × Nat × Nat × Nat)
  peerInvs : List (Nat × Word × Nat)
  deriving DecidableEq, Repr

/-- What the slots of the bundle in issue have found so far: nothing against it; a wait, so that nothing issues this
cycle; a wait for a table walk, after which later slots are checked (R61); a wait of ERET, whose cycle drains the bank (R371); or a transfer of control that has already finished the
bundle (a trap, ERET, a fault). -/
inductive Verdict where
  | go
  | stall
  | walk
  | drain
  | done
  deriving DecidableEq, Repr

/-- What the next step must do, where it is not left to Config.schedule (log 7). -/
inductive Turn where
  | any
  | main
  | oasis
  deriving DecidableEq, Repr

/-- A thing that may happen next (log 7): a cycle in which the followed core issues nothing, the followed core's or Oasis core's
next step, the oldest event from outside, or one of the machine's own events. -/
inductive Pick where
  | time
  | main
  | oasis
  | inbox
  | arrive (level entry : Nat)
  | result (reg : Nat)
  | reload (reg : Nat)
  | start (op : Nat)
  | complete (op : Nat)
  | dmc (op rank : Nat)
  | drained (op bank : Nat)
  | released (op bank : Nat)
  | send
  | reorder (k : Nat)
  | ack
  | release
  | refresh
  | homeWrite
  | fill (level : CacheLevel) (key : Nat)
  | evictL1 (key : Nat)
  | evictIcache (key : Nat)
  | evictRdc (key : Nat)
  | evictL2 (key : Nat)
  | evictMsc (key : Nat)
  | walk (k : Nat)
  | evictTlb (k : Nat)
  | evictL2tlb (k : Nat)
  | evictPtr (k : Nat)
  | amo
  | tlbinv
  | pair (index : Nat)
  | transmit (op : Nat)
  | accept (k : Nat)
  | take (op : Nat)
  | taken (k : Nat)
  | oasisOp (unit : Nat)
  | oasisPreempt
  | launch
  | ready (id : Nat)
  | kill (id : Nat)
  | place
  | round
  | ageing
  | priority (id : Nat)
  | slice (id : Nat)
  | halt (core : Nat)
  | save (id group : Nat)
  | abandon (id group : Nat)
  | parted (id group core : Nat)
  | leave (quad : Nat)
  | ackTimer (link : Nat)
  | resend (link : Nat)
  | epochEnd (link : Nat)
  | linkFail (link : Nat)
  | retest (die : Nat)
  | deadline (die : Nat)
  | image
  | retire (core : Nat)
  | stop (core : Nat)
  | done (id : Nat)
  deriving DecidableEq, Repr

/-- The state of the model. While a bundle or an Oasis word issues, `snap` holds the machine as it stood when the issue
began: every slot reads there and writes `cur` (R48). `freeIdx` counts the free values already taken (log 1), and `waits` how long each
thing that must happen in the end has been passed over (R43, R293; log 7). -/
structure State where
  cur : Mach
  snap : Option Mach
  verdict : Verdict
  turn : Turn
  freeIdx : Nat
  waits : List (Pick × Nat)
  deriving DecidableEq, Repr

/-- Trap CSRs at kernel entry (R365, R366). -/
def TrapRegs.zero : TrapRegs := ⟨0, 0, 0, 0⟩

/-- A core before any placement, with the register values of kernel entry (R114); the rest is log 2. -/
def Core.reset : Core where
  num := 0
  status := .idle
  s := []
  v := []
  w := []
  x := []
  m := []
  shape := []
  mqLive := false
  dqLive := false
  c := []
  vm := []
  wm := []
  vrow := 0
  wrow := 0
  port := []
  pidx := []
  pcfgd := none
  marks := []
  unread := []
  engFault := false
  lost := none
  pc := 0
  blen := 4
  slot := 0
  safe := false
  jump := none
  skipTo := none
  xfer := none
  loops := []
  empties := 0
  endDue := false
  lexit := false
  atPoint := false
  binit := none
  issue := [0, 0, 0]
  bank0 := []
  bank1 := []
  bank2 := []
  karg := 0
  sidx := [0, 0, 0, 0, 0, 0]
  tlevel := 0
  thandler := 0
  thsize := 0
  vmid := 0
  zeroed := false
  tsave := 0
  kstat := 0
  trap1 := .zero
  trap2 := .zero
  kernel := none
  launch := 0
  inst := 0
  sysq := false
  oc := []
  sb := []
  memq := []
  transit := []
  unacked := []
  relFence := none
  relSince := []
  acqWait := none
  acqAll := false
  refresh := false
  tlbinv := none
  eng := []
  engNext := 0
  regions := []
  tmOpr := 0
  tmRes := []

/-- An Oasis core before any placement (R326; log 2). -/
def Oasis.reset : Oasis where
  num := 0
  status := .idle
  o := []
  y := []
  gd := 0
  opr := []
  res := []
  poisonR := none
  flight := []
  ops := []
  pc := 0
  jump := none
  stack := []
  bufs := []
  bufPoison := []
  code := []
  base := 0
  words := 0
  vmid := 0
  launch := 0
  inst := 0
  slot := 0
  wrote := 0
  relFence := false
  preempt := false
  yielded := false
  postponed := 0

/-- The module before bring-up: nothing placed, caches empty, memory with nothing listed (R411, R418; log 2, 3, 5). -/
def Mach.reset : Mach where
  core := .reset
  quad := ⟨[], [], [], []⟩
  arr := ⟨[], [], [], false, [], [], [], none⟩
  arrLeft := none
  mem := ⟨[], [], [], [], [], [], [], [], [], [], [], [], [], [], [], [], [], [], [], []⟩
  tlb := []
  l2tlb := []
  ptrs := []
  pool := []
  cycle := 0
  ftime := 0
  oas := .reset
  kernels := []
  images := []
  loadStatus := none
  disp := ⟨[], 1, [], [], [], [], [], [], 95, 0, 0, 0⟩
  coll := ⟨[], [], [], []⟩
  links := []
  dies := []
  retiring := []
  info := ⟨0, 0, false, 0, 0, 0, 0, 0, 0, 0, 0, 0, 0, 40, [], 0, 0, 0, false⟩
  replies := []
  inbox := []
  peerOps := []
  peerInvs := []

/-- The machine right after reset. -/
def State.reset : State where
  cur := .reset
  snap := none
  verdict := .go
  turn := .any
  freeIdx := 0
  waits := []

end Sys2Proof.Machine
end

