-- ==== Sys2Proof/Machine/Mem.lean ====
section
/-! DEFINITION. Memory below the core: the physical map and homes (R13, R14, R206, R337), stored blocks and their
compression (R220 to R224), home reads and writes through the die L2 and the memory-side cache (R213, R215, R216), poison
(R226), home counters (R300), update bins and the accesses that apply them first (R305, R315, R316), and the scratchpads of
the quad (R207, R208). -/

namespace Sys2Proof.Machine

/-! ## Physical map -/

def hbmEnd : Nat := 0x165A1000000
def tier2Base : Nat := 0x100000000000
def tier2End : Nat := 0x1B2D05E00000

def inHbm (pa : Nat) : Bool := decide (pa < hbmEnd)
def inTier2 (pa : Nat) : Bool := decide (tier2Base ≤ pa) && decide (pa < tier2End)

/-- The address is in a range that holds memory (R206). -/
def present (pa : Nat) : Bool := inHbm pa || inTier2 pa

/-- Stack of an HBM address (R337). -/
def stackOf (pa : Nat) : Nat := pa / 2 ^ 16 % 16

/-- The die that carries a stack (R13). -/
def dieOfStack (k : Nat) : Nat := ([0, 1, 2, 5, 8, 7, 6, 3] : List Nat).getD (k / 2) 0

/-- Home die (R14). -/
def homeDie (pa : Nat) : Nat := if inHbm pa then dieOfStack (stackOf pa) else 4

/-! ## Bytes -/

/-- The canonical form of a memory: addresses strictly rising, no byte listed that reads as an unlisted one does. -/
def Memory.wf (c : List Host.Cell) : Bool := spWf 0 c

def cellsRead (c : List Host.Cell) (a n : Nat) : List Byte := spGets 0 c a n
def cellsWrite (c : List Host.Cell) (a : Nat) (b : List Byte) : List Host.Cell := spSets 0 c a b

/-- A row from bytes, and its bytes. -/
def rowOf (b : List Byte) : Row := BitVec.ofNat 1024 (bytesNat b)
def rowBytes (r : Row) : List Byte := natBytes r.toNat 128

/-- Bits of `new` where the mask has ones, of `old` elsewhere. -/
def mergeRow (old new mask : Row) : Row := (old &&& ~~~mask) ||| (new &&& mask)

/-- Mask and value of `b` standing at byte `off` of a sector. -/
def byteMask (off n : Nat) : Row := BitVec.ofNat 1024 ((256 ^ n - 1) * 256 ^ off)
def placeBytes (off : Nat) (b : List Byte) : Row := BitVec.ofNat 1024 (bytesNat b * 256 ^ off)

/-! ## Compressed streams (R221, R222) -/

/-- `n` bytes of the output so far (held newest first) from `back` bytes back. -/
def copyBack (out : List Byte) (back n : Nat) : List Byte := ((out.drop (back - n)).take n)

/-- Expand tokens; `out` is the output so far, newest first. None for a malformed stream. Whatever follows the 4,096th byte, to
the end of the last sector that the metadata counts, is to be zero (DESIGN CHOICE, log 65). -/
def expandFrom : Nat → List Byte → List Byte → Option (List Byte)
  | 0, _, _ => none
  | fuel + 1, out, s =>
    if out.length = 4096 then (if s.all (· == 0) then some out.reverse else none)
    else
      match s with
      | [] => none
      | t :: r =>
        if t.toNat < 128 then
          let n := t.toNat + 1
          if r.length < n ∨ 4096 < out.length + n then none
          else expandFrom fuel ((r.take n).reverse ++ out) (r.drop n)
        else
          match r with
          | lo :: hi :: r' =>
            let v := lo.toNat + 256 * hi.toNat
            let n := t.toNat - 128 + 4
            let p := out.length
            let off := v % 4096 + 1
            let g := p - p % 32
            if 4096 ≤ v ∨ p < off ∨ g < p - off + n ∨ 4096 < p + n then none
            else expandFrom fuel (copyBack out off n ++ out) r'
          | _ => none

/-- The 4,096 bytes of a compressed stream; none where it is malformed. -/
def expand (s : List Byte) : Option (List Byte) :=
  match s with
  | f :: r => if f = 1 then expandFrom 4097 [] r else none
  | [] => none

/-- A stored block expanded by its metadata byte (R220). -/
def expandBlock (stored : List Byte) (md : Nat) : Option (List Byte) :=
  if md = 0 then some stored
  else if md ≤ 0x1F then expand (stored.take (128 * md))
  else if md = 0xFF then some (List.replicate 4096 0)
  else none

/-- What the controller stores for a block without poison: metadata byte and bytes (R223). -/
def storeBlock (b : List Byte) : Nat × List Byte :=
  if b.all (· == 0) then (0xFF, [])
  else
    let st := Config.compress b
    let k := (st.length + 127) / 128
    let padded := st ++ List.replicate (128 * k - st.length) 0
    if 1 ≤ k ∧ k ≤ 31 ∧ expand padded = some b then (k, padded) else (0, b)

/-! ## Cache keys -/

/-- Key of a cached copy: twice the sector number, plus 1 for a copy held through a COMP mapping. -/
def ckey (comp : Bool) (sec : Nat) : Nat := 2 * sec + (if comp then 1 else 0)

/-- COMP is honoured only for HBM (R217, R220). -/
def effComp (comp : Bool) (sec : Nat) : Bool := comp && inHbm (sec * 128)

/-! ## Metadata (R220, R224) -/

/-- Offset of a physical address in its stack, and the physical address of an offset in a stack (R337). -/
def stackOffset (pa : Nat) : Nat := pa / 2 ^ 20 * 2 ^ 16 + pa % 2 ^ 16
def stackAddr (k x : Nat) : Nat := x / 2 ^ 16 * 2 ^ 20 + k * 2 ^ 16 + x % 2 ^ 16

/-- Physical address of a block's metadata byte: in the metadata region of its stack, in the order of the stack's blocks. -/
def metaAddr (block : Nat) : Nat :=
  let k := stackOf (block * 4096)
  stackAddr k (Config.metaBase k + stackOffset (block * 4096) / 4096)

/-- The metadata byte of a block at the memory side: in a copy of its sector there, else in DRAM. -/
def Mem.metaOf (m : Mem) (block : Nat) : Byte :=
  let a := metaAddr block
  match spGet none m.msc (ckey false (a / 128)) with
  | some c => c.data.extractLsb' (8 * (a % 128)) 8
  | none => spGet 0 m.dram a

def Mem.setMeta (m : Mem) (block : Nat) (b : Byte) : Mem :=
  let a := metaAddr block
  match spGet none m.msc (ckey false (a / 128)) with
  | some c => { m with msc := spSet none m.msc (ckey false (a / 128)) (some { c with data := mergeRow c.data (placeBytes (a % 128) [b]) (byteMask (a % 128) 1), dirty := true }) }
  | none => { m with dram := spSet 0 m.dram a b }

/-! ## DRAM -/

/-- A sector of a block that reads well is poisoned: on its own where the block is uncompressed, with the whole block where
its stream lies in a poisoned sector (R226; log 53). -/
def Mem.blockPoison (m : Mem) (sec md : Nat) : Bool :=
  if md = 0 then spGet false m.poison sec
  else if md ≤ 0x1F then (List.range md).any fun i => spGet false m.poison (sec / 32 * 32 + i)
  else false

/-- A sector as DRAM gives it: its bytes and whether it is poisoned. -/
def Mem.dramRead (m : Mem) (comp : Bool) (sec : Nat) : Row × Bool :=
  if !present (sec * 128) then (0, true)
  else if comp then
    let md := (m.metaOf (sec / 32)).toNat
    match expandBlock (cellsRead m.dram (sec / 32 * 4096) 4096) md with
    | some b => (rowOf ((b.drop (sec % 32 * 128)).take 128), m.blockPoison sec md)
    | none => (0, true)
  else (rowOf (cellsRead m.dram (sec * 128) 128), spGet false m.poison sec)

/-- A sector written to DRAM. Through COMP it is merged with its block, which is stored again (R223). -/
def Mem.dramWrite (m : Mem) (comp : Bool) (sec : Nat) (data : Row) (poison : Bool) : Mem :=
  if !present (sec * 128) then m
  else if comp then
    let base := sec / 32 * 32
    let md := (m.metaOf (sec / 32)).toNat
    let old := expandBlock (cellsRead m.dram (base * 128) 4096) md
    let block := patch (old.getD (List.replicate 4096 0)) (sec % 32 * 128) (rowBytes data)
    let poi (k : Nat) : Bool := if k = sec then poison else old.isNone || m.blockPoison k md
    let secs := (List.range 32).map (base + ·)
    let pmap := secs.foldl (fun p k => spSet false p k (poi k)) m.poison
    let (md', bytes) := if secs.any poi then (0, block) else storeBlock block
    { m with dram := cellsWrite m.dram (base * 128) bytes, poison := pmap }.setMeta (sec / 32) (BitVec.ofNat 8 md')
  else
    { m with
      dram := cellsWrite m.dram (sec * 128) (rowBytes data)
      poison := spSet false m.poison sec poison }

/-! ## The memory-side cache (R215, R216) -/

/-- Bytes as they lie at the home, with no bin applied: way masks are read so. -/
def copyOrDram (m : Mem) (sec : Nat) : Row :=
  match spGet none m.l2 (ckey false sec) with
  | some c => c.data
  | none => match spGet none m.msc (ckey false sec) with
    | some c => c.data
    | none => (m.dramRead false sec).1

/-- A device's way mask at an offset of its record: 44 read, 46 write, 48 update, 50 weight-stream (R216, R404). -/
def Mem.wayMask (m : Mem) (dev off : Nat) : Nat :=
  let a := Config.vdevTable + 128 * dev + off
  bytesNat ((rowBytes (copyOrDram m (a / 128)) ++ rowBytes (copyOrDram m (a / 128 + 1))).drop (a % 128) |>.take 2)

/-- Lines that one way of a stack's memory-side cache holds (R215, R315). -/
def linesPerWay : Nat := 8192

/-- Lines of a stack's way that hold sectors. -/
def Mem.wayLines (m : Mem) (stack way : Nat) : List Nat :=
  ((m.msc.filter fun e => stackOf (e.1 / 2 * 128) == stack && (match e.2 with
    | some k => k.way == way
    | none => false)).map fun e => e.1 / 8).eraseDups

/-- Lines in the order of their last use, the latest first, after one more use; `here` says that the line is in the cache. A
line put in at the eviction end stands last, and one used so stays where it is (R211, R215). -/
def putLine (late here : Bool) (l : List Nat) (line : Nat) : List Nat :=
  if late && here then l else if late then l.filter (· != line) ++ [line] else line :: l.filter (· != line)

/-- The line among some that was used last the longest ago. -/
def oldestOf (use lines : List Nat) : Nat := (use.reverse.find? lines.contains).getD (lines.headD 0)

/-- The lines that a cache holds sectors of. -/
def linesOf (c : Sp (Option Sector)) : List Nat := (c.map fun e => e.1 / 8).eraseDups

/-- Lines in use in a way: those with sectors, and bins. -/
def Mem.wayUse (m : Mem) (stack way : Nat) : Nat :=
  (m.wayLines stack way).length + (m.bins.filter fun b => b.way == way && stackOf (b.line * 512) == stack).length

/-- The ways a mask enables, lowest first. -/
def waysOf (mask : Nat) : List Nat := (List.range 16).filter fun k => mask / 2 ^ k % 2 == 1

/-- A sector of the memory-side cache leaves; a dirty one goes to DRAM (R215, R223). -/
def evictMsc (m : Mem) (key : Nat) : Mem :=
  match spGet none m.msc key with
  | some k =>
    let m := { m with msc := spSet none m.msc key none }
    if k.dirty then m.dramWrite (key % 2 == 1) (key / 2) k.data k.poison else m
  | none => m

/-- Every sector of a line leaves the memory-side cache. -/
def Mem.dropMscLine (m : Mem) (line : Nat) : Mem :=
  let m := ((m.msc.map Prod.fst).filter fun k => k / 8 == line).foldl evictMsc m
  { m with mscUse := m.mscUse.filter (· != line) }

/-- A way among those of a mask with room for a line, made where there is none: the line used least recently within the mask
leaves (R215); none where the mask is empty, or bins fill its ways. -/
def Mem.roomFor (m : Mem) (sec mask : Nat) : Mem × Option Nat :=
  let st := stackOf (sec * 128)
  let line := sec / 4
  let ways := waysOf mask
  match (ways.find? fun w => (m.wayLines st w).contains line), ways.find? fun w => decide (m.wayUse st w < linesPerWay) with
  | some w, _ => (m, some w)
  | none, some w => (m, some w)
  | none, none =>
    let gone := oldestOf m.mscUse (ways.flatMap (m.wayLines st))
    match ways.find? fun w => (m.wayLines st w).contains gone with
    | some w => (m.dropMscLine gone, some w)
    | none => (m, none)

/-- Allocate a sector in the memory-side cache in the ways of a mask; none where it passes through (R216). -/
def Mem.mscPut (m : Mem) (key mask : Nat) (k : Sector) : Option Mem :=
  if !inHbm (key / 2 * 128) then none
  else match m.roomFor (key / 2) mask with
    | (m, some w) => some { m with
        msc := spSet none m.msc key (some { k with way := w })
        mscUse := putLine k.late ((linesOf m.msc).contains (key / 8)) m.mscUse (key / 8) }
    | (_, none) => none

/-! ## The memory side and the home -/

/-- Who writes: the device, whether the page's policy lets the die L2 allocate, and whether it puts lines in at the eviction
end (R211). -/
structure Req where
  dev : Nat
  alloc : Bool
  late : Bool
  deriving DecidableEq, Repr

/-- A sector below the die L2: the memory-side cache, else DRAM (R215). -/
def Mem.sideRead (m : Mem) (comp : Bool) (sec : Nat) : Row × Bool :=
  match spGet none m.msc (ckey comp sec) with
  | some c => (c.data, c.poison)
  | none => m.dramRead comp sec

/-- A write that reaches the memory side: into the copy there, allocated in the write-class ways of the device, or DRAM
where these are none (R215, R216). -/
def Mem.sideWrite (m : Mem) (dev : Nat) (late comp : Bool) (sec : Nat) (data : Row) (poison : Bool) : Mem :=
  match spGet none m.msc (ckey comp sec) with
  | some c =>
    { m with
      msc := spSet none m.msc (ckey comp sec) (some { c with data := data, poison := poison, dirty := true })
      mscUse := putLine late true m.mscUse (sec / 4) }
  | none => (m.mscPut (ckey comp sec) (m.wayMask dev 46) ⟨data, true, 0, poison, dev, 0, late⟩).getD (m.dramWrite comp sec data poison)

/-- A sector at its home: the home slice, else the memory side (R213, R235). -/
def Mem.homeRead (m : Mem) (comp : Bool) (sec : Nat) : Row × Bool :=
  match spGet none m.l2 (ckey comp sec) with
  | some c => (c.data, c.poison)
  | none => m.sideRead comp sec

/-- Home counter of a die (R300). -/
def Mem.hcOf (m : Mem) (die : Nat) : Nat := spGet 0 m.hc die

/-- A dirty sector of the die L2 goes to the memory side (R213). -/
def evictL2 (m : Mem) (key : Nat) : Mem :=
  match spGet none m.l2 key with
  | some k =>
    let m := { m with l2 := spSet none m.l2 key none }
    if k.dirty then m.sideWrite k.dev k.late (key % 2 == 1) (key / 2) k.data k.poison else m
  | none => m

/-! ## The die L2 (R213) -/

/-- Lines that an eighth of a stacked store holds, and the eighth that holds the home slice of a line. -/
def eighthLines : Nat := 1024
def eighthOf (line : Nat) : Nat := homeDie (line * 512) * 2048 + Config.homeSlice line

/-- The home slice of a line lies in an eighth that is scratchpad. -/
def Mem.padded (m : Mem) (line : Nat) : Bool := !m.pads.isEmpty && m.pads.contains (eighthOf line)

/-- A line put into the die L2 has room in its eighth: where it is full, the line used least recently there leaves (log 21). -/
def Mem.l2Room (m : Mem) (line : Nat) : Mem :=
  let held := linesOf m.l2
  if decide (held.length < eighthLines) || held.contains line then m
  else
    let near := held.filter fun k => eighthOf k == eighthOf line
    if near.length < eighthLines then m
    else
      let gone := oldestOf m.l2Use near
      let m := ((m.l2.map Prod.fst).filter fun k => k / 8 == gone).foldl evictL2 m
      { m with l2Use := m.l2Use.filter (· != gone) }

/-- A sector stands in the die L2: a line used there. -/
def Mem.l2Set (m : Mem) (key : Nat) (k : Sector) : Mem :=
  { m with
    l2 := spSet none m.l2 key (some k)
    l2Use := putLine k.late ((linesOf m.l2).contains (key / 8)) m.l2Use (key / 8) }

/-- A sector allocated in the die L2; none where its home slice is scratchpad (R213). -/
def Mem.l2Put (m : Mem) (key : Nat) (k : Sector) : Option Mem :=
  if m.padded (key / 8) then none else some ((m.l2Room (key / 8)).l2Set key k)

/-- One write applied at the home of a sector: the bits of `mask` take those of `val`; only a write of all 128 bytes
clears poison; the home counter rises by 1 (R213, R226, R300). The home slice allocates the sector where the page's policy
has it (R211). A write in no range is discarded (R206). While the store layer of its die is down, the memory side is the home
(R422). -/
def Mem.homeWrite (m : Mem) (r : Req) (comp : Bool) (sec : Nat) (val mask : Row) : Mem :=
  if !present (sec * 128) then m
  else
    let (old, poi) := m.homeRead comp sec
    let data := mergeRow old val mask
    let poison := poi && mask != BitVec.allOnes 1024
    let die := homeDie (sec * 128)
    let m := { m with hc := spSet 0 m.hc die (m.hcOf die + 1) }
    let m := if m.down.contains die then evictL2 m (ckey comp sec) else m
    match spGet none m.l2 (ckey comp sec) with
    | some c =>
      m.l2Set (ckey comp sec) { c with data := data, poison := poison, dirty := true, tag := m.hcOf die, dev := r.dev, late := r.late }
    | none =>
      match (if r.alloc && !m.down.contains die then m.l2Put (ckey comp sec) ⟨data, true, m.hcOf die, poison, r.dev, 0, r.late⟩ else none) with
      | some m => m
      | none => m.sideWrite r.dev r.late comp sec data poison

/-- Bytes at the home, over however many sectors they lie in, with whether any is poisoned. -/
def Mem.homeBytes (m : Mem) (comp : Bool) (a n : Nat) : List Byte × Bool :=
  let secs := (List.range (n / 128 + 2)).map (a / 128 + ·)
  let rs := secs.map (m.homeRead comp)
  let used := (List.range ((a % 128 + n + 127) / 128)).any fun k => (rs.getD k (0, false)).2
  (((rs.map fun r => rowBytes r.1).flatten.drop (a % 128)).take n, used)

/-- Write bytes at the home, one write for each sector they lie in; the fuel is how many sectors are left. -/
def Mem.homePut (m : Mem) (r : Req) (comp : Bool) (a : Nat) (b : List Byte) : Nat → Mem
  | 0 => m
  | fuel + 1 =>
    if b.isEmpty then m
    else
      let off := a % 128
      let h := b.take (128 - off)
      (m.homeWrite r comp (a / 128) (placeBytes off h) (byteMask off h.length)).homePut r comp (a + h.length)
        (b.drop (128 - off)) fuel

def Mem.homeStoreAs (m : Mem) (r : Req) (comp : Bool) (a : Nat) (b : List Byte) : Mem := m.homePut r comp a b (b.length / 128 + 2)

/-- A write of the hardware's own, as device 0. -/
def Req.own : Req := ⟨0, true, false⟩
def Mem.homeStore (m : Mem) (comp : Bool) (a : Nat) (b : List Byte) : Mem := m.homeStoreAs .own comp a b

/-- A read at the home uses the line where it finds it: in the die L2, else the memory-side cache (R215). -/
def Mem.used (m : Mem) (comp : Bool) (sec : Nat) : Mem :=
  if (spGet none m.l2 (ckey comp sec)).isSome then { m with l2Use := putLine false true m.l2Use (sec / 4) }
  else if (spGet none m.msc (ckey comp sec)).isSome then { m with mscUse := putLine false true m.mscUse (sec / 4) }
  else m

/-! ## Update bins (R305, R315, R316) -/

/-- Element size and value size of an operator (R305). -/
def oprEs (o : Nat) : Nat := if o = 3 ∨ (8 ≤ o ∧ o ≤ 10) then 8 else 4
def oprVs (o : Nat) : Nat := if o = 1 then 2 else oprEs o

/-- A pair's value as a bin entry: FADD16W values are widened (R315). -/
def widenPair (o v : Nat) : Nat := if o = 1 then v * 2 ^ 16 else v

/-- combine(m, v) of R305 on the codes of an element and an entry. -/
def combine (o m v : Nat) : Nat :=
  match o with
  | 0 | 1 => roundF 0 0 ((decF 0 m).add 0 (decF 0 v))
  | 2 => (m + v) % 2 ^ 32
  | 3 => (m + v) % 2 ^ 64
  | 4 => if signed 32 m ≤ signed 32 v then m else v
  | 5 => if signed 32 m ≤ signed 32 v then v else m
  | 6 => min m v
  | 7 => max m v
  | 8 => m ||| v
  | 9 => m &&& v
  | _ => m ^^^ v

/-- The sectors of a line leave the die L2, dirty ones written back. -/
def Mem.dropL2Line (m : Mem) (line : Nat) : Mem := ((m.l2.map Prod.fst).filter fun k => k / 8 == line).foldl evictL2 m

/-- Bytes replaced below the die L2: in the copy that the memory-side cache holds, else in DRAM. -/
def Mem.sidePatch (m : Mem) (a : Nat) (b : List Byte) : Mem :=
  let sec := a / 128
  let data := mergeRow (m.sideRead false sec).1 (placeBytes (a % 128) b) (byteMask (a % 128) b.length)
  match spGet none m.msc (ckey false sec) with
  | some c => { m with msc := spSet none m.msc (ckey false sec) (some { c with data := data, dirty := true }) }
  | none => m.dramWrite false sec data (m.sideRead false sec).2

/-- Apply one entry of a bin at the memory side: whole and once, or discarded at a poisoned sector (R316, R317). A copy of its
line above, held through a page without UPD, goes first (log 26). -/
def applyEntry (b : Bin) (m : Mem) (e : Nat × Option Word) : Mem :=
  match e.2 with
  | none => m
  | some v =>
    let es := oprEs b.opr
    let m := m.dropL2Line (e.1 / 512)
    let (row, poi) := m.sideRead false (e.1 / 128)
    let old := bytesNat (((rowBytes row).drop (e.1 % 128)).take es)
    if poi then { m with pairPoison := m.pairPoison ++ (b.owners.filter (·.1 == e.1)).map (·.2) }
    else m.sidePatch e.1 (natBytes (combine b.opr old v.toNat) es)

/-- Apply a bin to its line. -/
def applyBin (m : Mem) (b : Bin) : Mem := b.entries.foldl (applyEntry b) { m with bins := m.bins.filter (· != b) }

/-- Apply the bins that a test picks; also the pairs they held. -/
def Mem.applyBins (m : Mem) (p : Bin → Bool) : Mem × Nat :=
  let bs := m.bins.filter p
  (bs.foldl applyBin m, (bs.map (·.pairs)).foldl (· + ·) 0)

/-- An access to n bytes reaches their lines: their bins are applied first (R316). -/
def Mem.touch (m : Mem) (a n : Nat) : Mem :=
  if m.bins.isEmpty then m
  else (m.applyBins fun b => decide (a / 512 ≤ b.line) && decide (b.line ≤ (a + n - 1) / 512)).1

/-- A read at the home by any requester. -/
def Mem.load (m : Mem) (comp : Bool) (a n : Nat) : Mem × List Byte × Bool :=
  let m := m.touch a n
  ((List.range ((a % 128 + n + 127) / 128)).foldl (fun m k => m.used comp (a / 128 + k)) m, m.homeBytes comp a n)

/-- A write at the home by any requester. -/
def Mem.storeAs (m : Mem) (r : Req) (comp : Bool) (a : Nat) (b : List Byte) : Mem := (m.touch a b.length).homeStoreAs r comp a b
def Mem.store (m : Mem) (comp : Bool) (a : Nat) (b : List Byte) : Mem := m.storeAs .own comp a b

/-- An unsigned number at the home, uncompressed: tables read by the hardware. -/
def Mem.num (m : Mem) (a n : Nat) : Nat := bytesNat (m.load false a n).2.1

/-! ## Copies of the followed core and its die -/

/-- Drop the copies of a sector in L1 and the RDC (R235, R245). -/
def Mem.dropCore (m : Mem) (comp : Bool) (sec : Nat) : Mem :=
  { m with
    l1 := spSet none m.l1 (ckey comp sec) none
    rdc := spSet none m.rdc (ckey comp sec) none }

/-- A copy that no longer holds what its reader has now read goes (R293). -/
def dropIfOld (c : Sp (Option Sector)) (key : Nat) (data : Row) (poison : Bool) : Sp (Option Sector) :=
  match spGet none c key with
  | some k => if k.data = data ∧ k.poison = poison then c else spSet none c key none
  | none => c

/-- A read at the home found this: older copies in L1, the instruction cache and the RDC go (R293). -/
def Mem.dropStale (m : Mem) (comp : Bool) (sec : Nat) : Mem :=
  let (data, poison) := m.homeRead comp sec
  let key := ckey comp sec
  { m with l1 := dropIfOld m.l1 key data poison, icache := dropIfOld m.icache key data poison, rdc := dropIfOld m.rdc key data poison }

/-- A read at the RDC uses the line there, and older copies in L1 and the instruction cache go (R293). -/
def Mem.rdcRead (m : Mem) (comp : Bool) (sec : Nat) : Mem :=
  let key := ckey comp sec
  match spGet none m.rdc key with
  | some k =>
    { m with
      l1 := dropIfOld m.l1 key k.data k.poison
      icache := dropIfOld m.icache key k.data k.poison
      rdcUse := putLine false true m.rdcUse (sec / 4) }
  | none => m

/-- An acquire of scope QUAD or wider empties L1 (R157, R212), and the instruction cache (log 54). -/
def Mem.emptyL1 (m : Mem) : Mem := { m with l1 := [], icache := [] }

/-- A write updates the copies that this core's L1 and this die's RDC hold (R212, R214). -/
def updCopy (c : Sp (Option Sector)) (key : Nat) (val mask : Row) : Sp (Option Sector) :=
  match spGet none c key with
  | some k => spSet none c key (some { k with data := mergeRow k.data val mask, poison := k.poison && mask != BitVec.allOnes 1024 })
  | none => c

def Mem.l1Copies (m : Mem) (comp : Bool) (sec : Nat) (val mask : Row) : Mem :=
  { m with
    l1 := updCopy m.l1 (ckey comp sec) val mask
    icache := updCopy m.icache (ckey comp sec) val mask }
def Mem.rdcCopy (m : Mem) (comp : Bool) (sec : Nat) (val mask : Row) : Mem :=
  { m with rdc := updCopy m.rdc (ckey comp sec) val mask }

/-- Lines of 512 bytes that L1, the instruction cache and the RDC hold (R10, R19, R210). -/
def l1Lines : Nat := 512
def icacheLines : Nat := 2048
def rdcLines : Nat := 262144

/-- A sector put into the RDC; where there is no room, the line used least recently leaves (log 21). -/
def Mem.rdcPut (m : Mem) (key : Nat) (k : Sector) : Mem :=
  let held := linesOf m.rdc
  let gone := oldestOf m.rdcUse held
  let full := !held.contains (key / 8) && decide (rdcLines ≤ held.length)
  { m with
    rdc := spSet none (if full then m.rdc.filter fun e => e.1 / 8 != gone else m.rdc) key (some k)
    rdcUse := putLine k.late (held.contains (key / 8)) (if full then m.rdcUse.filter (· != gone) else m.rdcUse) (key / 8) }

/-- A sector put into a cache of so many lines; where there is no room another line leaves (which is log 21). -/
def cachePut (lines : Nat) (c : Sp (Option Sector)) (key : Nat) (k : Sector) : Sp (Option Sector) :=
  let held := (c.map fun e => e.1 / 8).eraseDups
  let room := if held.contains (key / 8) ∨ held.length < lines then c else c.filter fun e => e.1 / 8 != held.headD 0
  spSet none room key (some k)

/-- Entry of a die clock (R300); `vc` holds die·9 + home. -/
def Mem.vcOf (m : Mem) (die home : Nat) : Nat := spGet 0 m.vc (die * 9 + home)
def Mem.raiseVc (m : Mem) (die home n : Nat) : Mem :=
  { m with vc := spSet 0 m.vc (die * 9 + home) (max (m.vcOf die home) n) }

/-! ## Scratchpads. A scratchpad key is a byte's offset in the quad window, rank · 2²⁶ + offset. -/

def qbase : Nat := 0xFFFFFF0000000
def qsize : Nat := 0x10000000

/-- The virtual address lies in the quad window (R207). -/
def inWindow (va : Nat) : Bool := decide (qbase ≤ va) && decide (va < qbase + qsize)

def Quad.splitOf (q : Quad) (rank : Nat) : Word := spGet 0 q.split rank

/-- BANK field of a SPLIT value (R111). -/
def bankField (split : Word) (bank : Nat) : Nat := split.toNat / 16 ^ bank % 16

/-- The byte of this key lies in its owner's scratchpad range (R208). -/
def Quad.inRange (q : Quad) (key : Nat) : Bool :=
  let o := key % 2 ^ 26
  decide (o / 2 ^ 19 % 8 < bankField (q.splitOf (key / 2 ^ 26)) (o / 2 ^ 22))

/-- The byte lies in an eighth marked pending (R219). -/
def Quad.isPending (q : Quad) (key : Nat) : Bool := spGet false q.pending (key / 2 ^ 19)

def Quad.read (q : Quad) (key n : Nat) : List Byte := cellsRead q.sp key n
def Quad.poisoned (q : Quad) (key n : Nat) : Bool :=
  (List.range ((key % 128 + n + 127) / 128)).any fun k => spGet false q.spPoison (key / 128 + k)

/-- One write of bytes; sectors it covers whole lose their poison (R226). -/
def Quad.write (q : Quad) (key : Nat) (b : List Byte) : Quad :=
  let first := (key + 127) / 128
  let secs := (List.range ((key + b.length) / 128 - first)).map (first + ·)
  { q with
    sp := cellsWrite q.sp key b
    spPoison := secs.foldl (fun p k => spSet false p k false) q.spPoison }

/-- Write the bytes of a row whose mask bits are set: a masked push (R108). -/
def Quad.writeMasked (q : Quad) (key : Nat) (val mask : Row) : Quad :=
  if mask = BitVec.allOnes 1024 ∧ key % 128 = 0 then q.write key (rowBytes val)
  else
    let put (q : List Host.Cell) (i : Nat) : List Host.Cell :=
      let mb := mask.extractLsb' (8 * i) 8
      if mb = 0 then q
      else spSet 0 q (key + i) ((spGet 0 q (key + i) &&& ~~~mb) ||| (val.extractLsb' (8 * i) 8 &&& mb))
    { q with sp := (List.range 128).foldl put q.sp }

end Sys2Proof.Machine
end

