-- ==== Sys2Proof/Machine/Ops.lean ====
section
/-! DEFINITION. The operations that every slot shares: reading and writing registers under rotation (R33, R100 to R104),
exposed writes and the pending write table (R63 to R69), the kill of a context (R372, R373), taking an exception (R369)
and returning from one (R371), and the checks before an instruction has its effect (R31, R48, R61). -/

namespace Sys2Proof.Machine

abbrev Out := Host.Outcome State Fault Refusal

/-! ## Reading and changing the state -/

/-- The machine as the slots of the bundle read it: as it stood when the issue began (R48). -/
def State.rd (s : State) : Mach := s.snap.getD s.cur

def State.setCur (s : State) (f : Mach → Mach) : State := { s with cur := f s.cur }
def State.setCore (s : State) (f : Core → Core) : State := { s with cur := { s.cur with core := f s.cur.core } }
def State.setMem (s : State) (f : Mem → Mem) : State := { s with cur := { s.cur with mem := f s.cur.mem } }
def State.setOas (s : State) (f : Oasis → Oasis) : State := { s with cur := { s.cur with oas := f s.cur.oas } }
def State.setDisp (s : State) (f : Disp → Disp) : State := { s with cur := { s.cur with disp := f s.cur.disp } }

/-- Count one free value as taken (log 1). -/
def State.used (s : State) : State := { s with freeIdx := s.freeIdx + 1 }

/-! ## Registers -/

/-- Open levels, innermost first; at trap levels they are suspended (R370). -/
def Core.openLoops (c : Core) : List LoopEnt := if c.tlevel = 0 then c.loops else []

def Core.sumBase (c : Core) (f : LoopEnt → Nat) : Nat := ((c.openLoops.map f).foldl (· + ·) 0) % 32

/-- Register n under rotation base b (R33). -/
def rotate (b n : Nat) : Nat := if n < 32 then n else 32 + (n - 32 + b) % 32

/-- Physical numbers of an s, v and w register (R33). -/
def Core.physS (c : Core) (n : Nat) : Nat := rotate (c.sumBase (·.baseS)) n
def Core.physV (c : Core) (n : Nat) : Nat := rotate (c.sumBase (·.baseV)) n
def Core.physW (c : Core) (n : Nat) : Nat := rotate (c.sumBase (·.baseW)) n
def Core.physTile (c : Core) (w : Bool) (n : Nat) : Nat := if w then c.physW n else c.physV n

/-- The value of an S register; s0 reads as zero (R100). -/
def Core.readS (c : Core) (n : BitVec 6) : Word := if n = 0 then 0 else spGet 0 c.s (c.physS n.toNat)

/-- Write an S register by physical number: its fault mark goes (R231), and a token with a nonzero status that it held
and nothing has read can never be read (R41). -/
def Core.putS (c : Core) (phys : Nat) (val : Word) : Core :=
  if phys = 0 then c
  else
    { c with
      s := spSet 0 c.s phys val
      marks := spSet none c.marks phys none
      unread := c.unread.filter (· != phys)
      engFault := c.engFault || c.unread.contains phys }

/-- A row of a v or w register, by physical register and row (R101). -/
def Core.tile (c : Core) (w : Bool) : Sp Row := if w then c.w else c.v
def Core.tileRow (c : Core) (w : Bool) (phys row : Nat) : Row := spGet 0 (c.tile w) (phys * 256 + row % 256)
def Core.putTile (c : Core) (w : Bool) (phys row : Nat) (val mask : Row) : Core :=
  let k := phys * 256 + row % 256
  let r := mergeRow (spGet 0 (c.tile w) k) val mask
  if w then { c with w := spSet 0 c.w k r } else { c with v := spSet 0 c.v k r }

/-- The row counter of a vector file (R101). -/
def Core.rowCtr (c : Core) (w : Bool) : Nat := if w then c.wrow.toNat else c.vrow.toNat

/-- Row j of an x register (R102). -/
def Core.xRow (c : Core) (reg j : Nat) : Row := spGet 0 c.x (reg * 8 + j)

/-- A lane-mask register; all ones at entry (R103, R114). -/
def laneOnes : Lanes := BitVec.allOnes 128
def Core.lanes (c : Core) (wm : Bool) (reg : Nat) : Lanes := if wm then spGet laneOnes c.wm reg else spGet laneOnes c.vm reg

/-- Field f of shape register r, copy b (R104). -/
def shapeKey (dq copy : Bool) (reg field : Nat) : Nat := (if dq then 64 else 0) + (if copy then 32 else 0) + reg * 8 + field
def Core.shapeField (c : Core) (dq copy : Bool) (reg field : Nat) : BitVec 32 := spGet 0 c.shape (shapeKey dq copy reg field)

/-- The eight fields of a live shape register. -/
def Core.liveShape (c : Core) (dq : Bool) (reg : Nat) : List (BitVec 32) :=
  (List.range 8).map (c.shapeField dq (if dq then c.dqLive else c.mqLive) reg)

/-- A stage predicate (R31, R49, R370). -/
def Core.pred (c : Core) (n : Nat) : Bool :=
  match c.openLoops with
  | [] => true
  | l :: _ => n == 0 || l.preds.getLsbD n

/-- Rank in the quad, and die (R11, R25). -/
def Core.rank (c : Core) : Nat := c.num % 4
def Core.die (c : Core) : Nat := c.num / 16

/-- Privileged (R363). -/
def Core.priv (c : Core) : Bool :=
  decide (c.tlevel ≠ 0) || (c.sysq && (match c.kernel with | some k => k.priv | none => false))

/-- Code range of the running level: base and length (R47, R364). -/
def Core.range (c : Core) : Nat × Nat :=
  if c.tlevel = 0 then
    match c.kernel with
    | some k => (k.base.toNat, k.len)
    | none => (0, 0)
  else (c.thandler.toNat, c.thsize.toNat)

/-! ## Exposed writes (R63 to R69) -/

/-- Classes in header order (R65, R374): A1, SM, VA, VR, XF, LS, XC, MP. -/
def clsA1 : Nat := 0
def clsSM : Nat := 1
def clsVA : Nat := 2
def clsVR : Nat := 3
def clsXF : Nat := 4
def clsLS : Nat := 5
def clsXC : Nat := 6
def clsMP : Nat := 7

/-- Kilbin's latencies (R64). -/
def kilbinLat : List Nat := [1, 3, 4, 8, 14, 6, 2, 1]

/-- Declared latency of a class; the kernel's header holds at every level (log 23). -/
def Core.latency (c : Core) (cls : Nat) : Nat :=
  match c.kernel with
  | some k => k.lat.getD cls 1
  | none => kilbinLat.getD cls 1

/-- A load that touches some bytes is not performed again (R157, R294); nor is any. -/
def Result.settleIn (pad : Bool) (a n : Nat) (r : Result) : Result :=
  match r.again with
  | some o => if o.pad = pad ∧ o.pa < a + n ∧ a < o.pa + o.size then { r with again := none } else r
  | none => r
def Result.settle (r : Result) : Result := { r with again := none }

/-- The write of a bound destination (R67, R105, R108). -/
def landWrite (m : Mach) (w : Write) : Mach :=
  match w.dst with
  | .s p => { m with core := m.core.putS p (w.val.setWidth 64) }
  | .tile f p row mask => { m with core := m.core.putTile f p row w.val mask }
  | .x reg row mask => { m with core := { m.core with x := spSet 0 m.core.x (reg * 8 + row) (mergeRow (m.core.xRow reg row) w.val mask) } }
  | .m reg => { m with core := { m.core with m := spSet 0 m.core.m reg (w.val.setWidth 64) } }
  | .c reg => { m with core := { m.core with c := spSet 0 m.core.c reg w.val } }
  | .lanes wm reg mask =>
    let x := (m.core.lanes wm reg &&& ~~~mask) ||| (w.val.setWidth 128 &&& mask)
    if wm then { m with core := { m.core with wm := spSet laneOnes m.core.wm reg x } }
    else { m with core := { m.core with vm := spSet laneOnes m.core.vm reg x } }
  | .shape dq copy reg fld =>
    { m with core := { m.core with shape := spSet 0 m.core.shape (shapeKey dq copy reg fld) (w.val.setWidth 32) } }
  | .push off mask =>
    { m with
      core := { m.core with sb := m.core.sb.map (Result.settleIn true (m.core.rank * 2 ^ 26 + off) 128) }
      quad := m.quad.writeMasked (m.core.rank * 2 ^ 26 + off) w.val mask }

def landAll (m : Mach) (ws : List Write) : Mach := ws.foldl landWrite m

/-- The bank of a level (R68). -/
def Core.bank (c : Core) (lvl : Nat) : List Pending := if lvl = 0 then c.bank0 else if lvl = 1 then c.bank1 else c.bank2
def Core.setBank (c : Core) (lvl : Nat) (b : List Pending) : Core :=
  if lvl = 0 then { c with bank0 := b } else if lvl = 1 then { c with bank1 := b } else { c with bank2 := b }

/-- A cycle passes: a value that has stayed out for its class's Kilbin latency has arrived (R4, R66). -/
def Pending.pass (p : Pending) : Pending := if p.late ≤ 1 then { p with late := 0, arrived := true } else { p with late := p.late - 1 }

/-- One issue cycle of an entry: its count falls, and at zero it is overdue until its value is written (R66, R68). -/
def Pending.fall (p : Pending) : Pending :=
  if p.overdue then p else { p with count := p.count - 1, overdue := decide (p.count ≤ 1) }

/-- The entry is to be written now. -/
def Pending.due (p : Pending) : Bool := p.overdue && p.arrived

/-- Mask bits of a push at one offset that those of a push at another do not touch. -/
def pushLess (off : Nat) (mask : Row) (off' : Nat) (mask' : Row) : Row :=
  mask &&& ~~~(if off ≤ off' then mask' <<< (8 * (off' - off)) else mask' >>> (8 * (off - off')))

/-- What is left of a destination once another has been written over it; none where nothing is. -/
def Dst.less (d by_ : Dst) : Option Dst :=
  match d, by_ with
  | .s p, .s q => if p = q then none else some d
  | .m p, .m q => if p = q then none else some d
  | .c p, .c q => if p = q then none else some d
  | .tile f p r k, .tile f' p' r' k' => if f = f' ∧ p = p' ∧ r = r' then some (.tile f p r (k &&& ~~~k')) else some d
  | .x p r k, .x p' r' k' => if p = p' ∧ r = r' then some (.x p r (k &&& ~~~k')) else some d
  | .lanes f p k, .lanes f' p' k' => if f = f' ∧ p = p' then some (.lanes f p (k &&& ~~~k')) else some d
  | .shape q b r k, .shape q' b' r' k' => if q = q' ∧ b = b' ∧ r = r' ∧ k = k' then none else some d
  | .push o k, .push o' k' => some (.push o (pushLess o k o' k'))
  | _, _ => some d

/-- What is left of a bound write under the writes of another instruction. -/
def Write.under (w : Write) (l : List Write) : Option Write :=
  l.foldl (fun a x => a.bind fun w => (w.dst.less x.dst).map fun d => { w with dst := d }) (some w)

/-- The entry lands before another in the order of R67: by landing index, and the one issued later last. -/
def Pending.before (p q : Pending) : Bool := decide (p.lands < q.lands) || (p.lands == q.lands && decide (p.born < q.born))

/-- An entry still awaited when one of a later landing index has landed writes only what that left (R67). -/
def Pending.under (p q : Pending) : Pending := if p.before q then { p with writes := p.writes.filterMap (·.under q.writes) } else p

def insertOrd {α : Type} (lt : α → α → Bool) (x : α) : List α → List α
  | [] => [x]
  | y :: t => if lt x y then x :: y :: t else y :: insertOrd lt x t

def sortOrd {α : Type} (lt : α → α → Bool) (l : List α) : List α := l.foldr (insertOrd lt) []

/-- A bank without the entries that a test picks, what these have overwritten taken from the rest (R67). -/
def bankWithout (b : List Pending) (hit : Pending → Bool) : List Pending :=
  (b.filter fun p => !hit p).map fun p => (b.filter hit).foldl (·.under ·) p

/-- Write and free the entries of a bank that a test picks, in the order of their landing indices (R67). -/
def landSome (m : Mach) (lvl : Nat) (hit : Pending → Bool) : Mach :=
  let b := m.core.bank lvl
  let m' := ((sortOrd (fun p q => p.before q) (b.filter hit)).map (·.writes)).foldl landAll m
  { m' with core := m'.core.setBank lvl (bankWithout b hit) }

/-- Write and free the due entries of a bank. -/
def landDue (m : Mach) (lvl : Nat) : Mach := landSome m lvl (·.due)

/-- A cycle of the followed core passes for the entries of every bank (R66). -/
def Core.pass (c : Core) : Core :=
  { c with bank0 := c.bank0.map (·.pass), bank1 := c.bank1.map (·.pass), bank2 := c.bank2.map (·.pass) }

/-- A cycle in which nothing issues: values that must have arrived are written where their level runs (R66, R69). -/
def coreIdle (m : Mach) : Mach := landDue { m with core := m.core.pass } m.core.tlevel

/-- One issue cycle or drain cycle of the running level (R63, R68). -/
def tick (m : Mach) : Mach :=
  let lvl := m.core.tlevel
  let c := m.core.pass
  let c := c.setBank lvl ((c.bank lvl).map (·.fall))
  landDue { m with core := { c with issue := c.issue.set lvl (c.issue.getD lvl 0 + 1) } } lvl

/-- A write seen at once: what it overwrites is taken from the entries that land before it and are still out (R67). -/
def landNow (m : Mach) (e : Pending) : Mach :=
  landAll { m with core := m.core.setBank m.core.tlevel ((m.core.bank m.core.tlevel).map (·.under e)) } e.writes

/-- The number of the latest bundle to issue, counted over all levels. -/
def Core.issued (c : Core) : Nat := c.issue.foldl (· + ·) 0

/-- The lowest entry number not in use (log 11). -/
def freeSlot (b : List Pending) : Nat := ((List.range (b.length + 1)).find? fun n => b.all fun p => p.slot != n).getD b.length

/-- Issue the exposed writes of an instruction under a class: one entry of the running level's bank where the declared
or Kilbin's latency is 2 or more, with this cycle already counted; else visible to the next bundle (R63, R68). Whether
a value is late is free where the declared latency is the shorter, and it comes within Kilbin's (R66, log 15). -/
def State.expose (s : State) (cls file reg : Nat) (ws : List Write) : State :=
  let c := s.cur.core
  let l := c.latency cls
  let k := kilbinLat.getD cls 1
  let i := c.issue.getD c.tlevel 0
  let entry (late : Bool) : Pending :=
    ⟨freeSlot (c.bank c.tlevel), cls, l - 1, decide (l ≤ 1), !late, if late then k - 1 else 0, c.issued, i + l, file, reg, ws⟩
  if l ≤ 1 ∧ k ≤ 1 then s.setCur (landNow · (entry false))
  else
    let late := decide (l < k) && Config.freeBit s.freeIdx
    if l ≤ 1 ∧ !late then s.used.setCur (landNow · (entry false))
    else
      let e := entry late
      let s' := if l < k then s.used else s
      s'.setCore fun c => c.setBank c.tlevel (c.bank c.tlevel ++ [e])

/-- An exposed write of an S register; a write to s0 is discarded and takes no entry (R100). -/
def State.writeS (s : State) (cls : Nat) (n : BitVec 6) (val : Word) : State :=
  if n = 0 then s
  else
    let p := s.rd.core.physS n.toNat
    s.expose cls 0 p [⟨.s p, val.setWidth 1024⟩]

/-! ## Kill (R372, R373) -/

def le (n bytes : Nat) : List Byte := natBytes n bytes

/-- A kill record (R373). -/
def killRecord (core inst reason : Nat) (slots : List (Nat × Nat × Nat)) (cycle pend0 pend1 kstat : Nat) : List Byte :=
  le 1 4 ++ le core 2 ++ le reason 1 ++ le (slots.filter (fun t => t.1 != 0)).length 1 ++ le inst 8 ++
  (slots.map fun t => le t.1 8 ++ le t.2.1 8 ++ le t.2.2 8).flatten ++
  le cycle 8 ++ le pend0 2 ++ le pend1 2 ++ le 0 4 ++ le kstat 8 ++ le 0 16

def Disp.launch? (d : Disp) (id : Nat) : Option Launch := d.launches.find? fun l => l.id == id
def Disp.setLaunch (d : Disp) (id : Nat) (f : Launch → Launch) : Disp :=
  { d with launches := d.launches.map fun l => if l.id = id then f l else l }

/-- A kill by a core's fault in the cycle of an earlier kill, by a core with a higher number (R372). -/
def Launch.killTies (l : Launch) (core : Option Nat) (cycle : Word) : Bool := match l.killer, core with
  | some (n, t), some k => t == cycle && decide (k < n)
  | _, _ => false

/-- Kill a launch: only the first kill writes the record, through the mapping taken at acceptance; of two in one cycle the one
of the lower core number. `core` is none for a kill of the dispatcher's (R372). -/
def killLaunch (m : Mach) (id : Nat) (core : Option Nat) (record : List Byte) : Mach :=
  match m.disp.launch? id with
  | none => m
  | some l =>
    if l.killed ∧ !l.killTies core m.cycle then m
    else
      { m with
        mem := m.mem.store l.killAt.2 l.killAt.1 record
        disp := m.disp.setLaunch id fun l => { l with killed := true, killer := core.map fun n => (n, m.cycle) } }

/-- A member of a placed group runs no more; a group of which every member has gone gives up its cores. -/
def memberGone (m : Mach) (core : Nat) (oasis : Bool) : Mach :=
  let go (p : Placed) : Placed :=
    if p.oasis = oasis ∧ p.base ≤ core ∧ core < p.base + p.size ∧ !p.retired.contains core
    then { p with retired := p.retired ++ [core] } else p
  { m with disp := { m.disp with placed := (m.disp.placed.map go).filter fun p => p.retired.length != p.size } }

/-- The followed context issues nothing more; its banks are discarded, and engine work that has not started is dropped
(R372 steps 1 and 4). -/
def stopContext (c : Core) : Core :=
  { c with
    status := .idle, bank0 := [], bank1 := [], bank2 := [], sb := [], loops := [], empties := 0, endDue := false,
    xfer := none, jump := none, skipTo := none, lexit := false, tlevel := 0, atPoint := false, binit := none,
    eng := c.eng.filter (·.started) }

/-- The kill of the followed context by its own fault (R369, R372). -/
def killContext (m : Mach) (cause epc tval : Word) : Mach :=
  let c := m.core
  let t (r : TrapRegs) : Nat × Nat × Nat := (r.cause.toNat, r.epc.toNat, r.val.toNat)
  let last := (cause.toNat, epc.toNat, tval.toNat)
  let none3 : Nat × Nat × Nat := (0, 0, 0)
  let slots := if c.tlevel = 0 then [none3, none3, last] else [t c.trap1, t c.trap2, last]
  let record := killRecord c.num c.inst (if c.tlevel = 0 then 1 else 0) slots m.cycle.toNat c.bank0.length c.bank1.length
    c.kstat.toNat
  let m := memberGone (killLaunch m c.launch (some c.num) record) c.num false
  { m with core := stopContext m.core }

/-! ## Taking an exception and returning from one (R369, R371) -/

/-- Layout of TCAUSE (R366). -/
def causeWord (from_ : Nat) (async : Bool) (cause : Nat) : Word :=
  BitVec.ofNat 64 (from_ * 512 + (if async then 256 else 0) + cause)

/-- Trap entry, or the kill where there is no level to enter (R369). A point of pre-emption before the bundle that trapped
lasts until that bundle has issued (R35, R370). What the bundle waited for in the walk pool is waited for no more. -/
def enterTrap (m : Mach) (cause : Nat) (tval epc : Word) (async : Bool) : Mach :=
  let c := m.core
  let w := causeWord c.tlevel async cause
  let m := { m with pool := [] }
  if c.tlevel = 2 ∨ (c.tlevel = 0 ∧ c.thandler = 0) then killContext m w epc tval
  else
    let c := { c with
      marks := [], pc := c.thandler, xfer := some 0, jump := none, skipTo := none, empties := 0, endDue := false,
      lexit := false }
    if c.tlevel = 0 then { m with core := { c with trap1 := { c.trap1 with cause := w, epc := epc, val := tval }, tlevel := 1 } }
    else { m with core := { c with trap2 := { c.trap2 with cause := w, epc := epc, val := tval }, tlevel := 2 } }

/-- A precise fault: the bundle has no effect (R61, R368). -/
def State.raise (s : State) (cause : Nat) (tval : Word) : State :=
  { s with cur := enterTrap s.rd cause tval s.rd.core.pc false, verdict := .done }

/-- The return from the current level: overdue values that came meanwhile are written before the first resumed bundle
(R69, R371). -/
def leaveTrap (m : Mach) (target : Word) : Mach :=
  let c := m.core
  let lvl := c.tlevel - 1
  landDue { m with core := { c with tlevel := lvl, pc := target, xfer := none, jump := none } } lvl

/-! ## Before an instruction has its effect (R31, R61) -/

/-- The slot an instruction stands in, as WHERE gives it; the common block stands where the bundle says (R62). -/
def whereOf (c : Core) (i : Instr) : Nat :=
  match view i with
  | .sR .common _ _ | .sI _ _ _ | .sLI _ _ _ => c.slot
  | _ => match slotOf i with
    | some k => k.index
    | none => 0

/-- TVAL of an encoding fault (R62). -/
def encTval (c : Core) (i : Instr) : Word :=
  let w := encodeWord i
  let word := match slotOf i with
    | some k => if k.narrow then w.toNat % 2 ^ 32 else w.toNat / 2 ^ 32
    | none => w.toNat % 2 ^ 32
  BitVec.ofNat 64 (whereOf c i * 2 ^ 60 + word)

/-- Physical number of a register as a source or destination names it. -/
def Core.physRef (c : Core) (r : Ref) : Ref :=
  match r.1 with
  | 0 => (0, c.physS r.2)
  | 1 => (1, c.physV r.2)
  | 2 => (2, c.physW r.2)
  | _ => r

/-- An S register awaits a scoreboarded result or a token (R64, R100). -/
def Core.awaits (c : Core) (phys : Nat) : Bool :=
  c.sb.any (·.reg == phys) || c.eng.any (fun e => e.tok == phys && phys != 0)

/-- The register that a bound write goes to, as R374 numbers files and registers; none for a push. -/
def Dst.ref : Dst → Option Ref
  | .s p => some (0, p)
  | .tile w p _ _ => some (if w then 2 else 1, p)
  | .x r _ _ => some (3, r)
  | .m r => some (4, r)
  | .c r => some (5, r)
  | .lanes w r _ => some (if w then 7 else 6, r)
  | .shape dq copy r _ => some (8, (if dq then 8 else 0) + (if copy then 4 else 0) + r)
  | .push _ _ => none

/-- A register is among an entry's destinations (R167). -/
def Pending.names (e : Pending) (r : Ref) : Bool := (e.file != 9 && r == (e.file, e.reg)) || e.writes.any (·.dst.ref == some r)

/-- A register is not ready: pending, or a destination of an overdue entry of the running level (R66). -/
def Core.unready (c : Core) (r : Ref) : Bool :=
  let p := c.physRef r
  (p.1 == 0 && c.awaits p.2) || (c.bank c.tlevel).any fun e => e.overdue && e.names p

/-- Bytes of the quad window are among the destinations of an entry that a test picks: a port push not yet landed. -/
def Core.pushOver (c : Core) (hit : Pending → Bool) (key n : Nat) : Bool :=
  (c.bank c.tlevel).any fun e => hit e && e.writes.any fun w => match w.dst with
    | .push off mask =>
      let a := c.rank * 2 ^ 26 + off
      decide (a < key + n) && decide (key < a + 128) &&
        (List.range 128).any fun i => decide (key ≤ a + i) && decide (a + i < key + n) && mask.extractLsb' (8 * i) 8 != 0
    | _ => false

/-- An access to scratchpad bytes waits for an overdue push of them (R66). -/
def Core.padOverdue (c : Core) (key n : Nat) : Bool := c.pushOver (·.overdue) key n

/-- The loop record of a kernel that LOOP names, if it is temporal (R21, R30). -/
def Core.loopRec (c : Core) (level : Nat) : Option LoopRec :=
  (match c.kernel with | some k => k.loops | none => []).find? fun r : LoopRec => r.level == level && r.kind == 0

/-- Registers an instruction reads: those it names, and the trip register of a LOOP whose record takes one (R30). -/
def Core.reads (c : Core) (i : Instr) : List Ref :=
  readsOf i ++ match i with
    | .loop f => match c.loopRec f.rb.toNat with
      | some r => if r.tripSrc = 1 ∧ c.tlevel = 0 then sRef (BitVec.ofNat 6 r.tripVal) else []
      | none => []
    | _ => []

/-- A port a select names (R55). -/
def selPort (used : Bool) (s : BitVec 8) : List Nat := if used ∧ 64 ≤ s.toNat ∧ s.toNat < 72 then [s.toNat - 64] else []

/-- Ports a V instruction pops, in field order. -/
def popsOf (op : Nat) (f : FV) : List Nat :=
  let (_, a, b, c) := usesSel op f
  selPort a f.sa ++ selPort b f.sb ++ selPort c f.sc

/-- The port a V instruction pushes. -/
def pushOf (op : Nat) (f : FV) : List Nat := selPort (usesSel op f).1 f.dst

/-- A port's direction does not match its use (R55, R106, R108). -/
def Core.wrongPort (c : Core) (i : Instr) : Bool :=
  let dir (p : Nat) : Nat := (spGet 0 c.port (p * 16)).toNat % 4
  match view i with
  | .v op _ f => (popsOf op f).any (dir · != 1) || (pushOf op f).any (dir · != 2)
  | _ => false

/-- Step 2 of R61 for an instruction: its encoding, and the directions of the ports it names, which come before its
format. -/
def Core.checks (c : Core) (i : Instr) : Option Nat :=
  match check c.priv i with
  | some 0x09 => some (if c.wrongPort i then 0x06 else 0x09)
  | some k => some k
  | none => if c.wrongPort i then some 0x06 else none

/-- The fault mark that an instruction meets first: any mark on a register it reads, a poison mark on one it writes
(R156, R231). -/
def Core.markOn (c : Core) (i : Instr) : Option (Nat × Mark) :=
  let of (r : Ref) : Option (Nat × Mark) :=
    if r.1 = 0 then (spGet none c.marks (c.physS r.2)).map fun k => (c.physS r.2, k) else none
  match ((c.reads i).filterMap of).head? with
  | some m => some m
  | none => ((writesOf i).filterMap of).find? fun m => !m.2.token

/-- Tokens that an instruction reads count as read (R41). -/
def Core.noteRead (c : Core) (regs : List Nat) : Core := { c with unread := c.unread.filter fun p => !regs.contains p }
def State.noteRead (s : State) (i : Instr) : State :=
  let regs := ((s.rd.core.reads i).filter (·.1 == 0)).map fun r => s.rd.core.physS r.2
  s.setCore (·.noteRead regs)

/-- What stands in the way of an instruction's effect. -/
inductive Hold where
  | run
  | skip
  | fault (cause : Nat) (tval : Word)
  | mark (phys : Nat) (k : Mark)
  | wait
  deriving DecidableEq, Repr

/-- Encoding checks, squash, readiness and fault marks, in the order of R61. -/
def State.hold (s : State) (i : Instr) : Hold :=
  let c := s.rd.core
  if s.verdict = .done ∨ s.verdict = .walk then .skip
  else
    match c.checks i with
    | some cause => .fault cause (encTval c i)
    | none =>
      if !c.pred (predOf i) then .skip
      else if (c.reads i ++ writesOf i).any c.unready then .wait
      else
        match c.markOn i with
        | some (p, k) => .mark p k
        | none => .run

/-- The issue stalls this cycle. -/
def State.stall (s : State) : State := if s.verdict = .done then s else { s with verdict := .stall }

/-- A slot waits for its table walk: no later slot is checked before it (R61, R401). -/
def State.stallWalk (s : State) : State := if s.verdict = .done then s else { s with verdict := .walk }

/-- The fault of a marked register (R156, R231); a raised cause 0x34 counts as reading the token (R41). -/
def State.raiseMark (s : State) (phys : Nat) (k : Mark) : State :=
  (s.raise (if k.token then 0x34 else 0x33) k.tval).setCore (·.noteRead (if k.token then [phys] else []))

/-- An instruction of a slot: its effect where nothing stands in the way. -/
def gated (i : Instr) (s : State) (effect : State → State) : Out :=
  .next (match s.hold i with
    | .run => effect (s.noteRead i)
    | .skip => s
    | .fault cause tval => s.raise cause tval
    | .mark phys k => s.raiseMark phys k
    | .wait => s.stall)

/-- An encoding cause found at issue (R55). -/
def State.raiseEnc (s : State) (i : Instr) (cause : Nat) : State := s.raise cause (encTval s.rd.core i)

end Sys2Proof.Machine
end

