-- ==== Sys2Proof/Machine/Operands.lean ====
section
/-! DEFINITION. Operand forms of the scalar slots (R49, R51, R135, R136) and of the vector and X slots (R55, R101,
R102, R107, R108): registers, literals, immediates and ports. -/

namespace Sys2Proof.Machine

/-! ## Scalar operands -/

/-- Operand width (R135). -/
def opWidth (w : BitVec 1) : Nat := if w = 1 then 32 else 64

/-- A result written sign-extended from the operand width (R135). -/
def fitW (w : BitVec 1) (x : Nat) : Word := if w = 1 then (BitVec.ofNat 32 x).signExtend 64 else BitVec.ofNat 64 x

/-- A register operand as the slot reads it. -/
def State.reg (s : State) (n : BitVec 6) : Word := s.rd.core.readS n

/-- The operand b of an R form: RB, or the sign-extended literal (R51, R136). -/
def State.opB (s : State) (f : FR) : Word :=
  match f.lit with
  | some l => l.signExtend 64
  | none => s.reg f.rb

/-- The displacement of a B form in bytes from its bundle (R51, R146). -/
def FBoff (f : FB) : Word :=
  4 * match f.lit with
  | some l => l.signExtend 64
  | none => f.off.signExtend 64

/-- The address of an M form: the base plus OFF10 scaled by the size, or plus the literal unscaled (R51, R154). -/
def State.addrM (s : State) (f : FM) (size : Nat) : Word :=
  s.reg f.ra + match f.lit with
  | some l => l.signExtend 64
  | none => f.off.signExtend 64 * BitVec.ofNat 64 size

/-- The value of an LI form, sign-extended to 32 bits (R141). -/
def FLIval (f : FLI) : BitVec 32 :=
  match f.lit with
  | some l => l
  | none => f.imm.signExtend 32

/-! ## Results that arrive later (R64, R137) -/

/-- A scoreboarded result; nothing is awaited for s0. -/
def State.laterLoad (s : State) (n : BitVec 6) (val : Option Word) (poison : Option Word) (again : Option LoadOp) : State :=
  if n = 0 then s
  else
    let p := s.rd.core.physS n.toNat
    s.setCore fun c => { c with sb := c.sb ++ [⟨p, val, poison, again⟩] }
def State.later (s : State) (n : BitVec 6) (val : Option Word) (poison : Option Word) : State := s.laterLoad n val poison none

/-! ## Ports (R106 to R108) -/

def Core.portField (c : Core) (p f : Nat) : BitVec 32 := spGet 0 c.port (p * 16 + f)
def Core.portIdx (c : Core) (p l : Nat) : Nat := spGet 0 c.pidx (p * 6 + l)

/-- A port's current address, as an offset; negative values and values past the scratchpad are kept as integers. -/
def Core.portAddr (c : Core) (p : Nat) : Int :=
  (List.range 6).foldl (fun a l => a + c.portIdx p l * (c.portField p (9 + l)).toInt) ((c.portField p 1).toNat : Int)

/-- Offset of row j of the port's row group. -/
def Core.portRow (c : Core) (p j : Nat) : Int := c.portAddr p + j * (c.portField p 2).toInt

/-- Increment index k, carrying outward; the fuel is how many levels are left. -/
def advFrom (c : Core) (p : Nat) : Nat → Nat → Sp Nat → Sp Nat
  | 0, _, x => x
  | fuel + 1, k, x =>
    let v := spGet 0 x (p * 6 + k) + 1
    if v < max (c.portField p (3 + k)).toNat 1 then spSet 0 x (p * 6 + k) v
    else advFrom c p fuel (k + 1) (spSet 0 x (p * 6 + k) 0)

/-- advance(port, l) of R107. -/
def Core.advance (c : Core) (p l : Nat) : Core :=
  let zeroed := (List.range l).foldl (fun x k => spSet 0 x (p * 6 + k) 0) c.pidx
  { c with pidx := advFrom c p (6 - l) l zeroed }

/-- Scratchpad offsets of the rows of a port's row group (R107): none where a row lies outside the 64 MiB slice. -/
def rowOff (a : Int) : Option Nat := if 0 ≤ a ∧ a < 2 ^ 26 then some a.toNat else none

/-- The quad-window address of a row (R108). -/
def rowVa (c : Core) (a : Int) : Word := BitVec.ofInt 64 ((qbase + c.rank * 2 ^ 26 : Nat) + a)

/-- The first fault of a pop or push over its rows, in row order (R108, R219, R226). -/
def portFault (m : Mach) (p bytes : Nat) (pop : Bool) : Option (Nat × Word) :=
  let c := m.core
  (List.range 8).findSome? fun j =>
    let a := c.portRow p j
    let ends := match rowOff a with
      | none => false
      | some o => decide (o + bytes ≤ 2 ^ 26) && (List.range (bytes / 32)).all fun k => m.quad.inRange (c.rank * 2 ^ 26 + o + 32 * k)
    if !ends then some (0x36, rowVa c a)
    else
      let key := c.rank * 2 ^ 26 + a.toNat
      if (List.range (bytes / 32)).any fun k => m.quad.isPending (key + 32 * k) then some (0x31, rowVa c a)
      else if pop && m.quad.poisoned key bytes then some (0x33, rowVa c a)
      else none

/-- The row group of a pop. -/
def portPop (m : Mach) (p bytes : Nat) : List Row :=
  (List.range 8).map fun j => rowOf (m.quad.read (m.core.rank * 2 ^ 26 + (m.core.portRow p j).toNat) bytes)

/-! ## Vector operands (R55, R163) -/

/-- The bits that WID reads and writes (R52, R101). -/
def widMask (wid : BitVec 2) : Row := BitVec.ofNat 1024 (2 ^ widBits wid - 1)

/-- Elements of a row, lowest first, as codes. -/
def rowElems (bits n : Nat) (r : Row) : List Nat := (List.range n).map fun k => r.toNat / 2 ^ (bits * k) % 2 ^ bits

/-- A row from element codes, lowest first. -/
def elemsNat (bits : Nat) : List Nat → Nat
  | [] => 0
  | e :: t => e % 2 ^ bits + 2 ^ bits * elemsNat bits t
def elemsRow (bits : Nat) (l : List Nat) : Row := BitVec.ofNat 1024 (elemsNat bits l)

/-- The row group of a tile select of the slot's own file, or of a port, or an immediate in every element (R55). -/
def Mach.srcRows (m : Mach) (w : Bool) (f : FV) (sel : BitVec 8) : List Row :=
  let n := sel.toNat
  if n < 64 then
    (List.range 8).map fun j => m.core.tileRow w (m.core.physTile w n) (m.core.rowCtr w + j) &&& widMask f.wid
  else if n < 72 then portPop m (n - 64) (widBits f.wid / 8)
  else
    let b := fmtBits f.fmt.toNat
    let r := elemsRow b (List.replicate f.elems (immCode f.fmt.toNat (n - 128)))
    List.replicate 8 r

/-- The row group of an x register. -/
def Mach.xRows (m : Mach) (f : FV) (reg : Nat) : List Row := (List.range 8).map fun j => m.core.xRow reg j &&& widMask f.wid

end Sys2Proof.Machine
end

