-- ==== Sys2Proof/Machine/Translate.lean ====
section
/-! DEFINITION. Translation: page tables, checks, cached translations (R394 to R400, R404), and the place of an
access: a scratchpad byte or a physical address (R156, R207 to R209). -/

namespace Sys2Proof.Machine

/-! ## Virtual-device records (R404) -/

/-- A field of the record of a virtual device. -/
def Mem.vdev (m : Mem) (vmid off size : Nat) : Nat := m.num (Config.vdevTable + 128 * vmid + off) size

/-! ## The group table (R351) -/

/-- The group that the table's entry k holds, with its device, where the entry is valid. -/
def Mem.groupEntry (m : Mem) (k : Nat) : Option (Nat × Nat) :=
  let a := Config.groupTable + 16 * k
  if m.num (a + 5) 1 % 2 = 1 ∧ m.num a 4 ≠ 0 then some (m.num a 4, m.num (a + 4) 1) else none

/-- The device of a group that the module's table holds. -/
def Mem.groupDev (m : Mem) (gid : Nat) : Option Nat :=
  ((List.range 256).findSome? fun k => (m.groupEntry k).filter fun e => e.1 == gid).map (·.2)

/-- Match counts are keyed by group, own endpoint, peer and channel: the group of a key. -/
def groupOfKey (key : Nat) : Nat := key / 2 ^ 110

/-- Match counts after a write of n bytes at a physical address: a group whose entry that made invalid has ended, and its
counts with it (R351). -/
def Coll.afterWrite (c : Coll) (old new : Mem) (pa n : Nat) : Coll :=
  let hit := (List.range 256).filter fun k => decide (Config.groupTable + 16 * k < pa + n) && decide (pa < Config.groupTable + 16 * (k + 1))
  let ended := hit.filterMap fun k => if (new.groupEntry k).isNone then (old.groupEntry k).map (·.1) else none
  let keep (s : Sp Nat) : Sp Nat := s.filter fun e => !ended.contains (groupOfKey e.1)
  { c with sent := keep c.sent, recvd := keep c.recvd }

/-- Memory after n bytes at a physical address have been written. -/
def Mach.wrote (m : Mach) (mem : Mem) (pa n : Nat) : Mach := { m with mem := mem, coll := m.coll.afterWrite m.mem mem pa n }

/-! ## Leaves (R395) -/

def leafBit (leaf : Word) (k : Nat) : Bool := leaf.getLsbD k
def leafW (l : Word) : Bool := leafBit l 2
def leafR (l : Word) : Bool := leafBit l 1
def leafX (l : Word) : Bool := leafBit l 3
def leafWS (l : Word) : Bool := leafBit l 4
def leafComp (l : Word) : Bool := leafBit l 5
def leafUpd (l : Word) : Bool := leafBit l 6
def leafG (l : Word) : Bool := leafBit l 9
def leafA (l : Word) : Bool := leafBit l 10
def leafD (l : Word) : Bool := leafBit l 11
/-- Cache policy: 0 NORMAL, 1 NOL1, 2 STREAM, 3 UNCACHED; a page with UPD behaves as UNCACHED (R211). -/
def leafCp (l : Word) : Nat := if leafUpd l then 3 else bits l.toNat 8 7

/-- A writer of a device through a leaf. -/
def reqOf (dev : Nat) (leaf : Word) : Req := ⟨dev, decide (leafCp leaf ≠ 3), decide (leafCp leaf = 2)⟩

def pageSize (level : Nat) : Nat := 2 ^ (16 + 9 * level)

/-- Physical address of a virtual address under a leaf (R396). -/
def leafPa (leaf : Word) (level va : Nat) : Nat := bits leaf.toNat 47 16 * 65536 + va % pageSize level

/-- An entry is a leaf, or a pointer (R395). -/
def isLeaf (e : Word) : Bool := leafR e || leafX e
def isPointer (e : Word) : Bool := !leafR e && !leafW e && !leafX e

/-- A malformed entry at a level (R396). -/
def malformed (lev : Nat) (e : Word) : Bool :=
  bits e.toNat 63 48 != 0 || (leafW e && !leafR e) ||
  (if isPointer e then lev == 0 || bits e.toNat 11 1 != 0
   else lev == 3 || bits e.toNat 15 12 != 0 || (lev == 1 && bits e.toNat 24 16 != 0) || (lev == 2 && bits e.toNat 33 16 != 0))

/-- What a walk finds: the leaf, its level and where it stands, none where nothing is present; the entries it read; and
the tables it went through, with their levels. -/
structure Walked where
  leaf : Option (Word × Nat × Nat)
  reads : List Nat
  tables : List (Nat × Nat)
  deriving DecidableEq, Repr

/-- A walk from a table down (R396); the first argument is the table's level + 1. -/
def walkFrom (m : Mem) (va : Nat) : Nat → Nat → Walked
  | 0, _ => ⟨none, [], []⟩
  | lev + 1, table =>
    let a := table + 8 * (va / 2 ^ (16 + 9 * lev) % 512)
    let e := BitVec.ofNat 64 (m.num a 8)
    if !leafBit e 0 || malformed lev e then ⟨none, [a], []⟩
    else if isPointer e then
      let t := bits e.toNat 47 12 * 4096
      let w := walkFrom m va lev t
      ⟨w.leaf, a :: w.reads, (lev - 1, t) :: w.tables⟩
    else ⟨some (e, lev, a), [a], []⟩

/-- The walk of an address from its device's root (R396, R404). -/
def walk (m : Mem) (vmid va : Nat) : Option (Word × Nat × Nat) := (walkFrom m va 4 (m.vdev vmid 8 8)).leaf

/-- What a table of a level maps for an address, as pointer entries are found. -/
def tableSpan (lev va : Nat) : Nat := va / 2 ^ (25 + 9 * lev)

/-- The lowest table that a die's cached pointer entries lead to for an address (R400); else the root. -/
def Mach.startTable (m : Mach) (die vmid va : Nat) : Nat × Nat :=
  let has (lev : Nat) : Option PtrEnt :=
    m.ptrs.find? fun p => p.die == die && p.vmid == vmid && p.level == lev && p.pre == tableSpan lev va
  match has 0, has 1, has 2 with
  | some p, _, _ => (1, p.table)
  | none, some p, _ => (2, p.table)
  | none, none, some p => (3, p.table)
  | none, none, none => (4, m.mem.vdev vmid 8 8)

/-- The cause of an access through a leaf, none where the leaf permits it (R225, R306, R397). -/
def denied (acc : Access) (l : Word) : Option Nat :=
  let need (b : Bool) : Option Nat := if b then none else some 0x21
  match acc with
  | .range => none
  | .fetch => need (leafX l)
  | .read => need (leafR l)
  | .write | .token => need (leafW l)
  | .amo => need (leafR l && leafW l)
  | .region => need (leafR l && leafW l && leafUpd l && !leafComp l)
  | .weights => if leafWS l && leafW l then some 0x22 else need (leafWS l && leafR l)

/-- The access counts as a write for D (R398). -/
def setsD : Access → Bool
  | .write | .amo | .region => true
  | _ => false

/-- What a translation leaves: whether the followed core's L1 TLB takes the entry, the die whose L2 TLB does, the table
entries read, the pointer entries to install, the leaf to install, the table word written where A or D is set (R398, R400),
and a miss that joins the walk pool (R401). -/
structure TlbUpd where
  core : Bool
  die : Nat
  reads : List Nat
  ptrs : List PtrEnt
  ent : Option TlbEnt
  pte : Nat
  old : Word
  miss : Option Miss
  deriving DecidableEq, Repr

/-- Result of a translation. -/
inductive XRes where
  | ok (leaf : Word) (pa : Nat)
  | fault (cause : Nat)
  deriving DecidableEq, Repr

def tlbFind (tlb : List TlbEnt) (vmid va : Nat) : Option TlbEnt :=
  tlb.find? fun e => (e.vmid == none || e.vmid == some vmid) && va / pageSize e.level == e.page

/-- Whose access a translation serves: the followed core's own fetches and S1 accesses, or what its die's L2 TLB, or another
die's, serves (R400). -/
inductive Asker where
  | core
  | die (d : Nat)
  deriving DecidableEq, Repr

def Mach.dieOf (m : Mach) (w : Asker) : Nat := match w with
  | .core => m.core.die
  | .die d => d

/-- A walk for an access (R396 to R398): it installs a leaf, with A and for a write D set, only where the leaf permits
the access. -/
def walkFor (m : Mach) (w : Asker) (vmid va : Nat) (acc : Access) : XRes × Option TlbUpd :=
  let die := m.dieOf w
  let (lev, table) := m.startTable die vmid va
  let k := walkFrom m.mem va lev table
  let ptrs := k.tables.map fun t => ⟨die, vmid, t.1, tableSpan t.1 va, t.2⟩
  let none_ : TlbUpd := ⟨false, die, k.reads, ptrs, none, 0, 0, none⟩
  match k.leaf with
  | none => (.fault 0x20, some none_)
  | some (leaf, lev, a) =>
    match denied acc leaf with
    | some c => (.fault c, some none_)
    | none =>
      let l := leaf ||| 0x400 ||| (if setsD acc then 0x800 else 0)
      (.ok l (leafPa l lev va),
        some { none_ with core := w == .core, ent := some ⟨if leafG l then none else some vmid, va / pageSize lev, lev, l⟩, pte := a, old := leaf })

/-- A cached translation that serves an access: the L1 TLB's for the core, else the die's L2 TLB's, which the L1 TLB then
takes; none where there is none, or a write finds D clear (R394, R398, R400). No address of the quad window is translated
(R207; log 55). -/
def Mach.lookup (m : Mach) (w : Asker) (vmid va : Nat) (acc : Access) : Option (XRes × Option TlbUpd) :=
  let die := m.dieOf w
  let use (e : TlbEnt) (u : Option TlbUpd) : Option (XRes × Option TlbUpd) :=
    match denied acc e.leaf with
    | some c => some (.fault c, u)
    | none => if setsD acc && !leafD e.leaf then none else some (.ok e.leaf (leafPa e.leaf e.level va), u)
  if 2 ^ 52 ≤ va || inWindow va then some (.fault 0x20, none)
  else
    match (if w = .core then tlbFind m.tlb vmid va else none) with
    | some e => use e none
    | none =>
      match tlbFind ((m.l2tlb.filter (·.1 == die)).map Prod.snd) vmid va with
      | some e => use e (if w = .core then some ⟨true, die, [], [], some e, 0, e.leaf, none⟩ else none)
      | none => none

/-- Translate an address for an access: a cached translation, else a walk; a write through a leaf whose D is clear
walks again (R394, R398, R400). -/
def Mach.translate (m : Mach) (vmid va : Nat) (acc : Access) (w : Asker := .core) : XRes × Option TlbUpd :=
  (m.lookup w vmid va acc).getD (walkFor m w vmid va acc)

/-- Entries of an L1 TLB, leaves of an L2 TLB, and misses of a walk pool (R400). -/
def l1TlbEntries : Nat := 96
def l2TlbEntries : Nat := 16384
def poolEntries : Nat := 4096

def TlbEnt.same (a b : TlbEnt) : Bool := a.vmid == b.vmid && a.page == b.page && a.level == b.level

/-- Apply what a translation leaves: bins of the lines read are applied (R316), the leaf stands in the TLBs, which keep as many
as they hold, pointers in the L2 TLB, and A and D in the table. -/
def Mach.applyUpd (m : Mach) (u : Option TlbUpd) : Mach :=
  match u with
  | none => m
  | some u =>
    let mem := u.reads.foldl (fun k a => k.touch a 8) m.mem
    let m := { m with
      mem := mem
      ptrs := u.ptrs ++ m.ptrs.filter fun p => !u.ptrs.any fun q => q.die == p.die && q.vmid == p.vmid && q.level == p.level && q.pre == p.pre
      pool := match u.miss with
        | some k => if m.pool.contains k || decide (poolEntries ≤ m.pool.length) then m.pool else m.pool ++ [k]
        | none => m.pool }
    match u.ent with
    | none => m
    | some e =>
      let l2 := m.l2tlb.filter fun x => !(x.1 == u.die && x.2.same e)
      let full := decide (l2TlbEntries ≤ (l2.filter (·.1 == u.die)).length)
      let last := ((l2.filter (·.1 == u.die)).getLast?)
      { m with
        tlb := if u.core then (e :: m.tlb.filter fun x => !x.same e).take l1TlbEntries else m.tlb
        l2tlb := (u.die, e) :: (match last with
          | some x => if full then l2.erase x else l2
          | none => l2)
        mem := if e.leaf = u.old then m.mem else m.mem.store false u.pte (natBytes e.leaf.toNat 8) }

/-- A miss has its walk's result. -/
def Miss.walked (k : Miss) : Bool := k.cause.isSome || k.leaf.isSome

/-- Translation of a fetch or an S1 access of the followed core: a miss joins the walk pool, and the access waits there for
its walk's leaf, or for its cause, and receives it there, whatever the TLBs keep (R401). The cause 0 stands for the wait. -/
def Mach.ownXlate (m : Mach) (va : Nat) (acc : Access) : XRes × Option TlbUpd :=
  let vmid := m.core.vmid.toNat
  match m.lookup .core vmid va acc with
  | some x => x
  | none =>
    match m.pool.find? fun k => k.vmid == vmid && k.page == va / 65536 && k.acc == acc && k.walked with
    | some ⟨_, _, _, some c, _⟩ => (.fault c, none)
    | some ⟨_, _, _, none, some (leaf, lev)⟩ => (.ok leaf (leafPa leaf lev va), none)
    | _ => (.fault 0, some ⟨false, 0, [], [], none, 0, 0, some ⟨vmid, va / 65536, acc, none, none⟩⟩)

/-- What happens to the machine even where the bundle in issue comes to have no effect (log 16). -/
def State.both (s : State) (f : Mach → Mach) : State := { s with cur := f s.cur, snap := s.snap.map f }

/-- A walk's effects stand even where the bundle has none (log 16). -/
def State.applyUpd (s : State) (u : Option TlbUpd) : State := s.both (·.applyUpd u)

/-! ## The place of an access -/

/-- A scratchpad byte by its key, or a physical address with the leaf that named it. -/
inductive Place where
  | pad (key : Nat)
  | home (pa : Nat) (leaf : Word)
  deriving DecidableEq, Repr

/-- The rank's core is the issuer's own, or holds a placed instance of the issuer's launch (R209). -/
def Mach.peerThere (m : Mach) (rank : Nat) : Bool :=
  rank == m.core.rank ||
    m.disp.placed.any fun p =>
      let core := m.core.num / 4 * 4 + rank
      !p.oasis && p.launch == m.core.launch && decide (p.base ≤ core) && decide (core < p.base + p.size) && !p.retired.contains core

/-- Faults of a slot's access to a scratchpad byte (R208, R209, R219). -/
def padFault (m : Mach) (key : Nat) : Option Nat :=
  if !m.peerThere (key / 2 ^ 26) then some 0x3A
  else if !m.quad.inRange key then some 0x36
  else if m.quad.isPending key then some 0x31
  else none

/-- Where an S1 access lands, or its cause, 0 for a wait for a walk (R156, R206 to R209, R401). -/
def Mach.place (m : Mach) (va size : Nat) (acc : Access) : Except Nat Place × Option TlbUpd :=
  if va % size ≠ 0 then (.error 0x30, none)
  else if inWindow va then
    match padFault m (va - qbase) with
    | some c => (.error c, none)
    | none => (.ok (.pad (va - qbase)), none)
  else
    match m.ownXlate va acc with
    | (.fault c, u) => (.error c, u)
    | (.ok leaf pa, u) => (.ok (.home pa leaf), u)

/-- An access found a cause, or waits for its walk. -/
def State.refuseAt (s : State) (cause : Nat) (va : Word) : State := if cause = 0 then s.stallWalk else s.raise cause va

/-! ## Code bytes -/

/-- The word of code at an address, as a fetch would read it; zero where nothing can be fetched. -/
def Mach.codeWord (m : Mach) (va : Nat) : BitVec 32 :=
  match m.translate m.core.vmid.toNat va .fetch with
  | (.ok leaf pa, _) => BitVec.ofNat 32 (bytesNat (m.mem.load (effComp (leafComp leaf) (pa / 128)) pa 4).2.1)
  | (.fault _, _) => 0

/-- Address of the bundle n bundles after the one at `va`, by the headers between (R21, R46; log 25). -/
def Mach.bundleAfter (m : Mach) : Nat → Nat → Nat
  | 0, va => va
  | n + 1, va => m.bundleAfter n (va + (decHeader (m.codeWord va)).len)

end Sys2Proof.Machine
end

