-- ==== Sys2Proof/Machine/Bins.lean ====
section
/-! DEFINITION. The Caravanserai accepts update pairs: bins in the update-class ways of the memory-side cache, and the spill
rule (R305, R315 to R318). -/

namespace Sys2Proof.Machine

/-- The bin holds pairs of the context. -/
def Bin.ownedBy (b : Bin) (owner : Nat × Nat) : Bool := b.owners.any fun o => (o.2.1, o.2.2.1) == owner

/-- The bin holds pairs of UPDs of the context older than an operation. -/
def Bin.ownedBefore (b : Bin) (owner : Nat × Nat) (op : Nat) : Bool :=
  b.owners.any fun o => (o.2.1, o.2.2.1) == owner && decide (o.2.2.2 < op)

/-- A bin lies in one of the ways of a mask, in a stack. -/
def Bin.within (b : Bin) (stack mask : Nat) : Bool := stackOf (b.line * 512) == stack && (waysOf mask).contains b.way

/-- The way of a new bin: one of the device's update-class ways in the element's stack with a place free of bins. A line of
sectors gives way to it (R315, R316). -/
def Mem.binRoom (m : Mem) (sec mask : Nat) : Mem × Option Nat :=
  let st := stackOf (sec * 128)
  match (waysOf mask).find? fun w => decide ((m.bins.filter fun b => b.way == w && stackOf (b.line * 512) == st).length < linesPerWay) with
  | none => (m, none)
  | some w =>
    if m.wayUse st w < linesPerWay then (m, some w)
    else
      (m.dropMscLine (oldestOf m.mscUse (m.wayLines st w)), some w)

/-- Accept a pair into the bin of its line; where the device's ways in that stack have no place free, the oldest bin in them
is applied; a device with no ways holds no bin, and has each pair applied at once (R315, R316; log 26). The owner is a launch, an instance and
the UPD. The pair counts at its home as a write performed (R318). -/
def Mem.acceptPair (m : Mem) (vmid : Nat) (base : Word) (opr : Nat) (owner : Nat × Nat × Nat) (pa v : Nat) : Mem :=
  let line := pa / 512
  let mine (b : Bin) : Bool := b.line == line && b.vmid == vmid && b.base == base && b.opr == opr
  let m := (m.applyBins fun b => b.line == line && !mine b).1
  let h := homeDie pa
  let m := { m with hc := spSet 0 m.hc h (m.hcOf h + 1) }
  let ways := m.wayMask vmid 48
  let e := widenPair opr v
  let m := if ways = 0 then (m.applyBins mine).1 else m
  match m.bins.find? mine with
  | some b =>
    let x := match spGet none b.entries pa with
      | some w => combine opr w.toNat e
      | none => e
    let b' := { b with
      entries := spSet none b.entries pa (some (BitVec.ofNat 64 x))
      pairs := b.pairs + 1
      owners := if b.owners.contains (pa, owner) then b.owners else b.owners ++ [(pa, owner)] }
    { m with bins := m.bins.map fun k => if mine k then b' else k }
  | none =>
    let fresh (w : Nat) : Bin := ⟨line, w, vmid, base, opr, [(pa, some (BitVec.ofNat 64 e))], 1, [(pa, owner)]⟩
    if ways = 0 then applyBin { m with bins := m.bins ++ [fresh 0] } (fresh 0)
    else
      match m.binRoom (pa / 128) ways with
      | (m, some w) => { m with bins := m.bins ++ [fresh w] }
      | (m, none) => match m.bins.find? (·.within (stackOf pa) ways) with
        | some b =>
          let m := applyBin m b
          { m with bins := m.bins ++ [fresh b.way] }
        | none => applyBin { m with bins := m.bins ++ [fresh 0] } (fresh 0)

end Sys2Proof.Machine
end

