-- ==== Sys2Proof/Machine/Memory.lean ====
section
/-! DEFINITION. The S1 slot: loads, stores, fences, AMOs, barrier objects and QPUSH (R154 to R161, R212 to R214, R294 to
R302), and the events that perform what they issue. -/

namespace Sys2Proof.Machine

/-! ## Clocks (R300) -/

def Core.ocOf (c : Core) (h : Nat) : Nat := spGet 0 c.oc h
def Core.raiseOc (c : Core) (h n : Nat) : Core := { c with oc := spSet 0 c.oc h (max (c.ocOf h) n) }

/-- Merge clock entries, home 0 first, into the context's and the die's clocks. -/
def mergeClocks (m : Mach) (l : List Nat) : Mach :=
  let d := m.core.die
  let go (m : Mach) (k : Nat × Nat) : Mach := { m with core := m.core.raiseOc k.1 k.2, mem := m.mem.raiseVc d k.1 k.2 }
  ((List.range 9).zip l).foldl go m

/-- The stamp of a release of scope PKG or SYS. -/
def stampOf (m : Mach) : List Nat :=
  (List.range 9).map fun h => max (m.mem.vcOf m.core.die h) (m.core.ocOf h)

def maxClocks (a b : List Nat) : List Nat := (List.range 9).map fun h => max (a.getD h 0) (b.getD h 0)

/-! ## Pending operations -/

def MemOp.overlaps (o : MemOp) (pad : Bool) (a n : Nat) : Bool :=
  o.pad == pad && decide (o.pa < a + n) && decide (a < o.pa + o.size)

def MemOp.bytes (o : MemOp) : List Byte := natBytes o.data.toNat o.size

/-- Stores and AMOs that are not yet applied at their homes, oldest first. -/
def Core.stores (c : Core) : List MemOp := c.transit ++ c.memq

/-- Bytes with the context's own unperformed stores laid over them, oldest first (R157). -/
def overlay (q : List MemOp) (pad : Bool) (a : Nat) (b : List Byte) : List Byte :=
  (List.range b.length).map fun i =>
    q.foldl (fun x o => if o.kind ≠ .amo ∧ o.pad = pad ∧ o.pa ≤ a + i ∧ a + i < o.pa + o.size
      then o.bytes.getD (a + i - o.pa) 0 else x) (b.getD i 0)

/-- A store of the context on its way goes to a home on another die than its own. -/
def Core.remote (c : Core) (o : MemOp) : Bool := homeDie o.pa != c.die

/-- Writes that have left the core count as acknowledged at a scope: at CORE all; at QUAD or DIE those that have reached the
home slice on this die, or the RDC; at PKG or SYS those that the home has acknowledged (R212). -/
def Core.ackedAt (c : Core) (scope : Nat) : Bool :=
  if scope = 0 then true else if scope ≤ 2 then c.transit.all c.remote else c.transit.isEmpty && c.unacked.isEmpty

/-- Writes of bundles before an issue number count as acknowledged at a scope (R212). -/
def Core.ackedBefore (c : Core) (scope n : Nat) : Bool :=
  let old (o : MemOp) : Bool := decide (o.after.2 < n)
  !c.memq.any old &&
    if scope = 0 then true
    else if scope ≤ 2 then (c.transit.filter old).all c.remote
    else !c.transit.any old && !c.unacked.any fun u => decide (u.2.2.2 < n)

/-- No port push of a level issued before a bundle is still to land (R290, R294). -/
def Core.pushed (c : Core) (after : Nat × Nat) : Bool := (c.bank after.1).all fun e => e.file != 9 || decide (after.2 ≤ e.born)

/-- Level and issue number of the bundle in issue, from the core as the bundle reads it. -/
def Core.now (c : Core) : Nat × Nat := (c.tlevel, c.issued + 1)

/-- Every earlier write of the context is acknowledged at a scope, port pushes of its level landed. -/
def Core.settled (c : Core) (scope : Nat) : Bool := c.memq.isEmpty && c.ackedAt scope && c.pushed c.now

/-- Stores or AMOs are not yet performed and acknowledged. -/
def Core.busy (c : Core) : Bool := !(c.memq.isEmpty && c.transit.isEmpty && c.unacked.isEmpty)

/-- What an acquire fence orders after accesses before it is not yet performed: AMOs, and with FENCE.ar stores too, which its
release part waits for (R157, R294). -/
def Core.acqBusy (c : Core) : Bool := c.memq.any (fun o => o.kind == .amo) || (c.acqAll && c.busy)

/-- An acquire is not yet performed, so later accesses wait (R157, R294). -/
def Core.fenced (c : Core) : Bool := c.refresh || (c.acqWait.isSome && c.acqBusy)

/-- Every write that a release waits for is acknowledged at its scope, earlier pushes of its level landed (R157, R294, R295). -/
def Core.releases (c : Core) (waits : List (Nat × Nat × Nat)) : Bool :=
  waits.all fun w => c.ackedBefore w.1 w.2.2 && c.pushed w.2

/-- The loads of the context are performed, at the latest now (R157, R294). -/
def Core.settleLoads (c : Core) : Core := { c with sb := c.sb.map Result.settle }
/-- So are those that touch some bytes. -/
def Core.settleIn (c : Core) (pad : Bool) (a n : Nat) : Core := { c with sb := c.sb.map (Result.settleIn pad a n) }

/-! ## Loads -/

/-- Where a load is served; a copy with the tag of its fill (R300). -/
inductive Served where
  | l1 (tag : Nat)
  | rdc (tag : Nat)
  | home
  deriving DecidableEq, Repr

/-- What a load finds: its bytes, poison, where it was served, and whether a free value was taken (R210 to R214, R299;
log 21). -/
structure Found where
  bytes : List Byte
  poison : Bool
  served : Served
  usedFree : Bool
  deriving DecidableEq, Repr

/-- The first-level cache that serves an access: the instruction cache for a fetch, else L1 (R10). -/
def Mem.first (m : Mem) (fetch : Bool) : Sp (Option Sector) := if fetch then m.icache else m.l1

/-- Copies in L1 (or the instruction cache) and the RDC that may serve a load; `acq` is the scope of an acquire load
(R211, R212, R214, R299); none of a line whose home die's store layer is down (R422). -/
def Mach.copyFor (m : Mach) (fetch : Bool) (leaf : Word) (sec : Nat) (acq : Option Nat) : Option (Sector × Served) :=
  let key := ckey (effComp (leafComp leaf) sec) sec
  let h := homeDie (sec * 128)
  let cp := if m.mem.down.contains h then 3 else leafCp leaf
  let l1 := if cp = 0 ∧ acq.getD 0 = 0 then spGet none (m.mem.first fetch) key else none
  match l1 with
  | some k => some (k, .l1 k.tag)
  | none =>
    if h ≠ m.core.die ∧ cp ≠ 3 ∧ acq.getD 0 ≤ 2 then
      match spGet none m.mem.rdc key with
      | some k => if m.mem.vcOf m.core.die h ≤ k.tag then some (k, .rdc k.tag) else none
      | none => none
    else none

/-- Sample the bytes of a load at a physical address; they lie in one sector. -/
def Mach.find (m : Mach) (fetch : Bool) (leaf : Word) (pa n : Nat) (acq : Option Nat) (free : Bool) : Found :=
  let sec := pa / 128
  let (home, poi) := (m.mem.touch pa n).homeRead (effComp (leafComp leaf) sec) sec
  let cut (r : Row) : List Byte := ((rowBytes r).drop (pa % 128)).take n
  match m.copyFor fetch leaf sec acq with
  | some (k, sv) =>
    if k.data = home ∧ k.poison = poi then ⟨cut home, poi, sv, false⟩
    else if free then ⟨cut k.data, k.poison, sv, true⟩
    else ⟨cut home, poi, .home, true⟩
  | none => ⟨cut home, poi, .home, false⟩

/-- Sectors that a read of a block offers to the memory-side cache: those of a compressed one all, else the one read
(R220). -/
def Mem.offered (m : Mem) (comp : Bool) (sec : Nat) : List Nat :=
  let md := (m.metaOf (sec / 32)).toNat
  if comp && decide (1 ≤ md) && decide (md ≤ 0x1F) then (List.range 32).map (sec / 32 * 32 + ·) else [sec]

/-- Fills of the memory-side cache that a read below the die L2 asks for: of the sector read in its class, of the others of its
block in the read class (R215, R216, R220). -/
def Mem.sideWants (m : Mem) (dev : Nat) (weights late comp : Bool) (sec : Nat) : List FillReq :=
  if inHbm (sec * 128) then
    (m.offered comp sec).map fun k => ⟨.msc, ckey comp k, dev, weights && k == sec, late || (weights && k == sec)⟩
  else []

/-- Fills that a read at the home asks for there: in the die L2 by the page's policy, and in the memory-side cache (R211,
R215). -/
def Mem.homeWants (m : Mem) (dev : Nat) (leaf : Word) (sec : Nat) : List FillReq :=
  let comp := effComp (leafComp leaf) sec
  let late := leafCp leaf == 2
  (if leafCp leaf ≠ 3 ∧ !m.down.contains (homeDie (sec * 128)) then [⟨.l2, ckey comp sec, dev, false, late⟩] else []) ++
    m.sideWants dev false late comp sec

/-- Fills that a load's miss asks for: in L1 or the instruction cache, the RDC for a home on another die, and those at the
home (R211, R214 to R216). -/
def Mach.wants (m : Mach) (first : CacheLevel) (leaf : Word) (sec : Nat) (acq : Option Nat) : List FillReq :=
  let key := ckey (effComp (leafComp leaf) sec) sec
  let dev := m.core.vmid.toNat
  let cp := if m.mem.down.contains (homeDie (sec * 128)) then 3 else leafCp leaf
  (if cp = 0 ∧ acq.getD 0 = 0 then [⟨first, key, dev, false, false⟩] else []) ++
  (if cp ≠ 3 ∧ homeDie (sec * 128) ≠ m.core.die then [⟨.rdc, key, dev, false, cp == 2⟩] else []) ++ m.mem.homeWants dev leaf sec

def addFills (m : Mem) (l : List FillReq) : Mem :=
  { m with fills := m.fills ++ l.filter fun x => !m.fills.contains x }

/-- What a load leaves in the machine: bins applied, copies older than what was read dropped (R293), clocks raised (R300),
fills asked for. -/
def noteLoad (m : Mach) (fetch : Bool) (leaf : Word) (pa n : Nat) (acq : Option Nat) (f : Found) : Mach :=
  let sec := pa / 128
  let comp := effComp (leafComp leaf) sec
  let h := homeDie pa
  let m := { m with mem := m.mem.touch pa n }
  let wants := m.wants (if fetch then .icache else .l1) leaf sec acq
  match f.served with
  | .l1 tag => { m with core := m.core.raiseOc h tag }
  | .rdc tag =>
    { m with
      core := m.core.raiseOc h tag
      mem := addFills (m.mem.rdcRead comp sec) (wants.take (if leafCp leaf = 0 ∧ acq.getD 0 = 0 then 1 else 0)) }
  | .home =>
    { m with
      core := m.core.raiseOc h (m.mem.hcOf h)
      mem := addFills ((m.mem.used comp sec).dropStale comp sec) wants }

/-- The acquire of a scope, for the sector read where it is an acquire load (R157, R212, R300): L1 is emptied at QUAD
or wider, and clocks merged at PKG or SYS. -/
def acquireLoad (m : Mach) (scope : Nat) (clk : List Nat) (h : Option Nat) : Mach :=
  let m := if 1 ≤ scope then { m with mem := m.mem.emptyL1 } else m
  if 3 ≤ scope then
    let m := mergeClocks m clk
    match h with
    | some h => { m with core := m.core.raiseOc h (m.mem.hcOf h), mem := m.mem.raiseVc m.core.die h (m.mem.hcOf h) }
    | none => m
  else m

/-- What a read by the context finds: a fault, a wait for its walk or for something else, or bytes with whether they are
poisoned, and their place. -/
inductive Sampled where
  | fault (cause : Nat)
  | walk
  | wait
  | got (bytes : List Byte) (poison : Bool) (pl : Place)
  deriving DecidableEq, Repr

/-- A read of the context in program order (R154 to R157, R294): it waits for an acquire not yet performed, an AMO of its
bytes, an overdue push of them (R66); its own stores lie over what memory gives. Loads of the same bytes before it are
performed. -/
def State.sample (s : State) (va : Word) (size : Nat) (acq : Option Nat) : State × Sampled :=
  let m := s.rd
  let amo (pad : Bool) (a : Nat) : Bool := m.core.memq.any fun o => o.kind == .amo && o.overlaps pad a size
  match m.place va.toNat size .read with
  | (.error c, u) => (s.applyUpd u, if c = 0 then .walk else .fault c)
  | (.ok pl, u) =>
    let s := s.applyUpd u
    if m.core.fenced then (s, .wait)
    else
      match pl with
      | .pad key =>
        if amo true key || m.core.padOverdue key size then (s, .wait)
        else
          let s := s.setCore (·.settleIn true key size)
          let s := match acq with
            | some sc => s.setCur fun c => acquireLoad c sc (spGet [] m.mem.spClk (key / 128)) none
            | none => s
          (s, .got (overlay m.core.stores true key (m.quad.read key size)) (m.quad.poisoned key size) pl)
      | .home pa leaf =>
        if amo false pa then (s, .wait)
        else
          let f := m.find false leaf pa size acq (Config.freeBit s.freeIdx)
          let s := (if f.usedFree then s.used else s).setCur fun c =>
            noteLoad { c with core := c.core.settleIn false pa size } false leaf pa size acq f
          let s := match acq with
            | some sc => s.setCur fun c => acquireLoad c sc (spGet [] m.mem.relClk (pa / 128)) (some (homeDie pa))
            | none => s
          (s, .got (overlay m.core.stores false pa f.bytes) f.poison pl)

/-- The load that a plain access makes at a place. -/
def loadOf (va : Word) (size : Nat) (sext : Bool) (pl : Place) : LoadOp := match pl with
  | .pad key => ⟨va, true, key, size, 0, sext⟩
  | .home pa leaf => ⟨va, false, pa, size, leaf, sext⟩

/-- The value of loaded bytes, extended to the register (R154). -/
def LoadOp.value (o : LoadOp) (b : List Byte) : Word :=
  if o.sext then BitVec.ofInt 64 (signed (8 * o.size) (bytesNat b)) else BitVec.ofNat 64 (bytesNat b)

/-- A load of `size` bytes into an S register (R154 to R157). Poisoned data are a free value, with a mark (R156). A plain load
may yet be performed again until its result is written (R294; log 9). -/
def State.load (s : State) (rt : BitVec 6) (va : Word) (size : Nat) (acq : Option Nat) (sext : Bool) : State :=
  match s.sample va size acq with
  | (s, .fault c) => s.raise c va
  | (s, .walk) => s.stallWalk
  | (s, .wait) => s.stall
  | (s, .got b poi pl) =>
    let o := loadOf va size sext pl
    let again := if acq.isNone then some o else none
    if poi then s.used.laterLoad rt (some (Config.freeWord s.freeIdx)) (some va) again
    else s.laterLoad rt (some (o.value b)) none again

/-- A plain load whose result is not yet written is performed now, and not again (R154, R156, R294; log 9). -/
def State.reload (s : State) (reg : Nat) : State :=
  match s.cur.core.sb.find? fun r => r.reg == reg && r.again.isSome with
  | some r =>
    match r.again with
    | some o =>
      let m := s.cur
      let f := m.find false o.leaf o.pa o.size none (Config.freeBit s.freeIdx)
      let (b, poi) := if o.pad then (m.quad.read o.pa o.size, m.quad.poisoned o.pa o.size) else (f.bytes, f.poison)
      let x := o.value (overlay m.core.stores o.pad o.pa b)
      let r' : Result := ⟨r.reg, some (if poi then Config.freeWord (s.freeIdx + 1) else x), if poi then some o.va else none, none⟩
      let m := if o.pad then m else noteLoad m false o.leaf o.pa o.size none f
      { s.used.used with cur := { m with core := { m.core with sb := m.core.sb.map fun k => if k = r then r' else k } } }
    | none => s
  | none => s

def sextB (bits x : Nat) : Word := BitVec.ofInt 64 (signed bits x)

/-- LDB, R154. -/
def execLdb (f : FM) (s : State) : Out := gated (.ldb f) s fun s => s.load f.rt (s.addrM f 1) 1 none true

/-- LDBU, R154. -/
def execLdbu (f : FM) (s : State) : Out := gated (.ldbu f) s fun s => s.load f.rt (s.addrM f 1) 1 none false

/-- LDH, R154. -/
def execLdh (f : FM) (s : State) : Out := gated (.ldh f) s fun s => s.load f.rt (s.addrM f 2) 2 none true

/-- LDHU, R154. -/
def execLdhu (f : FM) (s : State) : Out := gated (.ldhu f) s fun s => s.load f.rt (s.addrM f 2) 2 none false

/-- LDW, R154. -/
def execLdw (f : FM) (s : State) : Out := gated (.ldw f) s fun s => s.load f.rt (s.addrM f 4) 4 none true

/-- LDWU, R154. -/
def execLdwu (f : FM) (s : State) : Out := gated (.ldwu f) s fun s => s.load f.rt (s.addrM f 4) 4 none false

/-- LDD, R154. -/
def execLdd (f : FM) (s : State) : Out := gated (.ldd f) s fun s => s.load f.rt (s.addrM f 8) 8 none false

/-- Size of an MO form (R155). -/
def moSize (w : BitVec 1) : Nat := if w = 1 then 4 else 8

/-- LD.acq, R155: a 4-byte load is sign-extended. -/
def execLd (f : FMO) (s : State) : Out :=
  gated (.ld f) s fun s => s.load f.rt (s.reg f.ra) (moSize f.w) (some f.scope.toNat) true

/-! ## Stores -/

/-- The scope at which a store or AMO releases: its own, or that of a FENCE.rel in force (R295). -/
def releaseAt (own fence : Option Nat) : Option Nat :=
  match own, fence with
  | some a, some b => some (max a b)
  | some a, none => some a
  | none, b => b

/-- A write to the scratchpad, with the release clock of its sector where it releases at PKG or SYS (R300). The sector keeps
the entrywise larger of that and its old clock: a release to another of its words is still to be acquired (R297; DEDUCED,
log 9). -/
def padStore (m : Mach) (key : Nat) (b : List Byte) (release : Option Nat) : Mach :=
  let old := spGet [] m.mem.spClk (key / 128)
  let mem := match release with
    | some sc => if 3 ≤ sc then { m.mem with spClk := spSet [] m.mem.spClk (key / 128) (maxClocks old (stampOf m)) } else m.mem
    | none => m.mem
  { m with quad := m.quad.write key b, mem := mem }

/-- What an access of the bundle in issue releases after: the release fences before it, and its own scope (R295). -/
def Core.waitsFor (c : Core) (own : Option Nat) : List (Nat × Nat × Nat) :=
  c.relSince ++ match own with
    | some sc => [(sc, c.now)]
    | none => []

/-- A pad operation must wait in the queue: a release with earlier writes unacknowledged, or behind one of its bytes. -/
def Core.padWaits (c : Core) (waits : List (Nat × Nat × Nat)) (key n : Nat) : Bool :=
  !c.releases waits || c.memq.any (·.overlaps true key n)

/-- A release is performed after the loads before it (R294). -/
def settleRelease (m : Mach) (release : Option Nat) : Mach :=
  if release.isSome then { m with core := m.core.settleLoads } else m

/-- A store of the low bytes of a register (R154 to R157). -/
def State.store (s : State) (data : Word) (va : Word) (size : Nat) (own : Option Nat) : State :=
  let m := s.rd
  match m.place va.toNat size .write with
  | (.error c, u) => (s.applyUpd u).refuseAt c va
  | (.ok pl, u) =>
    let s := s.applyUpd u
    if m.core.fenced then s.stall
    else
      let rel := releaseAt own m.core.relFence
      let waits := m.core.waitsFor own
      let kind : MemKind := if rel.isSome then .release else .store
      match pl with
      | .pad key =>
        let s := s.setCore (·.settleIn true key size)
        if m.core.padOverdue key size then s.stall
        else if m.core.padWaits waits key size then
          s.setCore fun c => { c with memq := c.memq ++ [⟨kind, va, key, size, data, 0, 0, 0, 0, 0, rel, true, m.core.now, waits⟩] }
        else s.setCur fun c => padStore (settleRelease c rel) key (natBytes data.toNat size) rel
      | .home pa leaf =>
        s.setCore fun c => { c.settleIn false pa size with memq := c.memq ++ [⟨kind, va, pa, size, data, 0, leaf, 0, 0, 0, rel, false, m.core.now, waits⟩] }

/-- STB, R154. -/
def execStb (f : FM) (s : State) : Out := gated (.stb f) s fun s => s.store (s.reg f.rt) (s.addrM f 1) 1 none

/-- STH, R154. -/
def execSth (f : FM) (s : State) : Out := gated (.sth f) s fun s => s.store (s.reg f.rt) (s.addrM f 2) 2 none

/-- STW, R154. -/
def execStw (f : FM) (s : State) : Out := gated (.stw f) s fun s => s.store (s.reg f.rt) (s.addrM f 4) 4 none

/-- STD, R154. -/
def execStd (f : FM) (s : State) : Out := gated (.std f) s fun s => s.store (s.reg f.rt) (s.addrM f 8) 8 none

/-- ST.rel, R155. -/
def execSt (f : FMO) (s : State) : Out :=
  gated (.st f) s fun s => s.store (s.reg f.rt) (s.reg f.ra) (moSize f.w) (some f.scope.toNat)

/-- The larger of two scopes, none being none. -/
def widest (a b : Option Nat) : Option Nat := releaseAt a b

/-- FENCE, R155, R157, R294, R295, R300. An acquire fence of scope QUAD or wider that orders AMOs still to be performed empties
L1 once they are. -/
def execFence (f : FMO) (s : State) : Out :=
  gated (.fence f) s fun s =>
    let sc := f.scope.toNat
    let acq (s : State) : State :=
      s.setCur fun m =>
        let m := if 1 ≤ sc then { m with mem := m.mem.emptyL1 } else m
        let c := m.core.settleLoads
        let waits := if f.ord = 3 then c.busy else c.memq.any fun o => o.kind == .amo
        { m with core := { c with
            refresh := c.refresh || decide (3 ≤ sc)
            acqAll := if waits then c.acqAll || f.ord == 3 else c.acqAll
            acqWait := if waits then widest c.acqWait (some sc) else c.acqWait } }
    let now := s.rd.core.now
    let rel (s : State) : State := s.setCore fun c => { c with
      relFence := releaseAt (some sc) c.relFence
      relSince := c.relSince.filter (fun w => !(w.1 == sc && w.2.1 == now.1)) ++ [(sc, now)] }
    match f.ord.toNat with
    | 1 => acq s
    | 2 => rel s
    | _ => rel (acq s)

/-! ## Atomics (R158, R302) -/

/-- The new value of an AMO, on n-bit operands: 0 ADD, 1 AND, 2 OR, 3 XOR, 4 MIN, 5 MAX, 6 MINU, 7 MAXU, 8 SWP, 9 CAS. -/
def amoNew (op n old b cmp : Nat) : Nat :=
  match op with
  | 0 => (old + b) % 2 ^ n
  | 1 => old &&& b
  | 2 => old ||| b
  | 3 => old ^^^ b
  | 4 => if signed n old ≤ signed n b then old else b
  | 5 => if signed n old ≤ signed n b then b else old
  | 6 => min old b
  | 7 => max old b
  | 8 => b
  | _ => if old = cmp then b else old

/-- An AMO (R158): performed at once on a scratchpad, else queued. -/
def State.amo (s : State) (f : FMX) (op : Nat) : State :=
  let m := s.rd
  let va := s.reg f.ra
  let size := moSize f.w
  let n := 8 * size
  let b := (s.reg f.rb).toNat % 2 ^ n
  let cmp := (s.reg f.rt).toNat % 2 ^ n
  match m.place va.toNat size .amo with
  | (.error c, u) => (s.applyUpd u).refuseAt c va
  | (.ok pl, u) =>
    let s := s.applyUpd u
    if m.core.fenced then s.stall
    else
      let rel := releaseAt none m.core.relFence
      let waits := m.core.waitsFor none
      let p := if f.rt = 0 then 0 else m.core.physS f.rt.toNat
      let queue (pad : Bool) (pa : Nat) (leaf : Word) : State :=
        ((s.setCore (·.settleIn pad pa size)).later f.rt none none).setCore fun c =>
          { c with memq := c.memq ++ [⟨.amo, va, pa, size, BitVec.ofNat 64 b, f.scope.toNat, leaf, op, BitVec.ofNat 64 cmp, p, rel, pad, m.core.now, waits⟩] }
      match pl with
      | .pad key =>
        if m.core.padOverdue key size then s.stall
        else if m.core.padWaits waits key size then queue true key 0
        else
          let old := bytesNat (m.quad.read key size)
          let poi := m.quad.poisoned key size
          let s' := (s.setCore (·.settleIn true key size)).setCur fun c =>
            padStore (settleRelease c rel) key (natBytes (amoNew op n old b cmp) size) rel
          if poi then s'.used.later f.rt (some (Config.freeWord s.freeIdx)) (some va)
          else s'.later f.rt (some (sextB n old)) none
      | .home pa leaf => queue false pa leaf

/-- AMOADD, R158. -/
def execAmoadd (f : FMX) (s : State) : Out := gated (.amoadd f) s fun s => s.amo f 0

/-- AMOAND, R158. -/
def execAmoand (f : FMX) (s : State) : Out := gated (.amoand f) s fun s => s.amo f 1

/-- AMOOR, R158. -/
def execAmoor (f : FMX) (s : State) : Out := gated (.amoor f) s fun s => s.amo f 2

/-- AMOXOR, R158. -/
def execAmoxor (f : FMX) (s : State) : Out := gated (.amoxor f) s fun s => s.amo f 3

/-- AMOMIN, R158. -/
def execAmomin (f : FMX) (s : State) : Out := gated (.amomin f) s fun s => s.amo f 4

/-- AMOMAX, R158. -/
def execAmomax (f : FMX) (s : State) : Out := gated (.amomax f) s fun s => s.amo f 5

/-- AMOMINU, R158. -/
def execAmominu (f : FMX) (s : State) : Out := gated (.amominu f) s fun s => s.amo f 6

/-- AMOMAXU, R158. -/
def execAmomaxu (f : FMX) (s : State) : Out := gated (.amomaxu f) s fun s => s.amo f 7

/-- AMOSWP, R158. -/
def execAmoswp (f : FMX) (s : State) : Out := gated (.amoswp f) s fun s => s.amo f 8

/-- AMOCAS, R158. -/
def execAmocas (f : FMX) (s : State) : Out := gated (.amocas f) s fun s => s.amo f 9

/-! ## What performs stores and AMOs -/

/-- Who a store of the context is for the caches: its device, and whether its page's policy lets the die L2 allocate. -/
def MemOp.req (c : Core) (o : MemOp) : Req := reqOf c.vmid.toNat o.leaf
def MemOp.comp (o : MemOp) : Bool := effComp (leafComp o.leaf) (o.pa / 128)

/-- A store leaves the core: the copies that L1, the instruction cache and, for a home on another die, the RDC hold take it
(R212, R214). -/
def passStore (m : Mach) (o : MemOp) (b : List Byte) : Mach :=
  let sec := o.pa / 128
  let val := placeBytes (o.pa % 128) b
  let mask := byteMask (o.pa % 128) b.length
  { m with mem := (m.mem.l1Copies o.comp sec val mask).rdcCopy o.comp sec val mask }

/-- A store applied at its home: bins first, then the home; it is then unacknowledged with the home's count (R212, R213,
R300). -/
def applyStore (m : Mach) (o : MemOp) (b : List Byte) : Mach :=
  let h := homeDie o.pa
  let mem := m.mem.storeAs (o.req m.core) o.comp o.pa b
  let mem := mem.l1Copies o.comp (o.pa / 128) (placeBytes (o.pa % 128) b) (byteMask (o.pa % 128) b.length)
  { m with mem := mem, coll := m.coll.afterWrite m.mem mem o.pa b.length, core := { m.core with unacked := m.core.unacked ++ [(h, mem.hcOf h, o.pa / 128, o.after.2)] } }

/-- Stores on their way that pass the RDC toward a home are applied there, oldest first (R301). -/
def flushTransit (m : Mach) (p : MemOp → Bool) : Mach :=
  (m.core.transit.filter p).foldl (fun m o => applyStore m o o.bytes)
    { m with core := { m.core with transit := m.core.transit.filter fun o => !p o } }

/-- A store leaves the core and is applied, in one: after those toward the same home that passed the RDC before it (R301). -/
def performStore (m : Mach) (o : MemOp) (b : List Byte) : Mach :=
  let m := if m.core.remote o then flushTransit m fun x => homeDie x.pa == homeDie o.pa else m
  applyStore (passStore m o b) o b

/-- Keep the stamp of a release of PKG or SYS with its sector, whose clock keeps the entrywise larger of old and new (R297,
R300; DEDUCED, log 9). -/
def keepStamp (m : Mach) (o : MemOp) (stamp : List Nat) : Mach :=
  match o.release with
  | some sc =>
    if 3 ≤ sc then
      let clk := maxClocks (spGet [] m.mem.relClk (o.pa / 128)) stamp
      { m with mem := { m.mem with relClk := spSet [] m.mem.relClk (o.pa / 128) clk } }
    else m
  | none => m

/-- Take the head of the queue away. -/
def popMemq (m : Mach) : Mach := { m with core := { m.core with memq := m.core.memq.tail } }

/-- An acquire fence whose accesses are all performed is no longer waited for; L1 is emptied at QUAD or wider (R157). -/
def settleAcquire (m : Mach) : Mach :=
  match m.core.acqWait with
  | some sc =>
    if m.core.acqBusy then m
    else { m with core := { m.core with acqWait := none, acqAll := false }, mem := if 1 ≤ sc then m.mem.emptyL1 else m.mem }
  | none => m

/-- The oldest plain store of the queue leaves the core toward its home; one to the scratchpad is performed (R157, R212). -/
def sendStore (m : Mach) : Mach :=
  match m.core.memq with
  | o :: _ =>
    if o.kind ≠ .store then m
    else if o.pad then settleAcquire (padStore (popMemq m) o.pa o.bytes none)
    else
      let m := passStore (popMemq m) o o.bytes
      { m with core := { m.core with transit := m.core.transit ++ [o] } }
  | [] => m

/-- The operation may be performed as a release: what it waits for is acknowledged, and no byte of it is on its way (R157,
R212, R294, R295). -/
def Core.mayRelease (c : Core) (o : MemOp) : Bool :=
  c.releases o.waits && !(c.transit.any fun x => x.overlaps o.pad o.pa o.size)

/-- A queued store or AMO that has no byte in common with those before it, and where it is a release may be performed, overtakes
them (R294). -/
def overtake (m : Mach) (k : Nat) : Mach :=
  match m.core.memq[k]? with
  | some o =>
    if (o.waits = [] ∨ m.core.mayRelease o) ∧ !((m.core.memq.take k).any fun x => x.overlaps o.pad o.pa o.size) then
      { m with core := { m.core with memq := o :: (m.core.memq.take k ++ m.core.memq.drop (k + 1)) } }
    else m
  | none => m

/-- The bytes another agent's write leaves: an AMO's are computed from what it finds, in one step (R302). -/
def extResult (w : ExtWrite) (old : List Byte) : List Byte :=
  match w.amo with
  | some (op, cmp) => natBytes (amoNew op (8 * w.bytes.length) (bytesNat old) (bytesNat w.bytes) cmp) w.bytes.length
  | none => w.bytes

/-- The release clock that a write of another agent leaves with its sector: where it releases, the entrywise larger of the old
one and its stamp (R300; DEDUCED, log 9). -/
def extClock (w : ExtWrite) (old : List Nat) : List Nat :=
  match w.stamp with
  | some st => maxClocks old st
  | none => old

/-- The policy that a write of another agent comes with (R211). -/
def extReq (w : ExtWrite) : Req := ⟨w.vmid, w.policy != 3, w.policy == 2⟩

/-- The clock of a die as a stamp. -/
def dieClock (m : Mach) (d : Nat) : List Nat := (List.range 9).map (m.mem.vcOf d)

/-- Writes of the followed context that are applied are acknowledged to its die (R300). -/
def ackDie (m : Mach) : Mach :=
  { m with mem := m.core.unacked.foldl (fun k u => k.raiseVc m.core.die u.1 u.2.1) m.mem }

/-- A write of another agent at its home, or at a scratchpad of the quad. One from the followed die to another's home passes
the RDC after the stores that passed it before, and takes its copy along; a release of PKG or SYS from there waits for every
write that the die has sent toward another's home, and its stamp is no less than the die's clock. Its acknowledgement raises
its die's clock (R214, R293, R300 to R302). -/
def extWrite (m : Mach) (w : ExtWrite) : Mach :=
  let near := w.die == some m.core.die
  let m := if near && w.stamp.isSome then ackDie (flushTransit m m.core.remote) else m
  let w := match w.die, w.stamp with
    | some d, some st => { w with stamp := some (maxClocks st (dieClock m d)) }
    | _, _ => w
  if w.pad then
    let q := m.quad.write w.pa (extResult w (m.quad.read w.pa w.bytes.length))
    { m with quad := q, mem := { m.mem with spClk := spSet [] m.mem.spClk (w.pa / 128) (extClock w (spGet [] m.mem.spClk (w.pa / 128))) } }
  else
    let h := homeDie w.pa
    let here := near && h != m.core.die
    let m := if here then flushTransit m fun o => homeDie o.pa == h else m
    let comp := effComp w.comp (w.pa / 128)
    let (mem, old, _) := m.mem.load comp w.pa w.bytes.length
    let b := extResult w old
    let mem := mem.storeAs (extReq w) comp w.pa b
    let mem := if here then mem.rdcCopy comp (w.pa / 128) (placeBytes (w.pa % 128) b) (byteMask (w.pa % 128) b.length) else mem
    let mem := match w.die with
      | some d => mem.raiseVc d h (mem.hcOf h)
      | none => mem
    { m with
      mem := { mem with relClk := spSet [] mem.relClk (w.pa / 128) (extClock w (spGet [] mem.relClk (w.pa / 128))) }
      coll := m.coll.afterWrite m.mem mem w.pa b.length }

/-- Raise a die's clock to a stamp. -/
def raiseDie (m : Mach) (d : Nat) (clk : List Nat) : Mach :=
  { m with mem := ((List.range 9).zip clk).foldl (fun k x => k.raiseVc d x.1 x.2) m.mem }

/-- The context's oldest store on its way, else the oldest of its queue, is applied at its home. -/
def ownWrite (m : Mach) : Mach :=
  match m.core.transit with
  | o :: t => applyStore { m with core := { m.core with transit := t } } o o.bytes
  | [] => match m.core.memq with
    | o :: _ => if o.kind = .store ∧ !o.pad then performStore (popMemq m) o o.bytes
      else if o.kind = .store then settleAcquire (padStore (popMemq m) o.pa o.bytes none) else m
    | [] => m

/-- HOME_WRITE_APPLY, R300: the context's own write; another agent's; or what another context of a die does to that die's
clock, an acquire load of scope PKG or SYS at an address or an acquire fence. -/
def execHomeWriteApply (w : HomeRef) (s : State) : Out :=
  .next (s.setCur fun m =>
    match w with
    | .own => ownWrite m
    | .write w => extWrite m w
    | .acquire die pa =>
      let h := homeDie pa
      raiseDie (raiseDie m die (spGet [] m.mem.relClk (pa / 128))) die ((List.range 9).map fun k => if k = h then m.mem.hcOf h else 0)
    | .fence die => raiseDie m die ((List.range 9).map m.mem.hcOf))

/-- RELEASE_STORE_PERFORM, R157: once every earlier write is acknowledged. -/
def execReleaseStorePerform (s : State) : Out :=
  .next (s.setCur fun m =>
    match m.core.memq with
    | o :: _ =>
      if o.kind = .release ∧ m.core.mayRelease o then
        let st := stampOf m
        let m := { m with core := m.core.settleLoads }
        if o.pad then settleAcquire (padStore (popMemq m) o.pa o.bytes o.release)
        else keepStamp (performStore (popMemq m) o o.bytes) o st
      else m
    | [] => m)

/-- STORE_ACKNOWLEDGE, R212, R300. -/
def execStoreAcknowledge (s : State) : Out :=
  .next (s.setCur fun m =>
    match m.core.unacked with
    | (h, n, _) :: t =>
      settleAcquire { m with
        core := { (m.core.raiseOc h n) with unacked := t }
        mem := m.mem.raiseVc m.core.die h n }
    | [] => m)

/-- Fill in an awaited result. -/
def fillResult (l : List Result) (reg : Nat) (v : Word) (poison : Option Word) : List Result :=
  l.map fun r => if r.reg = reg ∧ r.val = none then { r with val := some v, poison := poison } else r

/-- AMO_PERFORM, R158, R302: at the L1 copy for a CORE-scope AMO on a page that L1 holds, else at the home; one atomic
step. It comes after the context's earlier stores to its bytes, and one that acts as a release waits for the acknowledgements
first. -/
def execAmoPerform (s : State) : Out :=
  match s.cur.core.memq with
  | o :: _ =>
    if o.kind = .amo ∧ s.cur.core.mayRelease o then
      let m := settleRelease s.cur o.release
      let n := 8 * o.size
      let b := o.data.toNat
      if o.pad then
        let old := bytesNat (m.quad.read o.pa o.size)
        let poi := m.quad.poisoned o.pa o.size
        let m := padStore (popMemq m) o.pa (natBytes (amoNew o.amo n old b o.cmp.toNat) o.size) o.release
        let v := if poi then Config.freeWord s.freeIdx else sextB n old
        .next { (if poi then s.used else s) with
          cur := settleAcquire { m with core := { m.core with sb := fillResult m.core.sb o.reg v (if poi then some o.va else none) } } }
      else
        let sec := o.pa / 128
        let m := { m with mem := m.mem.touch o.pa o.size }
        let inL1 := if o.scope = 0 ∧ leafCp o.leaf = 0 then spGet none m.mem.l1 (ckey o.comp sec) else none
        let (row, poi) := match inL1 with
          | some k => (k.data, k.poison)
          | none => m.mem.homeRead o.comp sec
        let old := bytesNat (((rowBytes row).drop (o.pa % 128)).take o.size)
        let st := stampOf m
        let h := homeDie o.pa
        let m := performStore (popMemq m) o (natBytes (amoNew o.amo n old b o.cmp.toNat) o.size)
        let m := keepStamp m o st
        let v := if poi then Config.freeWord s.freeIdx else sextB n old
        let c := if inL1.isSome then m.core else m.core.raiseOc h (m.mem.hcOf h)
        .next { (if poi then s.used else s) with
          cur := settleAcquire { m with core := { c with sb := fillResult c.sb o.reg v (if poi then some o.va else none) } } }
    else .next s
  | [] => .next s

/-- ACQUIRE_FENCE_REFRESH, R300: once earlier accesses that the fence waits for are performed. -/
def execAcquireFenceRefresh (s : State) : Out :=
  .next (s.setCur fun m =>
    if m.core.refresh ∧ !(m.core.acqWait.isSome && m.core.acqBusy) then
      let m := mergeClocks m ((List.range 9).map m.mem.hcOf)
      { m with core := { m.core with refresh := false }, mem := m.mem.emptyL1 }
    else m)

/-- Write a scoreboarded result that has arrived; poison leaves its mark (R64, R156). -/
def writeResult (c : Core) (r : Result) (v : Word) : Core :=
  let k := c.putS r.reg v
  match r.poison with
  | some a => { k with marks := spSet none k.marks r.reg (some ⟨false, a⟩) }
  | none => k

/-- SCOREBOARD_RESULT_WRITE, R64, R137. -/
def execScoreboardResultWrite (reg : Nat) (s : State) : Out :=
  .next (s.setCore fun c =>
    match c.sb.find? fun r => r.reg == reg && r.val.isSome with
    | some r => writeResult { c with sb := c.sb.filter (· != r) } r (r.val.getD 0)
    | none => c)

/-! ## Cache fills and evictions (R210 to R216, R223) -/

/-- A fill of a first-level cache: through the RDC copy where it is not stale; the reader's clock takes the line's tag
(R212, R300). -/
def fillFirst (m : Mach) (fetch : Bool) (key : Nat) (fresh : Sector) : Mach :=
  let h := homeDie (key / 2 * 128)
  let d := m.core.die
  let k := match (if h ≠ d then spGet none m.mem.rdc key else none) with
    | some k => if m.mem.vcOf d h ≤ k.tag then k else fresh
    | none => fresh
  if (spGet none (m.mem.first fetch) key).isSome then m
  else
    { m with
      core := m.core.raiseOc h k.tag
      mem := if fetch then { m.mem with icache := cachePut icacheLines m.mem.icache key k }
        else { m.mem with l1 := cachePut l1Lines m.mem.l1 key k } }

/-- LINE_FILL, R211, R214 to R216, R300, R301: a fill that a miss asked for, or another agent's. The RDC fills a line only
once the write-throughs of it have been acknowledged; its tag is the home's counter carried with the fill, by R300 (DESIGN
CHOICE, log 21: R214 names the die's own clock entry). The memory-side cache allocates in the ways of the class and device
that asked. A line whose home die's store layer is down is filled nowhere above the memory side (R422). -/
def execLineFill (level : CacheLevel) (key : Nat) (s : State) : Out :=
  .next (s.setCur fun m =>
    let sec := key / 2
    let comp := key % 2 == 1
    let h := homeDie (sec * 128)
    let asked := m.mem.fills.find? fun r => r.level == level && r.key == key
    let r : FillReq := asked.getD ⟨level, key, m.core.vmid.toNat, false, false⟩
    let down := m.mem.down.contains h
    let sent := m.core.transit.any (fun o => o.pa / 512 == sec / 4) || m.core.unacked.any fun u => u.2.2.1 / 4 == sec / 4
    if level = .rdc ∧ sent then m
    else if down ∧ level ≠ .msc then { m with mem := { m.mem with fills := m.mem.fills.filter fun r => !(r.level == level && r.key == key) } }
    else
      let mem := { ((m.mem.touch (sec * 128) 128).used comp sec) with fills := m.mem.fills.filter fun r => !(r.level == level && r.key == key) }
      let home := mem.homeRead comp sec
      let fresh : Sector := ⟨home.1, false, mem.hcOf h, home.2, r.dev, 0, r.late⟩
      let m := { m with mem := mem }
      match level with
      | .l1 => fillFirst m false key fresh
      | .icache => fillFirst m true key fresh
      | .l2 =>
        if (spGet none mem.l2 key).isSome then m
        else { m with mem := (mem.l2Put key { fresh with tag := 0 }).getD mem }
      | .rdc =>
        { m with
          core := if asked.isSome then m.core.raiseOc h fresh.tag else m.core
          mem := mem.rdcPut key fresh }
      | .msc =>
        let side := mem.sideRead comp sec
        if (spGet none mem.msc key).isSome then m
        else { m with mem := (mem.mscPut key (mem.wayMask r.dev (if r.weights then 50 else 44)) ⟨side.1, false, 0, side.2, r.dev, 0, r.late⟩).getD mem })

/-- Order in which a store layer that has tripped writes back: sectors with a release clock first, then oldest write
first (R422). -/
def writesBackBefore (m : Mem) (a b : Nat × Option Sector) : Bool :=
  let rel (e : Nat × Option Sector) : Nat := if spGet [] m.relClk (e.1 / 2) = [] then 1 else 0
  let age (e : Nat × Option Sector) : Nat := match e.2 with
    | some k => k.tag
    | none => 0
  decide (rel a < rel b ∨ (rel a = rel b ∧ age a < age b))

def dirtyIn (die : Nat) (e : Nat × Option Sector) : Bool := homeDie (e.1 / 2 * 128) == die && match e.2 with
  | some k => k.dirty
  | none => false

/-- The sector may leave the L2 now. -/
def mayLeave (m : Mem) (key : Nat) : Bool :=
  let die := homeDie (key / 2 * 128)
  let e := (key, spGet none m.l2 key)
  !m.down.contains die || !dirtyIn die e || !(m.l2.any fun b => dirtyIn die b && writesBackBefore m b e)

/-- L2_EVICTION, R213, R422. -/
def execL2Eviction (key : Nat) (s : State) : Out := .next (s.setMem fun m => if mayLeave m key then evictL2 m key else m)

/-- MSC_EVICTION, R223. -/
def execMscEviction (key : Nat) (s : State) : Out := .next (s.setMem (evictMsc · key))

/-- The pages that share a walk: the same 64 KiB page, or all that the page of its leaf covers (R401). -/
def sharesWalk (vmid a : Nat) (u : Option TlbUpd) (k : Miss) : Bool :=
  k.vmid == vmid && (k.page == a / 65536 || match u with
    | some u => match u.ent with
      | some e => k.page * 65536 / pageSize e.level == e.page
      | none => false
    | none => false)

/-- TABLE_WALK, R396 to R401: a walk installs what it finds; each miss that waits in the pool and shares it receives the result,
checked against its own access. -/
def execTableWalk (vmid : Nat) (va : Word) (acc : Access) (s : State) : Out :=
  let a := va.toNat
  if 2 ^ 52 ≤ a || inWindow a then .next s
  else
    let (_, u) := walkFor s.cur .core vmid a acc
    let answer (k : Miss) : Miss :=
      if k.walked || !sharesWalk vmid a u k then k
      else match walkFor s.cur .core vmid (k.page * 65536) k.acc with
        | (.fault c, _) => { k with cause := some c }
        | (.ok leaf _, w) => if (u.bind (·.ent)).isNone || (setsD k.acc && !setsD acc) then k else { k with leaf := (w.bind (·.ent)).map fun e => (leaf, e.level) }
    .next ((s.applyUpd u).setCur fun m => { m with pool := m.pool.map answer })

/-- Cached translations left by an invalidation (R375). -/
def keepTlb (mode : Nat) (va : Word) (vmid : Nat) (e : TlbEnt) : Bool :=
  match mode with
  | 0 => !((e.vmid == some vmid || e.vmid == none) && va.toNat / pageSize e.level == e.page)
  | 1 => e.vmid != some vmid && e.vmid != none
  | _ => false

/-- Pointer entries left by an invalidation: those of other devices, or of other addresses. -/
def keepPtr (mode : Nat) (va : Word) (vmid : Nat) (p : PtrEnt) : Bool :=
  match mode with
  | 0 => !(p.vmid == vmid && p.pre == tableSpan p.level va.toNat)
  | 1 => p.vmid != vmid
  | _ => false

/-- Drop what an invalidation names from every TLB, and the walk pool's results (R375). -/
def dropTlbs (m : Mach) (mode : Nat) (va : Word) (vmid : Nat) : Mach :=
  { m with
    core := m.core.settleLoads
    tlb := m.tlb.filter (keepTlb mode va vmid)
    l2tlb := m.l2tlb.filter fun e => keepTlb mode va vmid e.2
    ptrs := m.ptrs.filter (keepPtr mode va vmid)
    pool := [] }

/-- Accesses that a removed translation may still serve are under way: the context's stores and update pairs, or operations of
the followed Oasis core that have bound an address (R402). -/
def Mach.boundWork (m : Mach) : Bool :=
  m.core.busy || m.core.eng.any (fun o => o.started && !o.pairs.isEmpty) || m.oas.ops.any fun o => o.unit == 3 || o.unit == 4 || o.unit == 6

/-- The invalidations of other cores take effect (R375). -/
def dropPeers (m : Mach) : Mach :=
  { m.peerInvs.foldl (fun m i => dropTlbs m i.1 i.2.1 i.2.2) m with peerInvs := [] }

/-- TLBINV_COMPLETE, R375, R402: once no access that a removed translation may serve is under way, the followed context's
invalidation takes effect, and other cores' that wait. -/
def execTlbinvComplete (s : State) : Out :=
  .next (s.setCur fun m =>
    if m.boundWork then m
    else
      let m := dropPeers m
      match m.core.tlbinv with
      | some (mode, va, vmid, reg) =>
        let m := dropTlbs m mode va vmid
        { m with core := { m.core with tlbinv := none, sb := fillResult m.core.sb reg 0 none } }
      | none => m)

end Sys2Proof.Machine
end

