-- ==== Sys2Proof/Machine/Barrier.lean ====
section
/-! DEFINITION. Barrier objects (R159, R160, R252) and QPUSH (R38, R39, R161, R378, R379). -/

namespace Sys2Proof.Machine

/-! ## The object: COUNT, EXPECT, PHASE, NEXTX, 32 bits each from the lowest address -/

def Quad.word (q : Quad) (key : Nat) : Nat := bytesNat (q.read key 4)
def Quad.setWord (q : Quad) (key x : Nat) : Quad := q.write key (natBytes x 4)

/-- One cycle of an object: an initial value where a BINIT arrived, arrivals and landed bytes, drops, and the one
completion check (R160). -/
def objectStep (q : Quad) (key : Nat) (binit : Option Nat) (arrivals drops : Nat) : Quad :=
  let count := match binit with
    | some _ => 0
    | none => q.word key
  let expect := binit.getD (q.word (key + 4))
  let phase := q.word (key + 8)
  let nextx := binit.getD (q.word (key + 12))
  let count := (count + arrivals) % 2 ^ 32
  let nextx := nextx - drops
  if 0 < expect ∧ expect ≤ count then
    (((q.setWord key (count - expect)).setWord (key + 4) nextx).setWord (key + 8) (phase + 1)).setWord (key + 12) nextx
  else (((q.setWord key count).setWord (key + 4) expect).setWord (key + 8) phase).setWord (key + 12) nextx

/-- Barrier operations of one cycle at one object: a second BINIT waits for the next cycle, lowest core first. Each is a
rank, a kind and an operand. -/
def objectCycle (q : Quad) (key : Nat) (ops : List (Nat × Nat × Nat)) : Quad :=
  let inits := ops.filter fun o => o.2.1 == 0
  let first := (inits.map (·.1)).foldl min 4
  let b := (inits.find? (·.1 == first)).map (·.2.2)
  let arr := (ops.map fun o => match o.2.1 with
    | 0 => 0
    | 3 => o.2.2
    | _ => 1).foldl (· + ·) 0
  let drops := (ops.filter (·.2.1 == 2)).length
  objectStep q key (b.map (· % 2 ^ 32)) arr drops

/-- Kind of a BINIT that has lost to another in this cycle and waits for the next. -/
def waitingInit : Nat := 4

/-- The quad peers' operations of this cycle at an object. -/
def Mach.peersAt (m : Mach) (key : Nat) : List (Nat × Nat × Nat) :=
  (m.peerOps.filter fun o => o.2.1 == key && o.2.2.1 != waitingInit).map fun o => (o.1, o.2.2.1, o.2.2.2)

/-- Run an object's cycle with the context's own operations; the BINITs that must wait stay. -/
def barrierCycle (m : Mach) (key : Nat) (own : List (Nat × Nat × Nat)) : Mach :=
  let ops := m.peersAt key ++ own
  let first := ((ops.filter fun o => o.2.1 == 0).map (·.1)).foldl min 4
  let stay (o : Nat × Nat × Nat × Nat) : Option (Nat × Nat × Nat × Nat) :=
    if o.2.1 ≠ key ∨ o.2.2.1 = waitingInit then some o
    else if o.2.2.1 = 0 ∧ o.1 ≠ first then some (o.1, o.2.1, waitingInit, o.2.2.2)
    else none
  { m with quad := objectCycle m.quad key ops, peerOps := m.peerOps.filterMap stay }

/-- The rest of a cycle: objects that peers alone act on; what waits for the next cycle may be performed in that. -/
def barrierRest (m : Mach) : Mach :=
  let keys := ((m.peerOps.filter fun o => o.2.2.1 != waitingInit).map (·.2.1)).eraseDups
  let m := keys.foldl (fun m k => barrierCycle m k []) m
  { m with peerOps := m.peerOps.map fun o => if o.2.2.1 = waitingInit then (o.1, o.2.1, 0, o.2.2.2) else o }

/-- Faults of a barrier address, in the order of R159. -/
def barrierFault (m : Mach) (va : Nat) : Option Nat :=
  if !inWindow va then some 0x40
  else if va % 16 ≠ 0 then some 0x30
  else padFault m (va - qbase)

/-- A barrier operation at an address that has no fault; a release waits until earlier writes are acknowledged at QUAD and
earlier pushes have landed; loads of the object before it are performed (R157, R212, R294; log 9). -/
def State.barrier (s : State) (va : Word) (release : Bool) (act : State → Nat → State) : State :=
  let m := s.rd
  match barrierFault m va.toNat with
  | some c => s.raise c va
  | none => 
    let key := va.toNat - qbase
    if m.core.fenced || (release && !m.core.settled 1) || m.core.memq.any (·.pad) || m.core.padOverdue key 16 then s.stall
    else act (s.setCore fun c => if release then c.settleLoads else c.settleIn true key 16) key

/-- BINIT, R159, R160: deferred behind the BINIT of a lower core in the same cycle. -/
def execBinit (f : FR) (s : State) : Out :=
  gated (.binit f) s fun s =>
    let x := (s.opB f).toNat % 2 ^ 32
    s.barrier (s.reg f.ra) false fun s key =>
      let c := s.rd.core
      if (s.cur.peersAt key).any fun o => o.2.1 == 0 && decide (o.1 < c.rank) then
        s.setCore fun k => { k with binit := some (key, BitVec.ofNat 32 x) }
      else s.setCur fun m => barrierCycle m key [(c.rank, 0, x)]

/-- BARR, R159: an arrival, and PHASE as it was before the cycle's check. -/
def execBarr (f : FR) (s : State) : Out :=
  gated (.barr f) s fun s =>
    s.barrier (s.reg f.ra) true fun s key =>
      (s.later f.rd (some (BitVec.ofNat 64 (s.rd.quad.word (key + 8)))) none).setCur fun m =>
        barrierCycle m key [(s.rd.core.rank, 1, 0)]

/-- BDROP, R159: an arrival that also lowers NEXTX. -/
def execBdrop (f : FR) (s : State) : Out :=
  gated (.bdrop f) s fun s =>
    s.barrier (s.reg f.ra) true fun s key =>
      (s.later f.rd (some (BitVec.ofNat 64 (s.rd.quad.word (key + 8)))) none).setCur fun m =>
        barrierCycle m key [(s.rd.core.rank, 2, 0)]

/-- BWAIT, R159: an acquire at QUAD once PHASE has moved. -/
def execBwait (f : FR) (s : State) : Out :=
  gated (.bwait f) s fun s =>
    let x := (s.opB f).toNat % 2 ^ 32
    s.barrier (s.reg f.ra) false fun s key =>
      if s.rd.quad.word (key + 8) = x then s.stall else s.setCur fun m => acquireLoad m 1 [] none

/-! ## Reads and writes through a device's tables by the dispatcher (R379, R397) -/

/-- One piece of a read, within a 64 KiB page; the dispatcher's translations are those of die 4 (R13, R400). -/
def Mach.vread1 (m : Mach) (vmid va n : Nat) (acc : Access) : Mach × Option (List Byte) :=
  match m.translate vmid va acc (.die 4) with
  | (.ok leaf pa, u) =>
    let m := m.applyUpd u
    let (mem, b, _) := m.mem.load (effComp (leafComp leaf) (pa / 128)) pa n
    ({ m with mem := mem }, some b)
  | (.fault _, _) => (m, none)

/-- Bytes at a device's virtual address, over two pages at most; none where a page does not allow the access. -/
def Mach.vread (m : Mach) (vmid va n : Nat) : Mach × Option (List Byte) :=
  let n1 := min n (65536 - va % 65536)
  match m.vread1 vmid va n1 .read with
  | (m, some b) =>
    if n1 = n then (m, some b)
    else match m.vread1 vmid (va + n1) (n - n1) .read with
      | (m, some b2) => (m, some (b ++ b2))
      | (m, none) => (m, none)
  | (m, none) => (m, none)

def Mach.vwrite1 (m : Mach) (vmid va : Nat) (b : List Byte) (acc : Access) : Mach × Bool :=
  match m.translate vmid va acc (.die 4) with
  | (.ok leaf pa, u) =>
    let m := m.applyUpd u
    ({ m with mem := m.mem.storeAs (reqOf vmid leaf) (effComp (leafComp leaf) (pa / 128)) pa b }, true)
  | (.fault _, _) => (m, false)

/-- Write bytes at a device's virtual address, over two pages at most. -/
def Mach.vwrite (m : Mach) (vmid va : Nat) (b : List Byte) (acc : Access) : Mach × Bool :=
  let n1 := min b.length (65536 - va % 65536)
  let (m, ok) := m.vwrite1 vmid va (b.take n1) acc
  if n1 = b.length ∨ !ok then (m, ok) else m.vwrite1 vmid (va + n1) (b.drop n1) acc

/-- Virtual address of a queue's ring header, where the queue is enabled and present (R378, R404). -/
def Mach.ringAt (m : Mach) (vmid q : Nat) (dev : Bool) : Mach × Option Nat :=
  if m.mem.vdev vmid (if dev then 80 else 72) 8 / 2 ^ q % 2 = 0 then (m, none)
  else
    match m.vread vmid (m.mem.vdev vmid (if dev then 64 else 56) 8 + 8 * q) 8 with
    | (m, some b) => (m, if bytesNat b = 0 then none else some (bytesNat b))
    | (m, none) => (m, none)

/-- Address of a packet's slot in a ring (R378). -/
def slotAt (hdr log2n i : Nat) : Nat := hdr + 64 + 128 * (i % 2 ^ log2n)

/-! ## QPUSH -/

/-- The packet's bytes, 128 at a place, as the context sees them. The spec names no result for poisoned ones: the packet takes
their bytes, and no poison goes with them (DESIGN CHOICE, log 60). -/
def packetBytes (m : Mach) (pl : Place) : List Byte :=
  match pl with
  | .pad key => overlay m.core.stores true key (m.quad.read key 128)
  | .home pa leaf => overlay m.core.stores false pa (m.mem.load (effComp (leafComp leaf) (pa / 128)) pa 128).2.1

/-- The bins that the reading of the packet applies first (R316). -/
def packetTouch (m : Mach) (pl : Place) : Mach := match pl with
  | .pad _ => m
  | .home pa _ => { m with mem := m.mem.touch pa 128 }

/-- How far a count lies beyond HEAD (R378). -/
def ahead (head n : Nat) : Nat := (n + 2 ^ 64 - head) % 2 ^ 64

/-- Packets arrive. What the queue's earlier arrivals announced beyond these, or not beyond HEAD, was of a ring that has since
been initialised again. -/
def Disp.arrive (d : Disp) (b : Bell) (head : Nat) : Disp :=
  let stands (x : Bell) : Bool :=
    !(x.vmid == b.vmid && x.queue == b.queue) || (ahead head x.value != 0 && decide (ahead head x.value < ahead head b.value))
  { d with bells := d.bells.filter stands ++ [b] }

/-- Append a packet of a launch to a device-side queue; it arrives at once (R161, R379, R380). -/
def appendPacket (m : Mach) (vmid parent hdr q : Nat) (h packet : List Byte) : Mach :=
  let tail := field h 0 8
  let m := (m.vwrite vmid (slotAt hdr (field h 16 1) tail) packet .read).1
  let m := (m.vwrite vmid hdr (natBytes (tail + 1) 8) .read).1
  { m with disp := m.disp.arrive ⟨vmid, 64 + q, hdr, m.ftime, parent, (tail + 1) % 2 ^ 64⟩ (field h 8 8) }

/-- A ring whose header this is has no room. -/
def ringFull (h : List Byte) : Bool := decide (2 ^ field h 16 1 ≤ ahead (field h 8 8) (field h 0 8))

/-- QPUSH, R39, R161: a release at PKG; it waits while the queue is full. The packet is read at its home. Translations of the
queue's table and ring stand as any walk's do (R398). -/
def execQpush (f : FR) (s : State) : Out :=
  gated (.qpush f) s fun s =>
    let m := s.rd
    let c := m.core
    let vmid := c.vmid.toNat
    let va := s.reg f.ra
    let b := s.opB f
    if 63 < b.toNat then s.raise 0x41 b
    else
      let q := b.toNat
      let s := s.both fun k => (k.ringAt vmid q true).1
      match (m.ringAt vmid q true).2 with
      | none => s.raise 0x41 b
      | some hdr =>
        match m.place va.toNat 128 .read with
        | (.error k, u) => (s.applyUpd u).refuseAt k va
        | (.ok pl, u) =>
          let s := (s.applyUpd u).both fun k => (k.vread vmid hdr 17).1
          match (m.vread vmid hdr 17).2 with
          | none => s.raise 0x41 b
          | some h =>
            if ringFull h ∨ !c.settled 3 ∨ c.fenced then s.stall
            else
              ((s.setCore (·.settleLoads)).later f.rd (some (BitVec.ofNat 64 (field h 0 8))) none).setCur fun k =>
                appendPacket (packetTouch k pl) vmid c.launch hdr q h (packetBytes m pl)

end Sys2Proof.Machine
end

