-- ==== Sys2Proof/Machine/Crypto.lean ====
section
/-! DEFINITION. The algorithms that R97, R412, R413, R416 and R417 name: SHA-512 (FIPS 180-4), HKDF over it (RFC 5869),
Ed25519 (RFC 8032), X25519 (RFC 7748) and AES-256-GCM (FIPS 197, SP 800-38D); log 14. -/

namespace Sys2Proof.Machine

/-- A number of n bytes, most significant first, and its value. -/
def beBytes (n x : Nat) : List Byte := (natBytes x n).reverse
def beNat (b : List Byte) : Nat := bytesNat b.reverse

/-- Cut a list into pieces of n; the fuel is how many. -/
def slices {α : Type} (n : Nat) : Nat → List α → List (List α)
  | 0, _ => []
  | fuel + 1, l => if l.isEmpty then [] else l.take n :: slices n fuel (l.drop n)

/-! ## SHA-512 -/

/-- The whole part of 2⁶⁴ times the k-th root of p, bit by bit from the one of this weight down. -/
def rootUp (k p : Nat) : Nat → Nat → Nat
  | 0, x => x
  | n + 1, x => rootUp k p n (if (x + 2 ^ n) ^ k ≤ p * 2 ^ (64 * k) then x + 2 ^ n else x)

/-- The first 64 bits after the point of the k-th root of p. -/
def rootFraction (k p : Nat) : Word := BitVec.ofNat 64 (rootUp k p 70 0)

/-- The primes below 410: there are 80. -/
def shaPrimes : List Nat := (List.range 410).filter fun n => decide (2 ≤ n) && (List.range 19).all fun d => decide (d + 2 = n) || decide (n % (d + 2) ≠ 0)

/-- The constants of the rounds, and what the chaining starts from, as FIPS 180-4 defines them. -/
def shaK : List Word := shaPrimes.map (rootFraction 3)
def shaStart : List Word := (shaPrimes.take 8).map (rootFraction 2)

def shaSmall (x : Word) (a b c : Nat) : Word := x.rotateRight a ^^^ x.rotateRight b ^^^ x >>> c
def shaBig (x : Word) (a b c : Nat) : Word := x.rotateRight a ^^^ x.rotateRight b ^^^ x.rotateRight c

/-- The message schedule, newest word first; the fuel is how many words are still to come. -/
def shaSchedule : Nat → List Word → List Word
  | 0, w => w
  | fuel + 1, w =>
    shaSchedule fuel ((shaSmall (w.getD 1 0) 19 61 6 + w.getD 6 0 + shaSmall (w.getD 14 0) 1 8 7 + w.getD 15 0) :: w)

/-- One round on the working variables a to h, with the sum of its constant and its schedule word. -/
def shaRound (v : List Word) (k : Word) : List Word :=
  match v with
  | [a, b, c, d, e, f, g, h] =>
    let t := h + shaBig e 14 18 41 + ((e &&& f) ^^^ (~~~e &&& g)) + k
    [t + shaBig a 28 34 39 + ((a &&& b) ^^^ (a &&& c) ^^^ (b &&& c)), a, b, c, d + t, e, f, g]
  | _ => v

def shaBlock (v : List Word) (block : List Byte) : List Word :=
  let w := (shaSchedule 64 (((slices 8 16 block).map fun b => BitVec.ofNat 64 (beNat b)).reverse)).reverse
  List.zipWith (· + ·) v (((shaK.zip w).map fun x => x.1 + x.2).foldl shaRound v)

/-- The 64-byte digest of a message. -/
def sha512 (msg : List Byte) : List Byte :=
  let n := msg.length
  let padded := msg ++ 0x80 :: List.replicate ((239 - n % 128) % 128) 0 ++ beBytes 16 (8 * n)
  ((slices 128 (padded.length / 128) padded).foldl shaBlock shaStart).flatMap fun w => beBytes 8 w.toNat

/-! ## HMAC and HKDF -/

def hmac (key msg : List Byte) : List Byte :=
  let k := if 128 < key.length then sha512 key else key
  let k := k ++ List.replicate (128 - k.length) 0
  sha512 (k.map (· ^^^ 0x5C) ++ sha512 (k.map (· ^^^ 0x36) ++ msg))

def hkdfExtract (salt ikm : List Byte) : List Byte := hmac salt ikm

/-- The first n bytes, of at most 64, that HKDF-Expand gives. -/
def hkdfExpand (prk info : List Byte) (n : Nat) : List Byte := (hmac prk (info ++ [1])).take n

/-! ## The field of 2²⁵⁵ − 19 -/

def fieldP : Nat := 2 ^ 255 - 19

def fadd (a b : Nat) : Nat := (a + b) % fieldP
def fsub (a b : Nat) : Nat := (a + (fieldP - b % fieldP)) % fieldP
def fmul (a b : Nat) : Nat := a * b % fieldP

/-- a to a power of so many bits. -/
def fpowBits (a e : Nat) : Nat → Nat
  | 0 => 1
  | n + 1 => let h := fpowBits a (e / 2) n; let q := fmul h h; if e % 2 = 1 then fmul q a else q
def fpow (a e : Nat) : Nat := fpowBits a e 256
def finv (a : Nat) : Nat := fpow a (fieldP - 2)

/-! ## Ed25519 -/

/-- A point in extended coordinates: X, Y, Z, T. -/
structure EdPoint where
  x : Nat
  y : Nat
  z : Nat
  t : Nat
  deriving DecidableEq, Repr

def edD : Nat := fmul (fsub 0 121665) (finv 121666)
def edOrder : Nat := 2 ^ 252 + 27742317777372353535851937790883648493
def edZero : EdPoint := ⟨0, 1, 1, 0⟩

def EdPoint.add (p q : EdPoint) : EdPoint :=
  let a := fmul (fsub p.y p.x) (fsub q.y q.x)
  let b := fmul (fadd p.y p.x) (fadd q.y q.x)
  let c := fmul (fmul (2 * p.t) q.t) edD
  let d := fmul (2 * p.z) q.z
  let e := fsub b a
  let f := fsub d c
  let g := fadd d c
  let h := fadd b a
  ⟨fmul e f, fmul g h, fmul f g, fmul e h⟩

/-- A multiple of a point, by a number of so many bits. -/
def EdPoint.timesBits (p : EdPoint) (k : Nat) : Nat → EdPoint
  | 0 => edZero
  | n + 1 => let h := p.timesBits (k / 2) n; let q := h.add h; if k % 2 = 1 then q.add p else q
def EdPoint.times (p : EdPoint) (k : Nat) : EdPoint := p.timesBits k 256

def EdPoint.same (p q : EdPoint) : Bool := fmul p.x q.z == fmul q.x p.z && fmul p.y q.z == fmul q.y p.z

/-- The x of a y with this low bit, where the curve has one. -/
def edX (y sign : Nat) : Option Nat :=
  if fieldP ≤ y then none
  else
    let u := fsub (fmul y y) 1
    let v := fadd (fmul edD (fmul y y)) 1
    let x2 := fmul u (finv v)
    let r := fpow x2 ((fieldP + 3) / 8)
    let x := if fmul r r = x2 then r else fmul r (fpow 2 ((fieldP - 1) / 4))
    if fmul x x ≠ x2 ∨ (x = 0 ∧ sign = 1) then none else some (if x % 2 = sign then x else fieldP - x)

def edDecode (b : List Byte) : Option EdPoint :=
  let n := bytesNat b
  let y := n % 2 ^ 255
  if b.length ≠ 32 then none else (edX y (n / 2 ^ 255)).map fun x => ⟨x, y, 1, fmul x y⟩

def edEncode (p : EdPoint) : List Byte :=
  let i := finv p.z
  natBytes (fmul p.y i + fmul p.x i % 2 * 2 ^ 255) 32

/-- The base point. -/
def edBase : EdPoint :=
  let y := fmul 4 (finv 5)
  let x := (edX y 0).getD 0
  ⟨x, y, 1, fmul x y⟩

/-- A signature verifies: the group equation of RFC 8032, with its cofactor. -/
def edVerify (key msg sig : List Byte) : Bool :=
  let r := sig.take 32
  let s := bytesNat (sig.drop 32)
  match edDecode key, edDecode r with
  | some a, some r' =>
    sig.length == 64 && decide (s < edOrder) &&
      ((edBase.times s).times 8).same ((r'.add (a.times (bytesNat (sha512 (r ++ key ++ msg)) % edOrder))).times 8)
  | _, _ => false

/-- The scalar of a private key. -/
def edScalar (seed : List Byte) : Nat := bytesNat ((sha512 seed).take 32) % 2 ^ 254 / 8 * 8 + 2 ^ 254

/-- The signature of a message under a private key. -/
def edSign (seed msg : List Byte) : List Byte :=
  let a := edScalar seed
  let key := edEncode (edBase.times a)
  let k := bytesNat (sha512 ((sha512 seed).drop 32 ++ msg)) % edOrder
  let r := edEncode (edBase.times k)
  r ++ natBytes ((k + bytesNat (sha512 (r ++ key ++ msg)) % edOrder * a) % edOrder) 32

/-! ## X25519 -/

/-- The ladder's two points, as X and Z each. -/
structure Ladder where
  x2 : Nat
  z2 : Nat
  x3 : Nat
  z3 : Nat
  deriving DecidableEq, Repr

def Ladder.swap (l : Ladder) (b : Bool) : Ladder := if b then ⟨l.x3, l.z3, l.x2, l.z2⟩ else l

def Ladder.step (u : Nat) (l : Ladder) : Ladder :=
  let a := fadd l.x2 l.z2
  let b := fsub l.x2 l.z2
  let aa := fmul a a
  let bb := fmul b b
  let e := fsub aa bb
  let da := fmul (fsub l.x3 l.z3) a
  let cb := fmul (fadd l.x3 l.z3) b
  let s := fadd da cb
  let d := fsub da cb
  ⟨fmul aa bb, fmul e (fadd aa (fmul 121665 e)), fmul s s, fmul u (fmul d d)⟩

/-- X25519 of a private key and a public one. -/
def x25519 (priv pub : List Byte) : List Byte :=
  let k := bytesNat (priv.take 32) % 2 ^ 254 / 8 * 8 + 2 ^ 254
  let u := bytesNat (pub.take 32) % 2 ^ 255
  let bit (i : Nat) : Bool := k / 2 ^ i % 2 == 1
  let l := ((List.range 255).reverse).foldl (fun (l : Ladder) i => ((l.swap (bit i)).step u).swap (bit i)) ⟨1, 0, u, 1⟩
  natBytes (fmul l.x2 (finv l.z2)) 32

/-! ## AES-256-GCM -/

/-- Multiplication by x in the field of AES. -/
def aesX (a : Byte) : Byte := if a.getLsbD 7 then (a <<< 1) ^^^ 0x1B else a <<< 1

/-- The product of two bytes in the field of AES; the fuel is how many bits of the second are left. -/
def aesMul (a b : Byte) : Nat → Byte
  | 0 => 0
  | n + 1 => (if b.getLsbD 0 then a else 0) ^^^ aesMul (aesX a) (b >>> 1) n

/-- The S-box: the inverse, as the 254th power, and the affine map. -/
def aesInv (a : Byte) : Byte := (List.range 253).foldl (fun x _ => aesMul x a 8) a
def aesSubOf (a : Byte) : Byte :=
  let x := aesInv a
  x ^^^ x.rotateLeft 1 ^^^ x.rotateLeft 2 ^^^ x.rotateLeft 3 ^^^ x.rotateLeft 4 ^^^ 0x63
def aesBox : List Byte := (List.range 256).map fun k => aesSubOf (BitVec.ofNat 8 k)
def aesSub (a : Byte) : Byte := aesBox.getD a.toNat 0

def xorBytes (a b : List Byte) : List Byte := List.zipWith (· ^^^ ·) a b

/-- The words of the key schedule, newest first; the first argument is how many are still to come. -/
def aesExpand : Nat → Byte → List (List Byte) → List (List Byte)
  | 0, _, w => w
  | fuel + 1, rc, w =>
    let t := w.headD []
    let i := w.length
    let t' := if i % 8 = 0 then xorBytes ((t.drop 1 ++ t.take 1).map aesSub) [rc, 0, 0, 0] else if i % 8 = 4 then t.map aesSub else t
    aesExpand fuel (if i % 8 = 0 then aesX rc else rc) (xorBytes (w.getD 7 []) t' :: w)

/-- The fifteen round keys of a 32-byte key. -/
def aesKeys (key : List Byte) : List (List Byte) :=
  (slices 4 15 (aesExpand 52 1 (slices 4 8 key).reverse).reverse).map List.flatten

/-- ShiftRows: byte r of column c comes from column c + r. -/
def aesShift (b : List Byte) : List Byte := (List.range 16).map fun i => b.getD ((i + 4 * (i % 4)) % 16) 0

def aesMix (c : List Byte) : List Byte :=
  (List.range 4).map fun i =>
    aesX (c.getD i 0) ^^^ aesX (c.getD ((i + 1) % 4) 0) ^^^ c.getD ((i + 1) % 4) 0 ^^^ c.getD ((i + 2) % 4) 0 ^^^ c.getD ((i + 3) % 4) 0

/-- A block encrypted under round keys. -/
def aesBlock (keys : List (List Byte)) (b : List Byte) : List Byte :=
  let sub (x : List Byte) : List Byte := aesShift (x.map aesSub)
  let x := ((keys.drop 1).take 13).foldl (fun x k => xorBytes ((slices 4 4 (sub x)).flatMap aesMix) k) (xorBytes b (keys.headD []))
  xorBytes (sub x) (keys.getD 14 [])

/-- The product in the field of GHASH; the first argument is how many bits of the first factor are left. -/
def ghashMul (x : BitVec 128) : Nat → BitVec 128 → BitVec 128 → BitVec 128
  | 0, _, z => z
  | n + 1, v, z =>
    ghashMul x n (if v.getLsbD 0 then (v >>> 1) ^^^ (0xE1 : BitVec 128) <<< 120 else v >>> 1) (if x.getLsbD n then z ^^^ v else z)

/-- Whole blocks of 16 bytes. -/
def gcmPad (b : List Byte) : List Byte := b ++ List.replicate ((16 - b.length % 16) % 16) 0

def ghash (h : BitVec 128) (b : List Byte) : BitVec 128 :=
  (slices 16 (b.length / 16) b).foldl (fun y x => ghashMul (y ^^^ BitVec.ofNat 128 (beNat x)) 128 h 0) 0

/-- Bytes combined with the key stream of an IV, from its second counter block on. -/
def gcmStream (keys : List (List Byte)) (iv b : List Byte) : List Byte :=
  let blocks := slices 16 ((b.length + 15) / 16) b
  ((List.range blocks.length).zip blocks).flatMap fun x => xorBytes x.2 (aesBlock keys (iv ++ beBytes 4 (x.1 + 2)))

def gcmTag (keys : List (List Byte)) (iv ad ct : List Byte) : List Byte :=
  let h := BitVec.ofNat 128 (beNat (aesBlock keys (List.replicate 16 0)))
  let y := ghash h (gcmPad ad ++ gcmPad ct ++ beBytes 8 (8 * ad.length) ++ beBytes 8 (8 * ct.length))
  xorBytes (beBytes 16 y.toNat) (aesBlock keys (iv ++ beBytes 4 1))

/-- Ciphertext and tag of a payload under a key, a 96-bit IV and associated data. -/
def aesSeal (key iv ad pt : List Byte) : List Byte × List Byte :=
  let keys := aesKeys key
  let ct := gcmStream keys iv pt
  (ct, gcmTag keys iv ad ct)

/-- The payload of a ciphertext, where its tag is right. -/
def aesOpen (key iv ad ct tag : List Byte) : Option (List Byte) :=
  let keys := aesKeys key
  if gcmTag keys iv ad ct = tag then some (gcmStream keys iv ct) else none

end Sys2Proof.Machine
end

