-- ==== Sys2Proof/Machine/Frames.lean ====
section
/-! DEFINITION. Frames of the links: sealing, retry buffers, acknowledgement and delivery (R412 to R415). Every sealed
frame takes the next SEQ of its epoch, and the receiver counts every frame it accepts (log 14). -/

namespace Sys2Proof.Machine

/-! ## Links -/

def Window.fresh : Window := ⟨0, [], [], 0⟩

/-- A link before its first training, and at the start of a training (R416). -/
def Link.fresh : Link := ⟨0, 0, false, 0, 0, none, [], 0, 0, 0, [], [], [], 0, (64, 6), 0, .fresh, .fresh, 0, [], []⟩

def Mach.link (m : Mach) (n : Nat) : Link := (spGet none m.links n).getD .fresh
def Mach.setLink (m : Mach) (n : Nat) (l : Link) : Mach := { m with links := spSet none m.links n (some l) }

/-- Links 0 to 31 are Isthmus links, 32 to 35 the ports E0 to E3. -/
def isStrait (n : Nat) : Bool := decide (32 ≤ n)

/-- The link or port is usable (R411). -/
def Mach.linkUsable (m : Mach) (n : Nat) : Bool :=
  if isStrait n then m.info.portMask.getLsbD (n - 32) else m.info.isthMask.getLsbD n

/-- Frames that a retry buffer holds (R414): 4 MiB, or 128 MiB. -/
def bufferBytes (n : Nat) : Nat := if isStrait n then 134217728 else 4194304
def bufferFrames (n : Nat) : Nat := bufferBytes n / 4096

/-- Half of a rate, and a 64th of the line's more, between 1/64 and 1 of the line's (R414). -/
def halfRate (r : Nat × Nat) : Nat × Nat := if 64 * r.1 < 2 ^ (r.2 + 1) then (1, 6) else (r.1, r.2 + 1)
def moreRate (r : Nat × Nat) : Nat × Nat :=
  let n := r.1 * 64 + 2 ^ r.2
  if 2 ^ (r.2 + 6) ≤ n then (64, 6) else (n, r.2 + 6)

def Link.drop (l : Link) : Link := { l with errors := l.errors + 1 }

/-! ## Sealing (R412, R413) -/

/-- K‖SALT of an epoch. -/
def epochKeys (l : Link) (epoch : Nat) : List Byte :=
  hkdfExpand l.prk (natBytes 0x4C39424B 4 ++ natBytes epoch 8) 36

def epochIv (keys : List Byte) (seq : Nat) : List Byte := keys.drop 32 ++ natBytes seq 8

/-- Bytes 0 to 15 of a frame. -/
def frameHead (f : Frame) : List Byte :=
  natBytes f.seq.toNat 8 ++ natBytes f.ftype.toNat 1 ++ natBytes f.epoch.toNat 1 ++ natBytes f.len.toNat 2 ++
    natBytes f.reserved.toNat 4

def padTo (n : Nat) (b : List Byte) : List Byte := b ++ List.replicate (n - b.length) 0

/-- The next epoch begins. -/
def Link.nextEpoch (l : Link) (now : Word) : Link := { l with epoch := l.epoch + 1, seq := 0, epochAt := now }

/-- The sender's epoch has come to its end (R413). -/
def Link.epochOver (l : Link) (now : Word) : Bool := l.seq == 2 ^ 32 || decide (l.epochAt.toNat + 3600 * 10 ^ 9 ≤ now.toNat)

/-- Seal a frame under the sender's current epoch, and send it. -/
def Link.send (l : Link) (now : Word) (ftype : Nat) (payload : List Byte) : Link × Frame :=
  let l := if l.epochOver now then l.nextEpoch now else l
  let head : Frame := ⟨BitVec.ofNat 64 l.seq, BitVec.ofNat 8 ftype, BitVec.ofNat 8 l.epoch, BitVec.ofNat 16 payload.length, 0,
    [], []⟩
  let keys := epochKeys l l.epoch
  let (ct, tag) := aesSeal (keys.take 32) (epochIv keys l.seq) (frameHead head) (padTo 4064 payload)
  let f := { head with payload := ct, tag := tag }
  ({ l with seq := l.seq + 1, outbox := l.outbox ++ [f] }, f)

/-- Send the payloads that the retry buffer has room for (R414); the fuel is how many wait. -/
def pumpLoop (n : Nat) (now : Word) : Nat → Link → Link
  | 0, l => l
  | fuel + 1, l =>
    match l.queue with
    | [] => l
    | (op, p) :: rest =>
      if l.unacked.length < bufferFrames n then
        let (k, f) := l.send now 0 p
        pumpLoop n now fuel { k with
          queue := rest
          ackedAt := if k.unacked.isEmpty then now else k.ackedAt
          unacked := k.unacked ++ [(k.epoch, f)]
          carry := k.carry ++ [(op, k.epoch, f.seq.toNat)] }
      else l

def Link.pump (l : Link) (n : Nat) (now : Word) : Link := if l.step = 6 then pumpLoop n now l.queue.length l else l

/-- Frames have carried the whole message of an operation: none of its payloads waits, and each frame has been acknowledged. -/
def Link.carried (l : Link) (op : Nat) : Bool := l.queue.all (·.1 != op) && l.carry.all (·.1 != op)

/-! ## Receiving (R412 to R415) -/

/-- The frame with this SEQ has been received. -/
def Window.has (w : Window) (seq : Nat) : Bool := decide (seq < w.cum) || w.beyond.any fun e => e.1 == seq

/-- Move what has become consecutive below `cum`; the fuel is how many frames stand beyond it. -/
def Window.absorb : Nat → Window → Window
  | 0, w => w
  | fuel + 1, w =>
    match w.beyond.find? fun e => e.1 == w.cum with
    | some (_, p) => Window.absorb fuel ⟨w.cum + 1, w.beyond.filter fun e => e.1 != w.cum, w.inOrder ++ p.toList, w.sinceAck⟩
    | none => w

def Window.take (w : Window) (seq : Nat) (p : Option (List Byte)) : Window :=
  let n := w.sinceAck + (if p.isSome then 1 else 0)
  Window.absorb (w.beyond.length + 1) { w with beyond := w.beyond ++ [(seq, p)], sinceAck := n }

/-- BITMAP of R415. -/
def Window.bitmap (w : Window) : List Byte :=
  natBytes (((List.range 256).filter fun i => w.beyond.any fun e => e.1 == w.cum + 1 + i).foldl (fun a i => a + 2 ^ i) 0) 32

/-- Payload of an ACK or NACK (R415). -/
def ackPayload (w : Window) (epoch reason : Nat) : List Byte :=
  natBytes w.cum 8 ++ natBytes epoch 1 ++ natBytes reason 1 ++ natBytes 0 6 ++ w.bitmap

def Link.window (l : Link) (epoch : Nat) : Window := if epoch = l.peerEpoch then l.win else l.next
def Link.setWindow (l : Link) (epoch : Nat) (w : Window) : Link :=
  if epoch = l.peerEpoch then { l with win := w } else { l with next := w }

/-- Deliver the payloads of the peer's epoch that stand in order. -/
def Link.deliver (l : Link) : Link :=
  { l with delivered := l.delivered ++ l.win.inOrder, win := { l.win with inOrder := [] } }

/-- Acknowledge, or ask again for, the frames of an epoch. -/
def Link.sendAck (l : Link) (now : Word) (epoch ftype reason : Nat) : Link :=
  let (l, _) := l.send now ftype (ackPayload (l.window epoch) epoch reason)
  if ftype = 1 then l.setWindow epoch { l.window epoch with sinceAck := 0 } else l

/-- The epoch that a frame names, where the receiver accepts it (R413). -/
def Link.epochOf (l : Link) (f : Frame) : Option Nat :=
  if f.epoch = BitVec.ofNat 8 l.peerEpoch then some l.peerEpoch
  else if f.epoch = BitVec.ofNat 8 (l.peerEpoch + 1) then some (l.peerEpoch + 1)
  else none

/-- Check and open a frame of the given kind: its epoch and the LEN bytes of its payload. -/
def Link.accept (l : Link) (f : Frame) : Option (Nat × List Byte) :=
  if l.step ≠ 6 then none
  else
    match l.epochOf f with
    | none => none
    | some e =>
      let keys := epochKeys l e
      match aesOpen (keys.take 32) (epochIv keys f.seq.toNat) (frameHead f) f.payload f.tag with
      | none => none
      | some p => if (l.window e).has f.seq.toNat then none else some (e, p.take f.len.toNat)

/-- The peer's next epoch takes the place of the present one: every frame of that has been acknowledged (R413). -/
def Link.advance (l : Link) : Link :=
  { l with peerEpoch := l.peerEpoch + 1, win := l.next, next := .fresh }.deliver

/-- The peer's epoch is over: all its 2³² frames have come and been acknowledged. -/
def Link.settleEpoch (l : Link) : Link := if l.win.cum = 2 ^ 32 ∧ l.win.sinceAck = 0 then l.advance else l

/-- Take an accepted frame into the window of its epoch; a NACK goes out at once where its SEQ runs more than 8 ahead (R415). -/
def Link.take (l : Link) (now : Word) (f : Frame) (e : Nat) (p : Option (List Byte)) : Link :=
  let ahead := decide ((l.window e).cum + 8 < f.seq.toNat)
  let l := (l.setWindow e ((l.window e).take f.seq.toNat p)).deliver
  let l := if 16 ≤ (l.window e).sinceAck then l.sendAck now e 1 0 else l
  (if ahead then l.sendAck now e 2 0 else l).settleEpoch

/-- What the receiver hears from outside: every frame of the peer's present epoch has been acknowledged. It takes that in
where no frame it knows of is missing or unacknowledged (R413; log 14). -/
def endPeerEpoch (m : Mach) (n : Nat) : Mach :=
  let l := m.link n
  if l.step = 6 ∧ l.win.beyond = [] ∧ l.win.sinceAck = 0 then m.setLink n l.advance else m

/-- What the arrival of a frame does: frames of a kind that is unknown, or of training, are dropped; so is what cannot be
opened (R412). -/
def receiveFrame (n kind : Nat) (f : Frame) (s : State) (effect : Link → Nat → List Byte → Link) : State :=
  let m := s.cur
  let l := m.link n
  if 4 ≤ f.ftype.toNat then { s with cur := m.setLink n l.drop }
  else if f.ftype.toNat ≠ kind then s
  else
    match l.accept f with
    | none => { s with cur := m.setLink n l.drop }
    | some (e, p) => { s.used with cur := m.setLink n (effect l e p) }

/-- FRAME_DATA_RECEIVE, R412 to R415. A frame that finds no room is dropped; a NACK then asks for it, or for frames that
are missing. -/
def execFrameDataReceive (link : Nat) (f : Frame) (s : State) : Out :=
  .next (receiveFrame link 0 f s fun l e p =>
    let now := s.cur.ftime
    if Config.freeBit s.freeIdx then l.drop.sendAck now e 2 1 else l.take now f e (some p))

/-- The stored frame is acknowledged (R415). -/
def acked (p : List Byte) (x : Nat × Frame) : Bool :=
  let cum := field p 0 8
  let seq := x.2.seq.toNat
  x.1 % 256 == field p 8 1 &&
    (decide (seq < cum) || (decide (cum < seq) && decide (seq < cum + 257) && field p 16 32 / 2 ^ (seq - cum - 1) % 2 == 1))

/-- Release what an ACK or NACK acknowledges, and send what there is room for. -/
def Link.release (l : Link) (n : Nat) (now : Word) (p : List Byte) : Link :=
  let kept := l.unacked.filter fun x => !acked p x
  let any := decide (kept.length < l.unacked.length)
  { l with
    unacked := kept
    carry := l.carry.filter fun c => kept.any fun x => x.1 == c.2.1 && x.2.seq.toNat == c.2.2
    ackedAt := if any then now else l.ackedAt }.pump n now

/-- The stored frames that a NACK asks for (R415). -/
def asked (p : List Byte) (x : Nat × Frame) : Bool :=
  let cum := field p 0 8
  let seq := x.2.seq.toNat
  let map := field p 16 32
  x.1 % 256 == field p 8 1 && (seq == cum || (decide (cum < seq) && decide (2 ^ (seq - cum) ≤ map) && map / 2 ^ (seq - cum - 1) % 2 == 0))

/-- FRAME_ACK_RECEIVE, R414, R415. The rate rises where a round trip has passed without loss. -/
def execFrameAckReceive (link : Nat) (f : Frame) (s : State) : Out :=
  .next (receiveFrame link 1 f s fun l e p =>
    let l := l.take s.cur.ftime f e none
    { l with rate := if Config.freeBit s.freeIdx then moreRate l.rate else l.rate }.release link s.cur.ftime p)

/-- FRAME_NACK_RECEIVE, R414, R415: the frames asked for go out again as they are stored, and the rate is halved. -/
def execFrameNackReceive (link : Nat) (f : Frame) (s : State) : Out :=
  .next (receiveFrame link 2 f s fun l e p =>
    let l := l.take s.cur.ftime f e none
    let again := (l.unacked.filter fun x => !acked p x && asked p x).map Prod.snd
    { l with rate := halfRate l.rate, outbox := l.outbox ++ again }.release link s.cur.ftime p)

/-- FRAME_IDLE_RECEIVE, R412. -/
def execFrameIdleReceive (link : Nat) (f : Frame) (s : State) : Out :=
  .next (receiveFrame link 3 f s fun l e _ => l.take s.cur.ftime f e none)

/-- ACK_TIMER, R415: frames received and not yet acknowledged are. -/
def execAckTimer (link : Nat) (s : State) : Out :=
  let l := s.cur.link link
  let now := s.cur.ftime
  let ack (e : Nat) (l : Link) : Link := if l.step = 6 ∧ 0 < (l.window e).sinceAck then l.sendAck now e 1 0 else l
  .next { s with cur := s.cur.setLink link (ack (l.peerEpoch + 1) (ack l.peerEpoch l)).settleEpoch }

/-- RETRANSMIT_TIMEOUT, R414: how many of the oldest frames kept are overdue is free; they go out again, and the rate is
halved. -/
def execRetransmitTimeout (link : Nat) (s : State) : Out :=
  let l := s.cur.link link
  .next (if l.step = 6 ∧ l.unacked ≠ [] then
      let again := (l.unacked.take (Config.freeNat s.freeIdx % l.unacked.length + 1)).map Prod.snd
      { s.used with cur := s.cur.setLink link { l with rate := halfRate l.rate, outbox := l.outbox ++ again } }
    else s)

/-- EPOCH_END, R413: the 2³² SEQ values are used up, or 3,600 s have passed. -/
def execEpochEnd (link : Nat) (s : State) : Out :=
  let l := s.cur.link link
  let now := s.cur.ftime
  .next (if l.step = 6 ∧ l.epochOver now then { s with cur := s.cur.setLink link (l.nextEpoch now) } else s)

end Sys2Proof.Machine
end

