-- ==== Sys2Proof/Machine/Engine.lean ====
section
/-! DEFINITION. What every engine operation shares: issue and the binding of tokens (R228), start and completion (R229
to R231), the bytes of a shape (R237), and accesses with the faults of R238 at the homes and in the scratchpads (R235).
An operation's accesses are made at its completion, all at once (log 8). -/

namespace Sys2Proof.Machine

/-! ## Issue (R228) -/

/-- The queue of engine commands on Kilbin. -/
def engQueue : Nat := 32

/-- Engine operations that a token field waits for: those pending on the register. -/
def Core.binds (c : Core) (n : BitVec 6) : List Nat :=
  if n = 0 then [] else (c.eng.filter fun e => e.tok == c.physS n.toNat).map (·.id)

/-- The four live shape registers of a slot after the instruction's own swap (R56). -/
def Core.shapesFor (c : Core) (dq swp : Bool) : List (List (BitVec 32)) :=
  (List.range 4).map fun r => (List.range 8).map (c.shapeField dq (xor (if dq then c.dqLive else c.mqLive) swp) r)

/-- A copy exchanged at issue. -/
def Core.swapShapes (c : Core) (dq swp : Bool) : Core :=
  if !swp then c else if dq then { c with dqLive := !c.dqLive } else { c with mqLive := !c.mqLive }

/-- The operation that an engine instruction puts into the queue. -/
def Core.newOp (c : Core) (i : Instr) (f : FE) (dq : Bool) (vals : List Word) (after : List Nat) : EngOp where
  id := c.engNext
  ins := i
  vals := vals
  shapes := c.shapesFor dq (f.swp == 1)
  ms := (List.range 8).map (spGet 0 c.m)
  tok := if f.tokp = 0 then 0 else c.physS f.tokp.toNat
  deps := (c.binds f.toka ++ c.binds f.tokb ++ c.binds f.tokc ++ after).eraseDups
  started := false
  status := 0
  info := 0
  left := []
  pairs := []
  msg := none

/-- Issue an engine instruction; a full queue stalls. An M instruction of the same bundle is queued first. -/
def State.engIssue (s : State) (i : Instr) (f : FE) (dq : Bool) (vals : List Word) (after : List Nat) (fix : EngOp → EngOp) :
    State :=
  let c := s.rd.core
  if engQueue ≤ s.cur.core.eng.length then s.stall
  else
    let o := fix { c.newOp i f dq vals after with id := s.cur.core.engNext }
    s.setCore fun k => { k.swapShapes dq (f.swp == 1) with eng := k.eng ++ [o], engNext := k.engNext + 1 }

/-- Incomplete engine operations of the context. -/
def Core.engIds (c : Core) : List Nat := c.eng.map (·.id)

/-! ## Completion (R229 to R231) -/

/-- The smaller of two statuses, 0 being none (R230). -/
def worse (a b : Nat) : Nat := if a = 0 then b else if b = 0 then a else min a b

def completionWord (status info : Nat) : Word := BitVec.ofNat 64 (status % 256 * 2 ^ 56 + info % 2 ^ 56)

/-- Write the completion word; a nonzero status leaves a mark, and is lost where there is no token (R231, R41). -/
def completeOp (c : Core) (o : EngOp) (status info : Nat) : Core :=
  let c := { c with eng := c.eng.filter (·.id != o.id) }
  if o.tok = 0 then { c with engFault := c.engFault || status != 0 }
  else
    let w := completionWord status info
    let c := c.putS o.tok w
    if status = 0 then c
    else { c with marks := spSet none c.marks o.tok (some ⟨true, w⟩), unread := c.unread ++ [o.tok] }

def Core.op? (c : Core) (id : Nat) : Option EngOp := c.eng.find? fun e => e.id == id
def Core.setOp (c : Core) (o : EngOp) : Core := { c with eng := c.eng.map fun e => if e.id = o.id then o else e }

/-! ## Shapes (R104, R237) -/

def shF (l : List (BitVec 32)) (k : Nat) : BitVec 32 := l.getD k 0
def shBase (l : List (BitVec 32)) : Nat := (shF l 1).toNat * 2 ^ 32 + (shF l 0).toNat
def shN0 (l : List (BitVec 32)) : Nat := (shF l 2).toNat
def shN1 (l : List (BitVec 32)) : Nat := max (shF l 3).toNat 1
def shN2 (l : List (BitVec 32)) : Nat := max (shF l 4).toNat 1
def shTotal (l : List (BitVec 32)) : Nat := shN0 l * shN1 l * shN2 l

/-- A run of contiguous bytes: address and length. -/
abbrev Run := Nat × Nat

/-- Join runs that follow one another without a gap. -/
def joinRuns : List Run → List Run
  | [] => []
  | r :: t =>
    match joinRuns t with
    | [] => [r]
    | q :: u => if r.1 + r.2 = q.1 then (r.1, r.2 + q.2) :: u else r :: q :: u

/-- Runs of a shape in shape order, as integers added to a base. -/
def shRunsAt (base : Int) (l : List (BitVec 32)) : List (Int × Nat) :=
  if shN0 l = 0 then []
  else
    ((List.range (shN2 l)).map fun (i2 : Nat) => (List.range (shN1 l)).map fun (i1 : Nat) =>
      (base + (i2 : Int) * (shF l 6).toInt + (i1 : Int) * (shF l 5).toInt, shN0 l)).flatten

/-- Runs of a shape at its virtual base. An address that leaves 64 bits wraps (R6, R237; DESIGN CHOICE, log 58). -/
def shRuns (l : List (BitVec 32)) : List Run :=
  joinRuns ((shRunsAt (shBase l) l).map fun r => ((r.1 % 2 ^ 64).toNat, r.2))

/-- Where a run lies: outside the window, in the slice of a rank, or across an edge. -/
def runSide (r : Run) : Nat :=
  let lo := r.1
  let hi := r.1 + r.2
  if hi ≤ qbase ∨ qbase + qsize ≤ lo then 0
  else if qbase ≤ lo ∧ hi ≤ qbase + qsize ∧ (lo - qbase) / 2 ^ 26 = (hi - 1 - qbase) / 2 ^ 26 then 1 + (lo - qbase) / 2 ^ 26
  else 9

/-- Status of a shape before any access (R237). -/
def shAligned (l : List (BitVec 32)) : Nat :=
  if [0, 2, 5, 6].all fun k => (shF l k).toNat % 4 == 0 then 0 else 0x03
def shSize (l : List (BitVec 32)) : Nat := if 2 ^ 48 ≤ shTotal l then 0x07 else 0
def shStatus (l : List (BitVec 32)) : Nat :=
  let a := shAligned l
  if a ≠ 0 ∨ shSize l ≠ 0 then worse a (shSize l)
  else
    match (shRuns l).map runSide with
    | [] => 0
    | k :: t => if k == 9 || t.any (· != k) then 0x07 else 0

/-! ## Accesses (R235, R238) -/

/-- An engine operation under way: the machine, its status and INFO so far. -/
structure Eng where
  m : Mach
  status : Nat
  info : Nat
  deriving DecidableEq, Repr

def Eng.fail (e : Eng) (c : Nat) : Eng := { e with status := worse e.status c }

/-- Where an engine byte lies, or its status; the L2 TLB of the core's die translates (R400). -/
def Mach.engPlace (m : Mach) (va : Nat) (acc : Access) : Except Nat Place × Option TlbUpd :=
  if inWindow va then
    let key := va - qbase
    if !m.peerThere (key / 2 ^ 26) then (.error 0x08, none)
    else if !m.quad.inRange key then (.error 0x04, none)
    else if m.quad.isPending key then (.error 0x05, none)
    else (.ok (.pad key), none)
  else
    match m.translate m.core.vmid.toNat va acc (.die m.core.die) with
    | (.fault c, u) => (.error (if c = 0x20 then 0x01 else 0x02), u)
    | (.ok leaf pa, u) => (.ok (.home pa leaf), u)

/-- Cut a run at the edges of 128-byte sectors; the fuel bounds the pieces. -/
def piecesFrom : Nat → Nat → Nat → List Run
  | 0, _, _ => []
  | fuel + 1, a, n =>
    if n = 0 then []
    else
      let k := min n (128 - a % 128)
      (a, k) :: piecesFrom fuel (a + k) (n - k)

def pieces (r : Run) : List Run := piecesFrom (r.2 / 128 + 2) r.1 r.2

/-- Bytes with whether each comes from a poisoned sector. -/
abbrev Stream := List (Byte × Bool)

/-- Read a piece within one sector; copies older than what is read go, and fills at the home are asked for (R215, R235,
R293). -/
def Eng.readPiece (e : Eng) (r : Run) : Eng × Stream :=
  match e.m.engPlace r.1 .read with
  | (.error c, u) => ({ e with m := e.m.applyUpd u }.fail c, List.replicate r.2 (0, false))
  | (.ok pl, u) =>
    let e := { e with m := e.m.applyUpd u }
    match pl with
    | .pad key =>
      let poi := e.m.quad.poisoned key r.2
      (if poi then e.fail 0x06 else e, (e.m.quad.read key r.2).map fun b => (b, poi))
    | .home pa leaf =>
      let comp := effComp (leafComp leaf) (pa / 128)
      let (mem, b, poi) := e.m.mem.load comp pa r.2
      let mem := addFills (mem.dropStale comp (pa / 128)) (mem.homeWants e.m.core.vmid.toNat leaf (pa / 128))
      let h := homeDie pa
      let e := { e with m := { e.m with mem := mem, core := e.m.core.raiseOc h (mem.hcOf h) } }
      (if poi then e.fail 0x06 else e, b.map fun b => (b, poi))

def Eng.readPieces (e : Eng) : List Run → Eng × Stream
  | [] => (e, [])
  | r :: t =>
    let (e, b) := e.readPiece r
    let (e, c) := e.readPieces t
    (e, b ++ c)

/-- Read runs in order. -/
def Eng.read (e : Eng) (l : List Run) : Eng × Stream := e.readPieces (l.map pieces).flatten

/-- Mark a sector poisoned where it stands. -/
def Mem.setPoison (m : Mem) (comp : Bool) (sec : Nat) : Mem :=
  match spGet none m.l2 (ckey comp sec) with
  | some k => { m with l2 := spSet none m.l2 (ckey comp sec) (some { k with poison := true }) }
  | none =>
    match spGet none m.msc (ckey comp sec) with
    | some k => { m with msc := spSet none m.msc (ckey comp sec) (some { k with poison := true }) }
    | none =>
      if comp then m.dramWrite comp sec (m.dramRead comp sec).1 true
      else if present (sec * 128) then { m with poison := spSet false m.poison sec true } else m

def Quad.poison (q : Quad) (key : Nat) : Quad := { q with spPoison := spSet false q.spPoison (key / 128) true }

/-- Write a piece within one sector: INFO counts it; poisoned bytes poison the sector; copies of the issuing core and
die go (R235); the home's acknowledgement raises the clocks (R300). -/
def Eng.writePiece (e : Eng) (a : Nat) (b : Stream) : Eng :=
  let poi := b.any (·.2)
  let bytes := b.map (·.1)
  match e.m.engPlace a .write with
  | (.error c, u) => { e with m := e.m.applyUpd u }.fail c
  | (.ok pl, u) =>
    let e := { e with m := e.m.applyUpd u, info := e.info + b.length }
    match pl with
    | .pad key =>
      let q := e.m.quad.write key bytes
      { e with m := { e.m with quad := if poi then q.poison key else q } }
    | .home pa leaf =>
      let comp := effComp (leafComp leaf) (pa / 128)
      let req := reqOf e.m.core.vmid.toNat leaf
      let mem := (e.m.mem.storeAs req comp pa bytes).dropCore comp (pa / 128)
      let mem := if poi then mem.setPoison comp (pa / 128) else mem
      let h := homeDie pa
      { e with m := { e.m with
          coll := e.m.coll.afterWrite e.m.mem mem pa bytes.length
          mem := mem.raiseVc e.m.core.die h (mem.hcOf h)
          core := e.m.core.raiseOc h (mem.hcOf h) } }

def Eng.writePieces (e : Eng) : List Run → Stream → Eng
  | [], _ => e
  | r :: t, b => (e.writePiece r.1 (b.take r.2)).writePieces t (b.drop r.2)

/-- Write a stream over runs in order. -/
def Eng.write (e : Eng) (l : List Run) (b : Stream) : Eng := e.writePieces (l.map pieces).flatten b

/-- Bytes of a stream without their marks, and a stream from bytes. -/
def plain (b : List Byte) : Stream := b.map fun x => (x, false)
def anyPoison (b : Stream) : Bool := b.any (·.2)

end Sys2Proof.Machine
end

