-- ==== Sys2Proof/Machine/Flags.lean ====
section
/-! DEFINITION. Flag-like results: lane masks (R103, R170), the class mask of FCLASS (R144), the stage predicates of an
execution (R31), and the conditions of branches (R50). -/

namespace Sys2Proof.Machine

/-- cond(CC, x) over the full 64-bit register (R50, R146). -/
def condHolds (cc : BitVec 3) (x : Word) : Bool :=
  match cc.toNat with
  | 0 => true
  | 1 => x == 0
  | 2 => x != 0
  | 3 => decide (x.toInt < 0)
  | 4 => decide (0 ≤ x.toInt)
  | 5 => decide (0 < x.toInt)
  | _ => decide (x.toInt ≤ 0)

/-- Stage predicates g1 to g7 of execution e of a level with N iterations and S stages (R31). -/
def stagePreds (n stages e : Nat) : BitVec 8 :=
  BitVec.ofNat 8 (((List.range 7).map fun k =>
    let st := k + 1
    if st ≤ stages ∧ st - 1 ≤ e ∧ e - (st - 1) < n then 2 ^ st else 0).sum)

/-- GPRED: bits 7:1 g7 to g1 (R109). -/
def Core.gpred (c : Core) : Word :=
  BitVec.ofNat 64 (((List.range 7).map fun k => if c.pred (k + 1) then 2 ^ (k + 1) else 0).sum)

/-- FCLASS (R116, R144): the bit of the class of an FP32 code. -/
def fclass (x : Nat) : Nat :=
  let s := decide (x / 2 ^ 31 % 2 = 1)
  let e := x / 2 ^ 23 % 256
  let m := x % 2 ^ 23
  let k :=
    if e = 255 then (if m = 0 then (if s then 0 else 7) else if m < 2 ^ 22 then 8 else 9)
    else if e = 0 then (if m = 0 then (if s then 3 else 4) else if s then 2 else 5)
    else if s then 1 else 6
  2 ^ k

/-- Bit of an element in a lane mask: that of its lowest byte (R103). -/
def laneOf (mask : Lanes) (bits k : Nat) : Bool := mask.getLsbD (bits / 8 * k)

/-- Enabled elements of an instruction: all, or those of its mask register (R103). -/
def enabled (c : Core) (w : Bool) (f : FV) (k : Nat) : Bool :=
  f.men == 0 || laneOf (c.lanes w f.msk.toNat) (fmtBits f.fmt.toNat) k

/-- Bits of a row that enabled elements of `bits` bits cover, of `n` elements. -/
def enabledBits (en : Nat → Bool) (bits n : Nat) : Row :=
  elemsRow bits ((List.range n).map fun k => if en k then 2 ^ bits - 1 else 0)

/-- A lane mask from a verdict for each element: every byte of the element takes it. -/
def lanesFrom (bits : Nat) (l : List Bool) : Lanes :=
  BitVec.ofNat 128 (elemsNat (bits / 8) (l.map fun b => if b then 2 ^ (bits / 8) - 1 else 0))

end Sys2Proof.Machine
end

