-- ==== Sys2Proof/Machine/Vector.lean ====
section
/-! DEFINITION. The vector slots V0 and V1, and the scale loads of the L slot (R163 to R189, with R130 and R132). -/

namespace Sys2Proof.Machine

/-- V1 works on w, wrow and wm; V0 on v, vrow and vm (R72, R163). -/
def isW : Unit2 → Bool
  | .v0 => false
  | .v1 => true

/-! ## Port checks and advances (R55, R58, R107, R108) -/

/-- What stands against an instruction's port operands: the first row that fails, and its cause. -/
def portCheck (m : Mach) (op : Nat) (f : FV) : Option (Nat × Word) :=
  let n := widBits f.wid / 8
  match (popsOf op f).findSome? fun p => portFault m p n true with
  | some x => some x
  | none => (pushOf op f).findSome? fun p => portFault m p n false

/-- The rows of an instruction's ports wait: for an operation on the scratchpad still in the queue, or for an overdue push
of their bytes (R66, R108, R157). An acquire not yet performed holds back every access (R294). -/
def portWaits (m : Mach) (op : Nat) (f : FV) : Bool :=
  let c := m.core
  let ports := popsOf op f ++ pushOf op f
  !ports.isEmpty && (c.fenced || c.memq.any (·.pad) || ports.any fun p => (List.range 8).any fun j =>
    c.padOverdue (c.rank * 2 ^ 26 + (c.portRow p j).toNat) (widBits f.wid / 8))

/-- Advance a port once for the bundle, unless a PCFG of the bundle has reset it (R107, R108). -/
def advancePort (was : Core) (c : Core) (p : Nat) : Core :=
  if c.pcfgd = some p then c
  else { c with pidx := (List.range 6).foldl (fun x l => spSet 0 x (p * 6 + l) ((was.advance p 0).portIdx p l)) c.pidx }

/-- A V instruction whose operands may be ports: their checks, its effect, their advance. -/
def vector (i : Instr) (op : Nat) (f : FV) (s : State) (effect : State → State) : Out :=
  gated i s fun s =>
    match portCheck s.rd op f with
    | some (k, a) => s.raise k a
    | none =>
      if portWaits s.rd op f then s.stall
      else (popsOf op f ++ pushOf op f).foldl (fun s p => s.setCore (advancePort s.rd.core · p)) (effect s)

/-! ## Rows of elements -/

/-- Element i of row j. -/
def at2 (l : List (List Nat)) (j i : Nat) : Nat := (l.getD j []).getD i 0

/-- Eight rows of n elements from a function of row and index. -/
def build (n : Nat) (g : Nat → Nat → Nat) : List (List Nat) :=
  (List.range 8).map fun j => (List.range n).map fun i => g j i

/-- A source's elements at a width of `bits`. -/
def Mach.elems (m : Mach) (w : Bool) (f : FV) (sel : BitVec 8) (bits : Nat) : List (List Nat) :=
  (m.srcRows w f sel).map (rowElems bits (widBits f.wid / bits))

/-- Rows as values and the bits written of each. -/
abbrev Rows := List (Row × Row)

/-- Rows of elements of `bits` bits, written where `en` holds. -/
def rowsOut (bits n : Nat) (en : Nat → Bool) (l : List (List Nat)) : Rows :=
  let mask := enabledBits en bits n
  l.map fun r => (elemsRow bits r, mask)

/-- Kind of destination, its number, and the writes of a row group (R67, R101, R108). -/
def dstWrites (m : Mach) (w : Bool) (sel : Nat) (rows : Rows) : Nat × Nat × List Write :=
  let c := m.core
  let js := (List.range 8).zip rows
  if sel < 64 then
    let p := c.physTile w sel
    (if w then 2 else 1, p, js.filterMap fun x =>
      if x.2.2 = 0 then none else some ⟨.tile w p ((c.rowCtr w + x.1) % 256) x.2.2, x.2.1⟩)
  else
    (9, sel - 64, js.filterMap fun x =>
      if x.2.2 = 0 then none else some ⟨.push (c.portRow (sel - 64) x.1).toNat x.2.2, x.2.1⟩)

/-- Write a destination row group under a class. -/
def State.putRows (s : State) (cls : Nat) (w : Bool) (sel : BitVec 8) (rows : Rows) : State :=
  let (file, reg, ws) := dstWrites s.rd w sel.toNat rows
  s.expose cls file reg ws

/-- Write two destination registers with one entry (R163, R167). -/
def State.putPair (s : State) (cls : Nat) (w : Bool) (sel : BitVec 8) (a b : Rows) : State :=
  let (file, reg, ws) := dstWrites s.rd w sel.toNat a
  s.expose cls file reg (ws ++ (dstWrites s.rd w (sel.toNat + 1) b).2.2)

/-- Write bits of a lane mask (R103, R164). -/
def State.putLanes (s : State) (w : Bool) (reg : Nat) (val mask : Lanes) : State :=
  s.expose clsVA (if w then 7 else 6) reg [⟨.lanes w reg mask, val.setWidth 1024⟩]

/-! ## Elementwise (R169) -/

/-- d(j,i) := fn(a, b, c) over enabled elements. -/
def elementwise (i : Instr) (op : Nat) (u : Unit2) (f : FV) (fn : Nat → Nat → Nat → Nat) (s : State) : Out :=
  vector i op f s fun s =>
    let m := s.rd
    let w := isW u
    let b := fmtBits f.fmt.toNat
    let n := f.elems
    let (_, ua, ub, uc) := usesSel op f
    let get (used : Bool) (sel : BitVec 8) : List (List Nat) := if used then m.elems w f sel b else []
    let x := get ua f.sa
    let y := get ub f.sb
    let z := get uc f.sc
    s.putRows clsVA w f.dst (rowsOut b n (enabled m.core w f) (build n fun j i => fn (at2 x j i) (at2 y j i) (at2 z j i)))

/-- A float result, or an integer one modulo 2^b. -/
def fOrI (f : FV) (fl : Val → Val → Val → Val) (it : Int → Int → Int → Int) (a b c : Nat) : Nat :=
  let m := f.fmt.toNat
  if isFloat m then roundF m f.rnd.toNat (fl (decF m a) (decF m b) (decF m c))
  else wrap (fmtBits m) (it (decI' m a) (decI' m b) (decI' m c))

/-- VADD, R169. -/
def execVadd (u : Unit2) (f : FV) (s : State) : Out :=
  elementwise (.vadd u f) 0x00 u f (fOrI f (fun a b _ => a.add f.rnd.toNat b) (fun a b _ => a + b)) s

/-- VSUB, R169. -/
def execVsub (u : Unit2) (f : FV) (s : State) : Out :=
  elementwise (.vsub u f) 0x01 u f (fOrI f (fun a b _ => a.sub f.rnd.toNat b) (fun a b _ => a - b)) s

/-- VMUL, R169. -/
def execVmul (u : Unit2) (f : FV) (s : State) : Out :=
  elementwise (.vmul u f) 0x02 u f (fOrI f (fun a b _ => a.mul b) (fun a b _ => a * b)) s

/-- VMULH, R169. -/
def execVmulh (u : Unit2) (f : FV) (s : State) : Out :=
  elementwise (.vmulh u f) 0x03 u f (fun a b _ => wrap (fmtBits f.fmt.toNat) (decI' f.fmt.toNat a * decI' f.fmt.toNat b / 2 ^ fmtBits f.fmt.toNat)) s

/-- VFMA, R169: one rounding. -/
def execVfma (u : Unit2) (f : FV) (s : State) : Out :=
  elementwise (.vfma u f) 0x04 u f (fOrI f (fun a b c => (a.mul b).add f.rnd.toNat c) (fun a b c => a * b + c)) s

/-- VFMS, R169. -/
def execVfms (u : Unit2) (f : FV) (s : State) : Out :=
  elementwise (.vfms u f) 0x05 u f (fOrI f (fun a b c => (a.mul b).sub f.rnd.toNat c) (fun a b c => a * b - c)) s

/-- VFNMA, R169. -/
def execVfnma (u : Unit2) (f : FV) (s : State) : Out :=
  elementwise (.vfnma u f) 0x06 u f (fOrI f (fun a b c => (a.mul b).neg.add f.rnd.toNat c) (fun a b c => -(a * b) + c)) s

/-- VFNMS, R169. -/
def execVfnms (u : Unit2) (f : FV) (s : State) : Out :=
  elementwise (.vfnms u f) 0x07 u f (fOrI f (fun a b c => (a.mul b).neg.sub f.rnd.toNat c) (fun a b c => -(a * b) - c)) s

/-- VMIN, R169. -/
def execVmin (u : Unit2) (f : FV) (s : State) : Out :=
  elementwise (.vmin u f) 0x08 u f (fOrI f (fun a b _ => a.min b) (fun a b _ => min a b)) s

/-- VMAX, R169. -/
def execVmax (u : Unit2) (f : FV) (s : State) : Out :=
  elementwise (.vmax u f) 0x09 u f (fOrI f (fun a b _ => a.max b) (fun a b _ => max a b)) s

/-- VABS, R169. -/
def execVabs (u : Unit2) (f : FV) (s : State) : Out :=
  elementwise (.vabs u f) 0x0A u f (fOrI f (fun a _ _ => a.abs) (fun a _ _ => a.natAbs)) s

/-- VNEG, R169. -/
def execVneg (u : Unit2) (f : FV) (s : State) : Out :=
  elementwise (.vneg u f) 0x0B u f (fOrI f (fun a _ _ => a.neg) (fun a _ _ => -a)) s

/-- VADDS, R169. -/
def execVadds (u : Unit2) (f : FV) (s : State) : Out :=
  elementwise (.vadds u f) 0x0C u f (fOrI f (fun a _ _ => a) (fun a b _ => clampI f.fmt.toNat (a + b))) s

/-- VSUBS, R169. -/
def execVsubs (u : Unit2) (f : FV) (s : State) : Out :=
  elementwise (.vsubs u f) 0x0D u f (fOrI f (fun a _ _ => a) (fun a b _ => clampI f.fmt.toNat (a - b))) s

/-- VAVG, R169. -/
def execVavg (u : Unit2) (f : FV) (s : State) : Out :=
  elementwise (.vavg u f) 0x0E u f (fOrI f (fun a b _ => (a.add f.rnd.toNat b).scale (-1)) (fun a b _ => (a + b + 1) / 2)) s

/-- VCLAMP, R169. -/
def execVclamp (u : Unit2) (f : FV) (s : State) : Out :=
  elementwise (.vclamp u f) 0x0F u f (fOrI f (fun a b c => (a.max b).min c) (fun a b c => min (max a b) c)) s

/-! ## Compare and select (R170, R171) -/

/-- The relation of a compare on two elements: `fl` on floats that may be NaN, `it` on integers. -/
def relOf (f : FV) (fl : Val → Val → Bool) (it : Int → Int → Bool) (a b : Nat) : Bool :=
  let m := f.fmt.toNat
  if isFloat m then fl (decF m a) (decF m b) else it (decI' m a) (decI' m b)

/-- COMB over the eight rows of one element. -/
def combRows (comb row : Nat) (t : List Bool) : Bool :=
  match comb with
  | 0 => t.all id
  | 1 => t.any id
  | _ => t.getD row false

/-- A compare into a tile or into a mask. -/
def compare (i : Instr) (op : Nat) (u : Unit2) (f : FV) (rel : Nat → Nat → Bool) (s : State) : Out :=
  vector i op f s fun s =>
    let m := s.rd
    let w := isW u
    let b := fmtBits f.fmt.toNat
    let n := f.elems
    let x := m.elems w f f.sa b
    let y := m.elems w f f.sb b
    let en := enabled m.core w f
    let t (j i : Nat) : Bool := rel (at2 x j i) (at2 y j i)
    if f.aux.getLsbD 8 then
      s.putRows clsVA w f.dst (rowsOut b n en (build n fun j i => if t j i then 2 ^ b - 1 else 0))
    else
      let q (i : Nat) : Bool := combRows (bits f.aux.toNat 4 3) (bits f.aux.toNat 7 5) ((List.range 8).map fun j => t j i)
      s.putLanes w (f.aux.toNat % 8) (lanesFrom b ((List.range n).map q)) (lanesFrom b ((List.range n).map en))

/-- VCMPEQ, R170. -/
def execVcmpeq (u : Unit2) (f : FV) (s : State) : Out :=
  compare (.vcmpeq u f) 0x10 u f (relOf f (fun a b => a.eq b) (fun a b => a == b)) s

/-- VCMPNE, R170. -/
def execVcmpne (u : Unit2) (f : FV) (s : State) : Out :=
  compare (.vcmpne u f) 0x11 u f (relOf f (fun a b => !a.eq b) (fun a b => a != b)) s

/-- VCMPLT, R170. -/
def execVcmplt (u : Unit2) (f : FV) (s : State) : Out :=
  compare (.vcmplt u f) 0x12 u f (relOf f (fun a b => a.lt b) (fun a b => decide (a < b))) s

/-- VCMPLE, R170. -/
def execVcmple (u : Unit2) (f : FV) (s : State) : Out :=
  compare (.vcmple u f) 0x13 u f (relOf f (fun a b => a.lt b || a.eq b) (fun a b => decide (a ≤ b))) s

/-- VCMPGT, R170. -/
def execVcmpgt (u : Unit2) (f : FV) (s : State) : Out :=
  compare (.vcmpgt u f) 0x14 u f (relOf f (fun a b => b.lt a) (fun a b => decide (b < a))) s

/-- VCMPGE, R170. -/
def execVcmpge (u : Unit2) (f : FV) (s : State) : Out :=
  compare (.vcmpge u f) 0x15 u f (relOf f (fun a b => b.lt a || a.eq b) (fun a b => decide (b ≤ a))) s

/-- VSEL, R171: the test is on the element's bits. -/
def execVsel (u : Unit2) (f : FV) (s : State) : Out :=
  elementwise (.vsel u f) 0x16 u f (fun a b c => if c ≠ 0 then a else b) s

/-- VMOV, R171. -/
def execVmov (u : Unit2) (f : FV) (s : State) : Out :=
  elementwise (.vmov u f) 0x17 u f (fun a _ _ => a) s

/-! ## Logic, shifts and counts (R172) -/

/-- VAND, R172. -/
def execVand (u : Unit2) (f : FV) (s : State) : Out :=
  elementwise (.vand u f) 0x18 u f (fun a b _ => a &&& b) s

/-- VOR, R172. -/
def execVor (u : Unit2) (f : FV) (s : State) : Out :=
  elementwise (.vor u f) 0x19 u f (fun a b _ => a ||| b) s

/-- VXOR, R172. -/
def execVxor (u : Unit2) (f : FV) (s : State) : Out :=
  elementwise (.vxor u f) 0x1A u f (fun a b _ => a ^^^ b) s

/-- VANDN, R172. -/
def execVandn (u : Unit2) (f : FV) (s : State) : Out :=
  elementwise (.vandn u f) 0x1B u f (fun a b _ => a &&& (b ^^^ (2 ^ fmtBits f.fmt.toNat - 1))) s

/-- VNOT, R172. -/
def execVnot (u : Unit2) (f : FV) (s : State) : Out :=
  elementwise (.vnot u f) 0x1C u f (fun a _ _ => a ^^^ (2 ^ fmtBits f.fmt.toNat - 1)) s

/-- VSHL, R172. -/
def execVshl (u : Unit2) (f : FV) (s : State) : Out :=
  elementwise (.vshl u f) 0x1D u f (fun a b _ => a * 2 ^ (b % fmtBits f.fmt.toNat)) s

/-- VSHR, R172. -/
def execVshr (u : Unit2) (f : FV) (s : State) : Out :=
  elementwise (.vshr u f) 0x1E u f (fun a b _ => a / 2 ^ (b % fmtBits f.fmt.toNat)) s

/-- VSAR, R172. -/
def execVsar (u : Unit2) (f : FV) (s : State) : Out :=
  elementwise (.vsar u f) 0x1F u f (fun a b _ => wrap (fmtBits f.fmt.toNat) (signed (fmtBits f.fmt.toNat) a / 2 ^ (b % fmtBits f.fmt.toNat))) s

/-- VCLZ, R172. -/
def execVclz (u : Unit2) (f : FV) (s : State) : Out :=
  elementwise (.vclz u f) 0x3C u f (fun a _ _ => if a = 0 then fmtBits f.fmt.toNat else fmtBits f.fmt.toNat - 1 - a.log2) s

/-- One bits among the low n bits. -/
def onesIn : Nat → Nat → Nat
  | 0, _ => 0
  | n + 1, a => a % 2 + onesIn n (a / 2)

/-- VPOPC, R172. -/
def execVpopc (u : Unit2) (f : FV) (s : State) : Out :=
  elementwise (.vpopc u f) 0x3D u f (fun a _ _ => onesIn (fmtBits f.fmt.toNat) a) s

/-! ## Widening multiply-accumulate (R173) -/

/-- VMACW's c: INT32 elements, an immediate converted from FMT (R163). -/
def Mach.elems32 (m : Mach) (w : Bool) (f : FV) (sel : BitVec 8) : List (List Nat) :=
  if 128 ≤ sel.toNat then
    let x := wrap 32 (decI' f.fmt.toNat (immCode f.fmt.toNat (sel.toNat - 128)))
    List.replicate 8 (List.replicate (widBits f.wid / 32) x)
  else m.elems w f sel 32

/-- VMACW, R173. -/
def execVmacw (u : Unit2) (f : FV) (s : State) : Out :=
  vector (.vmacw u f) 0x20 f s fun s =>
    let m := s.rd
    let w := isW u
    let fa := f.fmt.toNat
    let b := fmtBits fa
    let k := 32 / b
    let n := widBits f.wid / 32
    -- SBX gives b the opposite signedness: the neighbouring code of the same width
    let fb := if f.aux.getLsbD 1 then (if fa % 2 = 1 then fa + 1 else fa - 1) else fa
    let x := m.elems w f f.sa b
    let y := m.elems w f f.sb b
    let z := m.elems32 w f f.sc
    let sum (j i : Nat) : Int :=
      ((List.range k).map fun t => decI' fa (at2 x j (k * i + t)) * decI' fb (at2 y j (k * i + t))).foldl (· + ·)
        (signed 32 (at2 z j i))
    let en (i : Nat) : Bool := f.men == 0 || laneOf (m.core.lanes w f.msk.toNat) 32 i
    s.putRows clsVA w f.dst (rowsOut 32 n en (build n fun j i =>
      wrap 32 (if f.aux.getLsbD 0 then clampI 9 (sum j i) else sum j i)))

/-! ## Conversions and quantisation (R174, R175) -/

/-- Elements of `bd` bits placed from index `off` on: written where enabled at that width. -/
def chunkOut (m : Mach) (w : Bool) (f : FV) (bd n off : Nat) (g : Nat → Nat → Nat) : Rows :=
  let total := widBits f.wid / bd
  let en (q : Nat) : Bool :=
    decide (off ≤ q) && decide (q < off + n) && (f.men == 0 || laneOf (m.core.lanes w f.msk.toNat) bd q)
  rowsOut bd total en (build total fun j q => g j (q - off))

/-- VCVT, R174. -/
def execVcvt (u : Unit2) (f : FV) (s : State) : Out :=
  vector (.vcvt u f) 0x21 f s fun s =>
    let m := s.rd
    let w := isW u
    let fs := f.fmt.toNat
    let fd := f.aux.toNat % 16
    let bs := fmtBits fs
    let bd := fmtBits fd
    let n := widBits f.wid / max bs bd
    let chunk := bits f.aux.toNat 6 5
    let x := m.elems w f f.sa bs
    let so := if bd < bs then 0 else chunk * n
    let d := if bd < bs then chunk * n else 0
    s.putRows clsVA w f.dst (chunkOut m w f bd n d fun j i =>
      convert fs fd f.rnd.toNat (f.aux.getLsbD 4) (at2 x j (so + i)))

/-- The 8-bit format of a QF code (R168). -/
def qfFmt (q : Nat) : Nat := 3 + q % 4

/-- The scale of row j and narrow index q (R175). -/
def scaleOf (c : Core) (cr j q : Nat) : Nat := ((spGet 0 c.c cr).toNat / 256 ^ (4 * j + q / 32)) % 256

/-- x under the scale, exactly: NaN for the NaN scale (R119, R130). -/
def scaled (v : Val) (code : Nat) (neg : Bool) : Val :=
  if code = 0x80 then .nan else v.scale (if neg then -(signed 8 code) else signed 8 code)

/-- One rounding of a value to a target format, integers clamping (R126, R130). -/
def roundTo (f mode : Nat) (sat : Bool) (v : Val) : Nat :=
  if isFloat f then roundSat f mode sat v else wrap (fmtBits f) (toIntClamp f mode v)

/-- The value of an element of a float or integer format. -/
def valOf (f c : Nat) : Val := if isFloat f then decF f c else if f = 12 then sc8Val c else Val.ofInt (decI' f c)

/-- A source read in another format than FMT: an immediate is converted to it (R163). -/
def Mach.elemsAs (m : Mach) (w : Bool) (f : FV) (sel : BitVec 8) (fmt : Nat) : List (List Nat) :=
  let b := fmtBits fmt
  if 128 ≤ sel.toNat then
    let x := convert f.fmt.toNat fmt f.rnd.toNat false (immCode f.fmt.toNat (sel.toNat - 128))
    List.replicate 8 (List.replicate (widBits f.wid / b) x)
  else m.elems w f sel b

/-- VQNT, R175. -/
def execVqnt (u : Unit2) (f : FV) (s : State) : Out :=
  vector (.vqnt u f) 0x22 f s fun s =>
    let m := s.rd
    let w := isW u
    let bs := fmtBits f.fmt.toNat
    let n := widBits f.wid / bs
    let off := bits f.aux.toNat 4 3 * n
    let x := m.elems w f f.sa bs
    s.putRows clsVA w f.dst (chunkOut m w f 8 n off fun j i =>
      roundTo (qfFmt f.aux.toNat) f.rnd.toNat (f.aux.getLsbD 2)
        (scaled (decF f.fmt.toNat (at2 x j i)) (scaleOf m.core (bits f.aux.toNat 9 5) j (off + i)) true))

/-- VDQN, R175. -/
def execVdqn (u : Unit2) (f : FV) (s : State) : Out :=
  vector (.vdqn u f) 0x23 f s fun s =>
    let m := s.rd
    let w := isW u
    let bd := fmtBits f.fmt.toNat
    let n := widBits f.wid / bd
    let off := bits f.aux.toNat 4 3 * n
    let qf := qfFmt f.aux.toNat
    let x := m.elemsAs w f f.sa qf
    s.putRows clsVA w f.dst (rowsOut bd n (enabled m.core w f) (build n fun j i =>
      roundF f.fmt.toNat f.rnd.toNat
        (scaled (valOf qf (at2 x j (off + i))) (scaleOf m.core (bits f.aux.toNat 9 5) j (off + i)) false)))

/-! ## Rearrangement (R176 to R178) -/

/-- Rows rearranged: elements of FMT's width by row and index. -/
def rearrange (i : Instr) (op : Nat) (u : Unit2) (f : FV)
    (g : (n : Nat) → (Nat → Nat → Nat) → (Nat → Nat → Nat) → Nat → Nat → Nat) (s : State) : Out :=
  vector i op f s fun s =>
    let m := s.rd
    let w := isW u
    let b := fmtBits f.fmt.toNat
    let n := f.elems
    let (_, ua, ub, _) := usesSel op f
    let x := if ua then m.elems w f f.sa b else []
    let y := if ub then m.elems w f f.sb b else []
    s.putRows clsVA w f.dst (rowsOut b n (enabled m.core w f) (build n (g n (at2 x) (at2 y))))

/-- The element that pattern PAT of VSHUF puts at (j, i) (R177). -/
def shufAt (pat n : Nat) (a b : Nat → Nat → Nat) (j i : Nat) : Nat :=
  let h := n / 2
  match pat with
  | 0 => if i % 2 = 0 then a j (i / 2) else b j (i / 2)
  | 1 => if i % 2 = 0 then a j (h + i / 2) else b j (h + i / 2)
  | 2 => if i < h then a j (2 * i) else b j (2 * (i - h))
  | 3 => if i < h then a j (2 * i + 1) else b j (2 * (i - h) + 1)
  | 4 => a j (n - 1 - i)
  | 5 => a j (i ^^^ 1)
  | _ => a (i % 8) (i / 8 * 8 + j)

/-- VBCAST, R176. -/
def execVbcast (u : Unit2) (f : FV) (s : State) : Out :=
  rearrange (.vbcast u f) 0x24 u f (fun _ a _ _ _ => a (bits f.aux.toNat 9 7) (f.aux.toNat % 128)) s

/-- VPERM, R176. -/
def execVperm (u : Unit2) (f : FV) (s : State) : Out :=
  rearrange (.vperm u f) 0x25 u f (fun n a b j i => a j (b j i % n)) s

/-- VROT, R176. R168 gives no codes for DIR: 0 is taken as .up, 1 as .down (DESIGN CHOICE, log 64). -/
def execVrot (u : Unit2) (f : FV) (s : State) : Out :=
  rearrange (.vrot u f) 0x27 u f (fun n a _ j i => let k := f.aux.toNat % 128 % n; if f.aux.getLsbD 7 then a j ((i + k) % n) else a j ((i + n - k) % n)) s

/-- VLUT, R176. -/
def execVlut (u : Unit2) (f : FV) (s : State) : Out :=
  rearrange (.vlut u f) 0x29 u f (fun n a b j i => b 0 (a j i % n)) s

/-- VSHUF, R177. -/
def execVshuf (u : Unit2) (f : FV) (s : State) : Out :=
  rearrange (.vshuf u f) 0x26 u f (fun n a b j i => shufAt (f.aux.toNat % 16) n a b j i) s

/-- VIOTA, R176. A number as an SC8 code is not stated: free (log 27). -/
def execViota (u : Unit2) (f : FV) (s : State) : Out :=
  vector (.viota u f) 0x28 f s fun s =>
    let m := s.rd
    let w := isW u
    let fm := f.fmt.toNat
    let b := fmtBits fm
    let n := f.elems
    let num (j i : Nat) : Nat := if f.aux.getLsbD 0 then j * n + i else i
    let free := Config.freeNat s.freeIdx
    let code (x : Nat) : Nat :=
      if isFloat fm then roundF fm f.rnd.toNat (Val.ofInt x) else if fm = 12 then free / 256 ^ x % 256 else x
    (if fm = 12 then s.used else s).putRows clsVA w f.dst (rowsOut b n (enabled m.core w f) (build n fun j i => code (num j i)))

/-- The integer format of half the width and the same signedness (R178). -/
def halfFmt (f : Nat) : Nat := f - 2

/-- VPACK, R178. -/
def execVpack (u : Unit2) (f : FV) (s : State) : Out :=
  vector (.vpack u f) 0x2A f s fun s =>
    let m := s.rd
    let w := isW u
    let fm := f.fmt.toNat
    let b := fmtBits fm
    let n := f.elems
    let x := m.elems w f f.sa b
    let y := m.elems w f f.sb b
    let narrow (c : Nat) : Nat :=
      if f.aux.getLsbD 0 then wrap (b / 2) (clampI (halfFmt fm) (decI' fm c)) else c % 2 ^ (b / 2)
    let en (q : Nat) : Bool := f.men == 0 || laneOf (m.core.lanes w f.msk.toNat) (b / 2) q
    s.putRows clsVA w f.dst (rowsOut (b / 2) (2 * n) en (build (2 * n) fun j k =>
      if k < n then narrow (at2 x j k) else narrow (at2 y j (k - n))))

/-- VUNPK, R178. -/
def execVunpk (u : Unit2) (f : FV) (s : State) : Out :=
  vector (.vunpk u f) 0x2B f s fun s =>
    let m := s.rd
    let w := isW u
    let fm := f.fmt.toNat
    let b := fmtBits fm
    let n := f.elems
    let x := m.elemsAs w f f.sa (halfFmt fm)
    let off := if f.aux.getLsbD 0 then n else 0
    s.putRows clsVA w f.dst (rowsOut b n (enabled m.core w f) (build n fun j k =>
      wrap b (decI' (halfFmt fm) (at2 x j (off + k)))))

/-! ## Reductions and statistics (R132, R179 to R181) -/

/-- One level of the pairwise tree; a node with one input passes it on (R132). -/
def treeLevel {α : Type} (op : α → α → α) : List (Option α) → List (Option α)
  | [] => []
  | [a] => [a]
  | a :: b :: t =>
    (match a, b with
     | some x, some y => some (op x y)
     | some x, none => some x
     | none, y => y) :: treeLevel op t

/-- The tree over a row; the fuel is the number of levels. -/
def tree {α : Type} (op : α → α → α) : Nat → List (Option α) → Option α
  | 0, l => l.headD none
  | k + 1, l => tree op k (treeLevel op l)

/-- The tree of a whole row of at most 128 elements. -/
def rowTree {α : Type} (op : α → α → α) (l : List (Option α)) : Option α := tree op 7 l

/-- Rows combined in row order; rows with no enabled element are skipped (R132). -/
def acrossRows {α : Type} (op : α → α → α) (l : List (Option α)) : Option α :=
  l.foldl (fun acc x => match acc, x with
    | none, y => y
    | some a, some b => some (op a b)
    | some a, none => some a) none

/-- Which elements of a row are enabled inputs. -/
def pick {α : Type} (en : Nat → Bool) (l : List α) : List (Option α) :=
  ((List.range l.length).zip l).map fun x => if en x.1 then some x.2 else none

/-- The 32-bit format a reduction works in. -/
def redFmt (f : FV) : Nat := if isFloat f.fmt.toNat then 0 else if isSigned f.fmt.toNat then 9 else 10

/-- A reduction's result: a NaN is the canonical one (R124). -/
def redOut (f : FV) (x : Nat) : Nat := if redFmt f = 0 ∧ (decF 0 x).isNaN then canonNaN 0 else x

/-- A reduction: elements as 32-bit codes by `inp`, combined by `op`, with `empty` for no input (R179). -/
def reduce (i : Instr) (op : Nat) (u : Unit2) (f : FV) (inp : Nat → Nat) (comb : Nat → Nat → Nat) (empty : Nat) (s : State) : Out :=
  vector i op f s fun s =>
    let m := s.rd
    let w := isW u
    let en := enabled m.core w f
    let rows := (m.elems w f f.sa (fmtBits f.fmt.toNat)).map fun r => rowTree comb (pick en (r.map inp))
    let res (j : Nat) : Option Nat :=
      if f.aux.getLsbD 0 then some ((rows.getD j none).getD empty)
      else if j = 0 then some ((acrossRows comb rows).getD empty) else none
    s.putRows clsVR w f.dst ((List.range 8).map fun j => match res j with
      | some x => (BitVec.ofNat 1024 (redOut f x), BitVec.ofNat 1024 (2 ^ 32 - 1))
      | none => (0, 0))

/-- An input of a reduction as a 32-bit code: a float widened to FP32, an integer extended by its sign (R125, R179). -/
def wide32 (f : FV) (c : Nat) : Nat :=
  let m := f.fmt.toNat
  if isFloat m then convert m 0 0 false c else wrap 32 (decI' m c)

/-- Combine two 32-bit codes. -/
def comb32 (f : FV) (fl : Val → Val → Val) (it : Int → Int → Int) (a b : Nat) : Nat :=
  if redFmt f = 0 then roundF 0 f.rnd.toNat (fl (decF 0 a) (decF 0 b))
  else wrap 32 (it (decI' (redFmt f) a) (decI' (redFmt f) b))

/-- VRSUM, R179. -/
def execVrsum (u : Unit2) (f : FV) (s : State) : Out :=
  reduce (.vrsum u f) 0x2C u f (wide32 f) (comb32 f (fun a b => a.add f.rnd.toNat b) (· + ·)) 0 s

/-- VRMAX, R179: with no input −∞, or the least value. -/
def execVrmax (u : Unit2) (f : FV) (s : State) : Out :=
  reduce (.vrmax u f) 0x2D u f (wide32 f) (comb32 f (fun a b => a.max b) max)
    (if redFmt f = 0 then 0xFF800000 else wrap 32 (intMin (redFmt f))) s

/-- VRMIN, R179: with no input +∞, or the greatest value. -/
def execVrmin (u : Unit2) (f : FV) (s : State) : Out :=
  reduce (.vrmin u f) 0x2E u f (wide32 f) (comb32 f (fun a b => a.min b) min)
    (if redFmt f = 0 then 0x7F800000 else wrap 32 (intMax (redFmt f))) s

/-- A statistics row: SUM, SSQ and CNT, as 32-bit codes in bits 95:0 (R180). -/
def statRow (m : Mach) (w : Bool) (f : FV) (sel : BitVec 8) (j : Nat) : Nat × Nat × Nat :=
  if 128 ≤ sel.toNat then
    let k := immCode f.fmt.toNat (sel.toNat - 128)
    let x := convert f.fmt.toNat 0 f.rnd.toNat false k
    (x, x, wrap 32 (toIntClamp 10 f.rnd.toNat (decF 0 x)))
  else
    let r := ((m.srcRows w f sel).getD j 0).toNat
    (r % 2 ^ 32, r / 2 ^ 32 % 2 ^ 32, r / 2 ^ 64 % 2 ^ 32)

def statBits (t : Nat × Nat × Nat) : Row × Row :=
  (BitVec.ofNat 1024 (t.1 % 2 ^ 32 + t.2.1 % 2 ^ 32 * 2 ^ 32 + t.2.2 % 2 ^ 32 * 2 ^ 64), BitVec.ofNat 1024 (2 ^ 96 - 1))

/-- A statistics row with sums and a count added; unchanged where nothing was enabled (R180). -/
def statAdd (mode : Nat) (c : Nat × Nat × Nat) (t q : Option Val) (n : Nat) : Nat × Nat × Nat :=
  match t, q with
  | some t, some q => (roundF 0 mode ((decF 0 c.1).add mode t), roundF 0 mode ((decF 0 c.2.1).add mode q), (c.2.2 + n) % 2 ^ 32)
  | _, _ => c

/-- VSTAT, R180. -/
def execVstat (u : Unit2) (f : FV) (s : State) : Out :=
  vector (.vstat u f) 0x2F f s fun s =>
    let m := s.rd
    let w := isW u
    let mode := f.rnd.toNat
    let en := enabled m.core w f
    let x := m.elems w f f.sa (fmtBits f.fmt.toNat)
    let add (a b : Val) : Val := rnd32 mode (a.add mode b)
    let vals (j : Nat) : List (Option Val) := pick en ((x.getD j []).map (decF f.fmt.toNat))
    let t := (List.range 8).map fun j => rowTree add (vals j)
    let q := (List.range 8).map fun j => rowTree add ((vals j).map fun v => v.map fun v => v.mul v)
    let n := ((List.range f.elems).filter en).length
    s.putRows clsVR w f.dst ((List.range 8).map fun j =>
      if f.aux.getLsbD 0 then statBits (statAdd mode (statRow m w f f.sc j) (t.getD j none) (q.getD j none) n)
      else if j = 0 then statBits (statAdd mode (statRow m w f f.sc 0) (acrossRows add t) (acrossRows add q) (8 * n))
      else (0, 0))

/-- 1/√v, for one rounding (R124, R181). -/
def invSqrt (v : Val) : Val :=
  match v with
  | .nan => .nan
  | .inf s => if s then .nan else .fin false 0 1
  | .fin s n d => if n = 0 then .inf s else if s then .nan else let (a, b) := sqrtFrac d n; .fin false a b

/-- Mean, rs and dv of a statistics row under ε (R181). -/
def normRow (t : Nat × Nat × Nat) (eps : Nat) : Nat × Nat × Nat :=
  let cnt := Val.ofInt t.2.2
  let quo (x : Nat) : Val := if t.2.2 = 0 then .nan else rne32 ((decF 0 x).div cnt)
  let mean := quo t.1
  let msq := quo t.2.1
  let dv := rne32 (msq.sub 0 (mean.mul mean))
  let arg := rne32 ((dv.max (.fin false 0 1)).add 0 (decF 0 eps))
  (roundF 0 0 mean, roundF 0 0 (rne32 (invSqrt arg)), roundF 0 0 dv)

/-- VNORM, R181: of the three words of a row it writes the enabled ones (R103, R164). -/
def execVnorm (u : Unit2) (f : FV) (s : State) : Out :=
  vector (.vnorm u f) 0x30 f s fun s =>
    let m := s.rd
    let w := isW u
    let y := m.elems w f f.sb 32
    let mask := enabledBits (enabled m.core w f) 32 3
    s.putRows clsVR w f.dst ((List.range 8).map fun j =>
      if f.aux.getLsbD 0 ∨ j = 0 then ((statBits (normRow (statRow m w f f.sa j) (at2 y j 0))).1, mask) else (0, 0))

/-! ## Selection, sorting and segments (R182 to R184) -/

/-- Rank of an element for VTOPK: its magnitude, a NaN above every number. -/
def topkRank (f c : Nat) : Nat :=
  if (decF f c).isNaN then 2 ^ fmtBits f else c % 2 ^ (fmtBits f - 1)

/-- VTOPK on one group of codes (R182): selected elements keep their bits, other enabled ones are +0. -/
def topkGroup (f k : Nat) (l : List (Nat × Bool)) : List Nat :=
  let n := l.length
  let key (i : Nat) : Nat := topkRank f (l.getD i (0, false)).1
  let on (i : Nat) : Bool := (l.getD i (0, false)).2
  (List.range n).map fun i =>
    let above := ((List.range n).filter fun j => on j && (decide (key i < key j) || (key j == key i && decide (j < i)))).length
    if above < k then (l.getD i (0, false)).1 else 0

/-- VTOPK, R182. -/
def execVtopk (u : Unit2) (f : FV) (s : State) : Out :=
  vector (.vtopk u f) 0x31 f s fun s =>
    let m := s.rd
    let w := isW u
    let b := fmtBits f.fmt.toNat
    let n := f.elems
    let en := enabled m.core w f
    let g := 2 ^ (f.aux.toNat % 8 + 3)
    let x := m.elems w f f.sa b
    let row (j : Nat) : List Nat :=
      ((List.range (n / g)).map fun q =>
        topkGroup f.fmt.toNat (bits f.aux.toNat 9 3) ((List.range g).map fun t => (at2 x j (q * g + t), en (q * g + t)))).flatten
    s.putRows clsVR w f.dst (rowsOut b n en ((List.range 8).map row))

/-- The sort key of a code (R183): integers by their sign, floats with −0 below +0 and every NaN on top. -/
def sortKey (f c : Nat) : Int :=
  if isFloat f then
    if (decF f c).isNaN then 2 ^ fmtBits f
    else if c / 2 ^ (fmtBits f - 1) % 2 = 1 then -((c % 2 ^ (fmtBits f - 1) : Nat) : Int) - 1 else (c : Nat)
  else decI' f c

/-- Insert after the entries that come before it; the list holds key and payload in order. -/
def insertBy (before : Nat → Nat → Bool) (x : Nat × Nat) : List (Nat × Nat) → List (Nat × Nat)
  | [] => [x]
  | y :: t => if before x.1 y.1 then x :: y :: t else y :: insertBy before x t

/-- A stable sort: equal keys keep their order. -/
def stableSort (before : Nat → Nat → Bool) (l : List (Nat × Nat)) : List (Nat × Nat) :=
  l.foldl (fun acc x => insertBy before x acc) []

/-- VSORT, R183. -/
def execVsort (u : Unit2) (f : FV) (s : State) : Out :=
  vector (.vsort u f) 0x32 f s fun s =>
    let m := s.rd
    let w := isW u
    let fm := f.fmt.toNat
    let b := fmtBits fm
    let n := f.elems
    let g := 2 ^ (bits f.aux.toNat 3 1 + 1)
    let x := m.elems w f f.sa b
    let y := m.elems w f f.sb b
    let before (p q : Nat) : Bool :=
      if f.aux.getLsbD 0 then decide (sortKey fm q < sortKey fm p) else decide (sortKey fm p < sortKey fm q)
    let row (j : Nat) : List (Nat × Nat) :=
      ((List.range (n / g)).map fun q =>
        stableSort before ((List.range g).map fun t => (at2 x j (q * g + t), at2 y j (q * g + t)))).flatten
    let rows := (List.range 8).map row
    s.putPair clsVR w f.dst (rowsOut b n (fun _ => true) (rows.map fun r => r.map (·.1)))
      (rowsOut b n (fun _ => true) (rows.map fun r => r.map (·.2)))

/-- Add a value to the run it belongs to; runs are held newest first as key and sum (R184). -/
def segAdd (f mode : Nat) (acc : List (Nat × Nat)) (x : Nat × Nat) : List (Nat × Nat) :=
  match acc with
  | (k, v) :: t =>
    if k = x.1 then
      (k, if isFloat f then roundF f mode ((decF f v).add mode (decF f x.2)) else (v + x.2) % 2 ^ fmtBits f) :: t
    else x :: acc
  | [] => [x]

/-- VSEGSUM, R184. -/
def execVsegsum (u : Unit2) (f : FV) (s : State) : Out :=
  vector (.vsegsum u f) 0x33 f s fun s =>
    let m := s.rd
    let w := isW u
    let fm := f.fmt.toNat
    let b := fmtBits fm
    let n := f.elems
    let x := m.elems w f f.sa b
    let y := m.elems w f f.sb b
    let row (j : Nat) : List (Nat × Nat) :=
      let runs := (((x.getD j []).zip (y.getD j [])).foldl (segAdd fm f.rnd.toNat) []).reverse
      runs ++ List.replicate (n - runs.length) (2 ^ b - 1, 0)
    let rows := (List.range 8).map row
    s.putPair clsVR w f.dst (rowsOut b n (fun _ => true) (rows.map fun r => r.map (·.2)))
      (rowsOut b n (fun _ => true) (rows.map fun r => r.map (·.1)))

/-! ## Masks, row counters, cross-file copies (R185 to R187) -/

/-- The bits of a mask that WID names (R185). -/
def widLanes (f : FV) : Lanes := BitVec.ofNat 128 (2 ^ (widBits f.wid / 8) - 1)

/-- A logic operation on masks. -/
def maskOp (i : Instr) (op : Nat) (u : Unit2) (f : FV) (fn : Lanes → Lanes → Lanes) (s : State) : Out :=
  vector i op f s fun s =>
    let c := s.rd.core
    let w := isW u
    s.putLanes w (f.aux.toNat % 8) (fn (c.lanes w (bits f.aux.toNat 5 3)) (c.lanes w (bits f.aux.toNat 8 6))) (widLanes f)

/-- VMAND, R185. -/
def execVmand (u : Unit2) (f : FV) (s : State) : Out :=
  maskOp (.vmand u f) 0x34 u f (fun a b => a &&& b) s

/-- VMOR, R185. -/
def execVmor (u : Unit2) (f : FV) (s : State) : Out :=
  maskOp (.vmor u f) 0x35 u f (fun a b => a ||| b) s

/-- VMXOR, R185. -/
def execVmxor (u : Unit2) (f : FV) (s : State) : Out :=
  maskOp (.vmxor u f) 0x36 u f (fun a b => a ^^^ b) s

/-- VMNOT, R185. -/
def execVmnot (u : Unit2) (f : FV) (s : State) : Out :=
  maskOp (.vmnot u f) 0x37 u f (fun a _ => ~~~a) s

/-- VMSET, R185: the bits of each element of row r. -/
def execVmset (u : Unit2) (f : FV) (s : State) : Out :=
  vector (.vmset u f) 0x38 f s fun s =>
    let w := isW u
    let b := fmtBits f.fmt.toNat
    let x := s.rd.elems w f f.sa b
    s.putLanes w (f.aux.toNat % 8) (lanesFrom b ((x.getD (bits f.aux.toNat 8 6) []).map (· != 0))) (widLanes f)

/-- VMPOP, R185. -/
def execVmpop (u : Unit2) (f : FV) (s : State) : Out :=
  vector (.vmpop u f) 0x39 f s fun s =>
    let w := isW u
    let a := s.rd.core.lanes w (bits f.aux.toNat 5 3) &&& widLanes f
    s.putRows clsVA w f.dst (List.replicate 8 (BitVec.ofNat 1024 (onesIn 128 a.toNat), BitVec.ofNat 1024 (2 ^ 32 - 1)))

/-- VSETROW, R60, R186: visible to the next bundle. -/
def execVsetrow (u : Unit2) (f : FV) (s : State) : Out :=
  vector (.vsetrow u f) 0x3B f s fun s =>
    let val := BitVec.ofNat 8 f.aux.toNat
    let put (old : BitVec 8) : BitVec 8 := if bits f.aux.toNat 9 8 = 0 then val else old + val
    let was := s.rd.core
    s.setCore fun c => if isW u then { c with wrow := put was.wrow } else { c with vrow := put was.vrow }

/-- VXFER, R113, R187: from the other file, by its row counter. -/
def execVxfer (u : Unit2) (f : FV) (s : State) : Out :=
  vector (.vxfer u f) 0x3A f s fun s =>
    let m := s.rd
    let w := isW u
    let b := fmtBits f.fmt.toNat
    let n := f.elems
    s.putRows clsXC w f.dst (rowsOut b n (enabled m.core w f) (m.elems (!w) f f.sa b))

/-! ## Scale loads (R188, R189) -/

/-- The faults of a scale load, and its scratchpad key. -/
def scaleAt (m : Mach) (a : Word) (align n : Nat) : Except Nat Nat :=
  let own := qbase + m.core.rank * 2 ^ 26
  if a.toNat % align ≠ 0 then .error 0x30
  else if a.toNat < own ∨ own + 2 ^ 26 ≤ a.toNat then .error 0x36
  else
    let key := a.toNat - qbase
    if !m.quad.inRange key then .error 0x36
    else if m.quad.isPending key then .error 0x31
    else if m.quad.poisoned key n then .error 0x33
    else .ok key

/-- Load a c register from n bytes, repeated to fill it; it waits as a load does (R66, R188, R294). -/
def State.scaleLoad (s : State) (f : FLS) (n : Nat) : State :=
  let m := s.rd
  let a := s.reg f.ra + f.off.signExtend 64 * 128
  match scaleAt m a n n with
  | .error k => s.raise k a
  | .ok key =>
    if m.core.fenced || (m.core.memq.any fun o => o.kind == .amo && o.overlaps true key n) || m.core.padOverdue key n then s.stall
    else
      let b := overlay m.core.stores true key (m.quad.read key n)
      let all := (List.range 128).map fun k => b.getD (k % n) 0
      s.expose clsLS 5 f.cd.toNat [⟨.c f.cd.toNat, rowOf all⟩]

/-- LDSC, R188. -/
def execLdsc (f : FLS) (s : State) : Out := gated (.ldsc f) s fun s => s.scaleLoad f 128

/-- LDSCB, R188. -/
def execLdscb (f : FLS) (s : State) : Out := gated (.ldscb f) s fun s => s.scaleLoad f 32

end Sys2Proof.Machine
end

