-- ==== Sys2Proof/Machine/Data.lean ====
section
/-! DEFINITION. Copies, multicast, gathers, fills, cache operations, joins and the transform station (R236 to R251), and
PHASE (R218, R219). -/

namespace Sys2Proof

/-- The shape registers that ARG names (R236). -/
def FE.qs (f : FE) : Nat := f.a 19 2
def FE.qd (f : FE) : Nat := f.a 17 2
def FE.qx (f : FE) : Nat := f.a 15 2

end Sys2Proof

namespace Sys2Proof.Machine

/-! ## Issue -/

/-- The pattern or operand of DFILL and TMOV: the literal, or the low 32 bits of RV (R236, R242). -/
def State.rvLow (s : State) (f : FE) : Word :=
  match f.lit with
  | some l => l.setWidth 64
  | none => (s.reg (f.arg.extractLsb' 5 6)) &&& 0xFFFFFFFF

/-- DCPY, R239. -/
def execDcpy (f : FE) (s : State) : Out := gated (.dcpy f) s fun s => s.engIssue (.dcpy f) f true [] [] id

/-- DMC, R240. -/
def execDmc (f : FE) (s : State) : Out := gated (.dmc f) s fun s => s.engIssue (.dmc f) f true [] [] id

/-- DGAT, R241. -/
def execDgat (f : FE) (s : State) : Out := gated (.dgat f) s fun s => s.engIssue (.dgat f) f true [] [] id

/-- DSCT, R241. -/
def execDsct (f : FE) (s : State) : Out := gated (.dsct f) s fun s => s.engIssue (.dsct f) f true [] [] id

/-- DZERO, R242. -/
def execDzero (f : FE) (s : State) : Out := gated (.dzero f) s fun s => s.engIssue (.dzero f) f true [] [] id

/-- DFILL, R242. -/
def execDfill (f : FE) (s : State) : Out :=
  gated (.dfill f) s fun s => s.engIssue (.dfill f) f true [s.rvLow f] [] id

/-- DPREF, R243. -/
def execDpref (f : FE) (s : State) : Out := gated (.dpref f) s fun s => s.engIssue (.dpref f) f true [] [] id

/-- DFLUSH, R244. -/
def execDflush (f : FE) (s : State) : Out := gated (.dflush f) s fun s => s.engIssue (.dflush f) f true [] [] id

/-- DINV, R245. -/
def execDinv (f : FE) (s : State) : Out := gated (.dinv f) s fun s => s.engIssue (.dinv f) f true [] [] id

/-- DJOIN, R246: with ENG it waits for every earlier engine instruction; with ST, for the pushes and stores of earlier
bundles, whose number it keeps. -/
def execDjoin (f : FE) (s : State) : Out :=
  gated (.djoin f) s fun s =>
    let c := s.rd.core
    s.engIssue (.djoin f) f true [] (if f.a 4 1 = 1 then c.engIds else []) fun o => { o with left := [(c.now.2, 0)] }

/-- TMOV to an operand port, R247. -/
def execTmovOpr (f : FE) (s : State) : Out :=
  gated (.tmovOpr f) s fun s => s.engIssue (.tmovOpr f) f true [s.rvLow f] [] id

/-- TMOV.qnt.trg, R249. -/
def execTmovQnt (f : FE) (s : State) : Out := gated (.tmovQnt f) s fun s => s.engIssue (.tmovQnt f) f true [] [] id

/-- TMOV.dqn.trg, R249. -/
def execTmovDqn (f : FE) (s : State) : Out := gated (.tmovDqn f) s fun s => s.engIssue (.tmovDqn f) f true [] [] id

/-- TMOV.lzc.trg, R250. -/
def execTmovLzc (f : FE) (s : State) : Out := gated (.tmovLzc f) s fun s => s.engIssue (.tmovLzc f) f true [] [] id

/-- TMOV.lzd.trg, R250. -/
def execTmovLzd (f : FE) (s : State) : Out := gated (.tmovLzd f) s fun s => s.engIssue (.tmovLzd f) f true [] [] id

/-- TMOV.crc.trg, R251. -/
def execTmovCrc (f : FE) (s : State) : Out := gated (.tmovCrc f) s fun s => s.engIssue (.tmovCrc f) f true [] [] id

/-- TMOV from a result port, R247. -/
def execTmovRes (f : FE) (s : State) : Out := gated (.tmovRes f) s fun s => s.engIssue (.tmovRes f) f true [] [] id

/-! ## PHASE (R218, R219) -/

/-- Eighths of a bank from one number up to another, lowest first, with the kind of their move: 0 from the cache to the
scratchpad, 1 from the scratchpad. -/
def phaseMoves (old new : Word) : List (Nat × Nat) :=
  ((List.range 16).map fun b =>
    let o := bankField old b
    let n := bankField new b
    ((List.range 8).filter fun e => o ≤ e && e < n).map (fun e => (b * 8 + e, 0)) ++
    ((List.range 8).filter fun e => n ≤ e && e < o).map (fun e => (b * 8 + e, 1))).flatten

/-- The BANK fields are legal. -/
def splitOk (x : Word) : Bool := (List.range 16).all fun b => decide (bankField x b ≤ 8)

def isPhase (o : EngOp) : Bool := match o.ins with
  | .phase _ => true
  | _ => false

/-- PHASE, R218: SPLIT and the pending marks change at issue. -/
def execPhase (f : FE) (s : State) : Out :=
  gated (.phase f) s fun s =>
    let c := s.rd.core
    let new := s.reg (f.arg.extractLsb' 15 6)
    let old := s.rd.quad.splitOf c.rank
    if !splitOk new then s.raise 0x37 new
    else if c.eng.any isPhase then s.stall
    else
      let moves := phaseMoves old new
      let s := s.engIssue (.phase f) f true [old, new] c.engIds fun o => { o with left := moves }
      if s.verdict = .stall then s
      else
        s.setCur fun m =>
          { m with core := { m.core with sb := m.core.sb.map (Result.settleIn true (c.rank * 2 ^ 26) (2 ^ 26)) }, quad := { m.quad with
              split := spSet 0 m.quad.split c.rank new
              pending := (moves.filter (·.2 == 0)).foldl (fun p k => spSet false p (c.rank * 128 + k.1) true) m.quad.pending } }

/-- Replace `n` consecutive bytes from `lo` on. -/
def cellsFill (c : List Host.Cell) (lo n : Nat) (g : Nat → Byte) : List Host.Cell :=
  c.filter (fun x => decide (x.1 < lo)) ++
  (((List.range n).map fun k => (lo + k, g k)).filter fun x => x.2 != 0) ++
  c.filter (fun x => decide (lo + n ≤ x.1))

/-- The contents of an eighth gone: its bytes and their poison. -/
def Quad.clearEighth (q : Quad) (key8 : Nat) : Quad :=
  let lo := key8 * 2 ^ 19
  { q with
    sp := cellsFill q.sp lo (2 ^ 19) fun _ => 0
    spPoison := q.spPoison.filter fun x => !(decide (lo ≤ x.1 * 128) && decide (x.1 * 128 < lo + 2 ^ 19)) }

/-- The bytes of an eighth that has joined the scratchpad: undefined (R219). -/
def Quad.freeEighth (q : Quad) (key8 idx : Nat) : Quad :=
  { q with sp := cellsFill q.sp (key8 * 2 ^ 19) (2 ^ 19) fun k => BitVec.ofNat 8 (Config.freeNat (idx + k)) }

/-- The lines whose home slices lie in an eighth leave the die L2, dirty sectors written back (R213, R218; log 52). -/
def drainEighth (m : Mem) (eighth : Nat) : Mem :=
  ((m.l2.map Prod.fst).filter fun key => eighthOf (key / 8) == eighth).foldl evictL2 m

/-- Eighths of the followed quad that are no cache: in a SPLIT, but for those that a PHASE under way has yet to drain, with those
that it has yet to release, and those that a saved group left in place (R208, R213, R218, R392). -/
def Mach.padEighths (m : Mach) : List Nat :=
  let moves := (m.core.eng.filter isPhase).flatMap (·.left)
  let taken (r k : Nat) : Bool :=
    let own := r == m.core.rank
    (decide (k % 8 < bankField (m.quad.splitOf r) (k / 8)) && !(own && moves.contains (k, 0))) || (own && moves.contains (k, 1)) ||
      m.disp.saved.any fun v => v.left.contains (r * 128 + k)
  (List.range 4).flatMap fun r => ((List.range 128).filter (taken r)).map fun k => (m.core.num / 4 * 4 + r) * 128 + k

/-- Where the splits of the quad have changed: eighths newly taken leave the die L2, the others are its again. -/
def syncPads (m : Mach) : Mach :=
  let want := m.padEighths
  { m with mem := { (want.filter fun k => !m.mem.pads.contains k).foldl drainEighth m.mem with pads := want } }

/-- Eighths that a pre-empted group left in place are saved with it before another context takes them (R392). -/
def saveEighth (m : Mach) (key8 : Nat) : Mach :=
  let lo := key8 * 2 ^ 19
  let mine (v : Saved) : Bool := v.left.contains key8
  if m.disp.saved.any mine then
    let take (v : Saved) : Saved :=
      if mine v then
        { v with
          left := v.left.filter (· != key8)
          sp := v.sp ++ m.quad.sp.filter fun x => decide (lo ≤ x.1) && decide (x.1 < lo + 2 ^ 19)
          spPoison := v.spPoison ++ m.quad.spPoison.filter fun x => decide (lo ≤ x.1 * 128) && decide (x.1 * 128 < lo + 2 ^ 19) }
      else v
    { m with disp := { m.disp with saved := m.disp.saved.map take }, quad := m.quad.clearEighth key8 }
  else m

/-- PHASE_CACHE_EIGHTH_DRAINED, R218: the next eighth of a bank that leaves the die L2. -/
def execPhaseCacheEighthDrained (op bank : Nat) (s : State) : Out :=
  .next (s.setCur fun m =>
    match m.core.op? op with
    | some o =>
      match o.left.find? fun k => k.2 == 0 && k.1 / 8 == bank with
      | some k =>
        if isPhase o && o.started then
          syncPads { m with core := m.core.setOp { o with left := o.left.filter (· != k) } }
        else m
      | none => m
    | none => m)

/-- PHASE_SCRATCH_EIGHTH_RELEASED, R218: an eighth's contents are discarded, and it joins the die L2, empty. -/
def execPhaseScratchEighthReleased (op bank : Nat) (s : State) : Out :=
  .next (s.setCur fun m =>
    match m.core.op? op with
    | some o =>
      match o.left.find? fun k => k.2 == 1 && k.1 / 8 == bank with
      | some k =>
        if isPhase o && o.started then
          let m := saveEighth m (m.core.rank * 128 + k.1)
          syncPads { m with
            core := m.core.setOp { o with left := o.left.filter (· != k) }
            quad := m.quad.clearEighth (m.core.rank * 128 + k.1) }
        else m
      | none => m
    | none => m)

/-- An eighth joins a scratchpad: what another group left there is saved, and its bytes are undefined, or zero where the
device asks for zeroed scratchpads (R114, R219, R392). -/
def joinEighth (zeroed : Bool) (s : State) (key8 : Nat) : State :=
  let m := saveEighth s.cur key8
  let q := m.quad.clearEighth key8
  if zeroed then { s with cur := { m with quad := q } }
  else { s with cur := { m with quad := q.freeEighth key8 s.freeIdx }, freeIdx := s.freeIdx + 2 ^ 19 }

/-- PHASE complete: pending marks go, and what joined is undefined, or zero where the device asks for zeroed scratchpads
(R219). -/
def phaseEnd (s : State) (o : EngOp) : State × Nat × Nat :=
  let c := s.cur.core
  let moves := phaseMoves (o.vals.getD 0 0) (o.vals.getD 1 0)
  let joined := (moves.filter (·.2 == 0)).map fun k => c.rank * 128 + k.1
  let s := joined.foldl (joinEighth c.zeroed) s
  let q := s.cur.quad
  ({ s with cur := { s.cur with quad := { q with pending := joined.foldl (fun p k => spSet false p k false) q.pending } } },
    0, 2 ^ 19 * moves.length)

/-! ## Copies (R239 to R242) -/

/-- Statuses of several shapes (R230, R237). -/
def statuses (l : List (List (BitVec 32))) : Nat := (l.map shStatus).foldl worse 0

def EngOp.sh (o : EngOp) (k : Nat) : List (BitVec 32) := o.shapes.getD k []

/-- An operation that ends before any access. -/
def Eng.stop (m : Mach) (status : Nat) : Eng := ⟨m, status, 0⟩

/-- Copy words in one order, each source word as it was or as it now stands, as free bits say (R234, R239). -/
def mixWords (idx : Nat) : List ((Nat × Nat) × Stream) → Eng → Eng
  | [], e => e
  | ((src, dst), w) :: t, e =>
    let w' := if Config.freeBit idx then (e.readPiece (src, 4)).2 else w
    mixWords (idx + 1) t (e.writePiece dst w')

/-- Addresses of the words of runs. -/
def wordsOf (l : List Run) : List Nat := (l.map fun r => (List.range (r.2 / 4)).map fun k => r.1 + 4 * k).flatten

/-- The stream in groups of n. -/
def groupsFrom {α : Type} (n : Nat) : Nat → List α → List (List α)
  | 0, _ => []
  | fuel + 1, l => l.take n :: groupsFrom n fuel (l.drop n)
def groups {α : Type} (n : Nat) (l : List α) : List (List α) := groupsFrom n (l.length / n) l

/-- DCPY. In memory, where the shapes overlap, a destination word may take a word that the copy itself wrote. -/
def dcpyEnd (s : State) (o : EngOp) (f : FE) : State × Nat × Nat :=
  let (a, b) := (o.sh f.qs, o.sh f.qd)
  let st := worse (statuses [a, b]) (if shTotal a = shTotal b then 0 else 0x07)
  if st ≠ 0 then (s, st, 0)
  else
    let (ra, rb) := (shRuns a, shRuns b)
    let (e, data) := Eng.read ⟨s.cur, 0, 0⟩ ra
    let (ws, wd) := (wordsOf ra, wordsOf rb)
    let inMem := !inWindow (shBase a) && !inWindow (shBase b) && ws.any wd.contains
    if inMem then
      let plan := (ws.zip wd).zip (groups 4 data)
      let e := mixWords (s.freeIdx + 1) (if Config.freeBit s.freeIdx then plan.reverse else plan) e
      ({ s with cur := e.m, freeIdx := s.freeIdx + 1 + plan.length }, e.status, e.info)
    else
      let e := e.write rb data
      ({ s with cur := e.m }, e.status, e.info)

/-- A stream kept with an operation, and back. -/
def keepStream (b : Stream) : List (Nat × Word × Nat) := b.map fun x => (x.1.toNat, 0, if x.2 then 1 else 0)
def keptStream (l : List (Nat × Word × Nat)) : Stream := l.map fun x => (BitVec.ofNat 8 x.1, x.2.2 == 1)

/-- DMC starts: the source is read once, and a delivery for each rank of the mask is due. -/
def dmcStart (m : Mach) (o : EngOp) (f : FE) : Mach × EngOp :=
  let (a, b) := (o.sh f.qs, o.sh f.qd)
  let st := [shStatus a, shAligned b, shSize b, if shTotal a = shTotal b then 0 else 0x07,
    if shF b 1 = 0 ∧ bits (shF b 7).toNat 3 1 = 0 then 0 else 0x07].foldl worse 0
  if st ≠ 0 then (m, { o with status := st })
  else if f.a 11 4 = 0 then (m, o)
  else
    let (e, data) := Eng.read ⟨m, 0, 0⟩ (shRuns a)
    (e.m, { o with
      status := e.status
      pairs := keepStream data
      left := ((List.range 4).filter fun r => f.a 11 4 / 2 ^ r % 2 == 1).map fun r => (r, 0) })

/-- Deliver a stream over runs of offsets in a slice; what lies outside the slice is discarded. -/
def deliver (rank : Nat) : List (Int × Nat) → Stream → Eng → Eng
  | [], _, e => e
  | (a, n) :: t, b, e =>
    let lo := max a 0
    let hi := min (a + n) (2 ^ 26)
    let part := (b.take n)
    let e := if a < 0 ∨ 2 ^ 26 < a + n then e.fail 0x04 else e
    let e :=
      if lo < hi then
        e.write [(qbase + rank * 2 ^ 26 + lo.toNat, (hi - lo).toNat)] ((part.drop (lo - a).toNat).take (hi - lo).toNat)
      else e
    deliver rank t (b.drop n) e

/-- The landing of a byte count at a receiver's object (R160, R240). -/
def landCount (e : Eng) (rank : Nat) (aux : BitVec 32) (n : Nat) : Eng :=
  let off := aux.toNat / 16 * 16
  let key := rank * 2 ^ 26 + off
  if aux.getLsbD 0 = false ∨ n = 0 then e
  else if 2 ^ 26 ≤ off ∨ !e.m.quad.inRange key then e.fail 0x04
  else if e.m.quad.isPending key then e.fail 0x05
  else { e with m := barrierCycle e.m key [(e.m.core.rank, 3, n)] }

/-- One receiver of a DMC. -/
def dmcLand (m : Mach) (o : EngOp) (f : FE) (rank : Nat) : Mach :=
  let b := o.sh f.qd
  let e : Eng :=
    if !m.peerThere rank then Eng.fail ⟨m, o.status, o.info⟩ 0x08
    else
      let e := deliver rank (shRunsAt (shF b 0).toNat b) (keptStream o.pairs) ⟨m, o.status, o.info⟩
      let poisonedTo (e : Eng) : Eng := if anyPoison (keptStream o.pairs) then e.fail 0x06 else e
      landCount (poisonedTo e) rank (shF b 7) (e.info - o.info)
  { e.m with core := e.m.core.setOp { o with status := e.status, info := e.info, left := o.left.filter (· != (rank, 0)) } }

/-- DMC_LANDING, R240. -/
def execDmcLanding (op rank : Nat) (s : State) : Out :=
  .next (s.setCur fun m =>
    match m.core.op? op with
    | some o =>
      match o.ins with
      | .dmc f => if o.started && o.left.contains (rank, 0) then dmcLand m o f rank else m
      | _ => m
    | none => m)

/-- DGAT and DSCT start: the statuses of the shapes, then the index list is read (R241). `tab` is the table. -/
def tableStart (m : Mach) (o : EngOp) (tab packed idx : List (BitVec 32)) : Mach × EngOp :=
  let count := (shF idx 3).toNat
  let run : Run := (shBase idx, 4 * count)
  let st := [statuses [tab, packed], if (shF idx 0).toNat % 4 = 0 then 0 else 0x03,
    if count ≠ 0 ∧ runSide run = 9 then 0x07 else 0, if shTotal packed = count * shN0 tab then 0 else 0x07].foldl worse 0
  if st ≠ 0 then (m, { o with status := st, left := [] })
  else
    let (e, data) := Eng.read ⟨m, 0, 0⟩ [run]
    (e.m, { o with
      status := e.status
      pairs := ((groups 4 data).map fun g => (bytesNat (g.map (·.1)), 0, if anyPoison g then 1 else 0)) ++ [(0, 0, 2)] })

/-- A table row's run, where it exists; its address wraps at 64 bits (log 58). -/
def tabRow (tab : List (BitVec 32)) (t : Nat) : Option Run :=
  if t < shN1 tab then some ((((shBase tab : Int) + t * (shF tab 5).toInt) % 2 ^ 64).toNat, shN0 tab) else none

/-- The index list was read, so the operation goes on. -/
def EngOp.listed (o : EngOp) : Bool := o.pairs.any fun p => p.2.2 == 2
def EngOp.indices (o : EngOp) : List Nat := (o.pairs.filter fun p => p.2.2 != 2).map (·.1)

def gatherRows (tab : List (BitVec 32)) : List Nat → Eng → Eng × Stream
  | [], e => (e, [])
  | t :: l, e =>
    let (e, b) := match tabRow tab t with
      | some r => e.read [r]
      | none => (e.fail 0x09, plain (List.replicate (shN0 tab) 0))
    let (e, c) := gatherRows tab l e
    (e, b ++ c)

/-- DGAT. -/
def dgatEnd (s : State) (o : EngOp) (f : FE) : State × Nat × Nat :=
  if !o.listed then (s, o.status, 0)
  else
    let (e, data) := gatherRows (o.sh f.qs) o.indices ⟨s.cur, o.status, 0⟩
    let e := e.write (shRuns (o.sh f.qd)) data
    ({ s with cur := e.m }, e.status, e.info)

def scatterRows (tab : List (BitVec 32)) : List Nat → Stream → Eng → Eng
  | [], _, e => e
  | t :: l, b, e =>
    let n := shN0 tab
    let e := match tabRow tab t with
      | some r => e.write [r] (b.take n)
      | none => e.fail 0x09
    scatterRows tab l (b.drop n) e

/-- DSCT, in list order. -/
def dsctEnd (s : State) (o : EngOp) (f : FE) : State × Nat × Nat :=
  if !o.listed then (s, o.status, 0)
  else
    let (e, data) := Eng.read ⟨s.cur, o.status, 0⟩ (shRuns (o.sh f.qs))
    let e := scatterRows (o.sh f.qd) o.indices data e
    ({ s with cur := e.m }, e.status, e.info)

/-- DZERO and DFILL. -/
def fillEnd (s : State) (o : EngOp) (f : FE) (p : Nat) : State × Nat × Nat :=
  let d := o.sh f.qd
  let st := shStatus d
  if st ≠ 0 then (s, st, 0)
  else
    let e := Eng.write ⟨s.cur, 0, 0⟩ (shRuns d) (plain (List.replicate (shTotal d / 4) (natBytes p 4)).flatten)
    ({ s with cur := e.m }, e.status, e.info)

/-! ## Caches (R243 to R245) -/

/-- Fold over the pieces of a shape that lie in memory, with their physical address and leaf; faults set a status. -/
def overPieces (g : Mach → Nat → Word → Nat → Mach) : List Run → Eng → Eng
  | [], e => e
  | r :: t, e =>
    if inWindow r.1 then overPieces g t e
    else
      match e.m.engPlace r.1 .read with
      | (.ok (.home pa leaf), u) =>
        overPieces g t { e with m := g (e.m.applyUpd u) pa leaf r.2, info := e.info + r.2 }
      | (.ok (.pad _), _) => overPieces g t e
      | (.error c, u) => overPieces g t ({ e with m := e.m.applyUpd u }.fail c)

/-- The four sectors of the line of an address. -/
def lineSecs (pa : Nat) : List Nat := (List.range 4).map fun k => pa / 512 * 4 + k

/-- DPREF: fills are asked for; no fault is reported. -/
def dprefEnd (s : State) (o : EngOp) (f : FE) : State × Nat × Nat :=
  let q := o.sh f.qs
  let st := shStatus q
  if st ≠ 0 then (s, st, 0)
  else
    let want (m : Mach) (pa : Nat) (leaf : Word) (_n : Nat) : Mach :=
      let comp := effComp (leafComp leaf) (pa / 128)
      let dev := m.core.vmid.toNat
      let l2 : List FillReq :=
        if leafCp leaf = 3 then []
        else [⟨if homeDie pa = m.core.die then .l2 else .rdc, ckey comp (pa / 128), dev, false, leafCp leaf == 2⟩]
      { m with mem := addFills m.mem (if f.a 0 1 = 0 then l2 else m.mem.sideWants dev false (leafCp leaf == 2) comp (pa / 128)) }
    let e := overPieces want ((shRuns q).map pieces).flatten ⟨s.cur, 0, 0⟩
    ({ s with cur := e.m }, 0, e.info)

/-- A dirty sector of the die L2 written back; the copy stays, clean. -/
def flushSec (m : Mem) (key : Nat) : Mem :=
  match spGet none m.l2 key with
  | some k =>
    if k.dirty then
      { m with l2 := spSet none m.l2 key (some { k with dirty := false }) }.sideWrite k.dev k.late (key % 2 == 1) (key / 2) k.data k.poison
    else m
  | none => m

/-- The copies of a sector in L1, RDC and die L2 go, dirty ones written back first. -/
def dropAll (m : Mem) (key : Nat) : Mem :=
  let m := evictL2 m key
  { m with l1 := spSet none m.l1 key none, rdc := spSet none m.rdc key none }

/-- Both keys of each sector of a line. -/
def lineKeys (pa : Nat) : List Nat := ((lineSecs pa).map fun k => [2 * k, 2 * k + 1]).flatten

def flushLine (inv : Bool) (m : Mem) (pa : Nat) : Mem :=
  (lineKeys pa).foldl (fun m k => if inv then dropAll (flushSec m k) k else flushSec m k) (m.touch (pa / 512 * 512) 512)

/-- DFLUSH. -/
def dflushEnd (s : State) (o : EngOp) (f : FE) : State × Nat × Nat :=
  let q := o.sh f.qs
  let st := shStatus q
  if st ≠ 0 then (s, st, 0)
  else
    let e := overPieces (fun m pa _ _ => { m with mem := flushLine (f.a 0 1 == 1) m.mem pa })
      ((shRuns q).map pieces).flatten ⟨s.cur, 0, 0⟩
    ({ s with cur := e.m }, e.status, shTotal q)

/-- One key invalidated at a scope (R245). -/
def invKey (scope : Nat) (m : Mem) (key : Nat) : Mem :=
  if scope ≤ 1 then { m with l1 := spSet none m.l1 key none }
  else if scope = 2 then { m with l1 := spSet none m.l1 key none, rdc := spSet none m.rdc key none }
  else evictMsc (dropAll m key) key

/-- DINV. -/
def dinvEnd (s : State) (o : EngOp) (f : FE) : State × Nat × Nat :=
  let q := o.sh f.qs
  let st := shStatus q
  if st ≠ 0 then (s, st, 0)
  else
    let e := overPieces (fun m pa _ _ => { m with mem := (lineKeys pa).foldl (invKey (f.a 0 3)) (m.mem.touch (pa / 512 * 512) 512) })
      ((shRuns q).map pieces).flatten ⟨s.cur, 0, 0⟩
    ({ s with cur := e.m }, e.status, 0)

/-- Stores and pushes of bundles before a number are acknowledged at a scope, or have landed (R108, R212, R246). At every scope
the stores have reached their homes, where an engine operation with the token's edge must see them (R233, R235). -/
def Core.joined (c : Core) (scope before : Nat) : Bool :=
  let old (o : MemOp) : Bool := decide (o.after.2 < before)
  !c.memq.any old && !c.transit.any old && (decide (scope ≤ 2) || !c.unacked.any fun u => decide (u.2.2.2 < before)) &&
    (c.bank0 ++ c.bank1 ++ c.bank2).all fun e => e.file != 9 || decide (before ≤ e.born)

/-- The join's own condition (R246). -/
def djoinReady (m : Mach) (o : EngOp) (f : FE) : Bool :=
  f.a 3 1 == 0 || o.left.all fun k => m.core.joined (f.a 0 3) k.1

/-! ## The transform station (R247 to R251) -/

/-- Scale or metadata bytes beside a shape: their run, in the same space as its base; its address wraps at 64 bits (log 58). -/
def besideRun (q : List (BitVec 32)) (n : Nat) : Run := ((((shBase q : Int) + (shF q 7).toInt) % 2 ^ 64).toNat, n)
def besideStatus (q : List (BitVec 32)) (n : Nat) : Nat :=
  if n = 0 ∨ runSide (besideRun q n) = runSide (shBase q, 1) then 0 else 0x07

def setRes (s : State) (unit n : Nat) : State :=
  s.setCore fun c => { c with tmRes := spSet 0 c.tmRes unit (BitVec.ofNat 32 n) }

/-- Code formats and their largest magnitudes (R249). -/
def qntFmt (opn : Nat) : Nat := if opn = 0 then 3 else if opn = 1 then 4 else 5
def qntMax (opn : Nat) : Nat := if opn = 0 then 448 else if opn = 1 then 57344 else 127

/-- Size in bytes of FP32 and BF16 elements. -/
def elemBytes (fmt : Nat) : Nat := fmtBits fmt / 8

/-- One block of QNT: the scale, then its 32 codes. -/
def qntBlock (f : FE) (b : Stream) : (Byte × Bool) × Stream :=
  let opn := f.a 2 3
  let fm := f.fmt.toNat
  let xs := (groups (elemBytes fm) b).map fun g => decF fm (bytesNat (g.map (·.1)))
  let m := xs.foldl (fun (a x : Val) => a.max x.abs) Val.zero
  let e := toSc8 2 (m.div (Val.ofInt (qntMax opn)))
  let poi := anyPoison b
  ((BitVec.ofNat 8 e, poi),
    xs.map fun x => (BitVec.ofNat 8 (roundTo (qntFmt opn) f.rnd.toNat true (scaled x e true)), poi))

/-- TMOV.qnt. -/
def qntEnd (s : State) (o : EngOp) (f : FE) : State × Nat × Nat :=
  let (a, d) := (o.sh f.qs, o.sh f.qd)
  let n := shTotal d / 32
  let st := [statuses [a, d], if shTotal d % 32 = 0 ∧ shTotal a = 32 * n * elemBytes f.fmt.toNat then 0 else 0x07,
    besideStatus d n].foldl worse 0
  if st ≠ 0 then (s, st, 0)
  else
    let (e, data) := Eng.read ⟨s.cur, 0, 0⟩ (shRuns a)
    let bl := (groups (32 * elemBytes f.fmt.toNat) data).map (qntBlock f)
    let e := e.write (shRuns d) (bl.map (·.2)).flatten
    let e := e.write [besideRun d n] (bl.map (·.1))
    (setRes { s with cur := e.m } 0 n, e.status, e.info)

/-- One block of DQN. -/
def dqnBlock (f : FE) (b : Stream × (Byte × Bool)) : Stream :=
  let opn := f.a 2 3
  let fm := f.fmt.toNat
  (b.1.map fun x =>
    (natBytes (roundF fm f.rnd.toNat (scaled (valOf (qntFmt opn) x.1.toNat) b.2.1.toNat false)) (elemBytes fm)).map
      fun y => (y, x.2 || b.2.2)).flatten

/-- TMOV.dqn. -/
def dqnEnd (s : State) (o : EngOp) (f : FE) : State × Nat × Nat :=
  let (a, d) := (o.sh f.qs, o.sh f.qd)
  let n := shTotal a / 32
  let st := [statuses [a, d], if shTotal a % 32 = 0 ∧ shTotal d = 32 * n * elemBytes f.fmt.toNat then 0 else 0x07,
    besideStatus a n].foldl worse 0
  if st ≠ 0 then (s, st, 0)
  else
    let (e, data) := Eng.read ⟨s.cur, 0, 0⟩ (shRuns a)
    let (e, sc) := e.read [besideRun a n]
    let e := e.write (shRuns d) (((groups 32 data).zip sc).map (dqnBlock f)).flatten
    (setRes { s with cur := e.m } 1 n, e.status, e.info)

/-- One block of LZC: its metadata byte and its slot. A block with a poisoned sector is copied raw, each sector poisoned on
its own (R223). -/
def lzcBlock (g : Stream) : Nat × Stream :=
  if anyPoison g then (0, g)
  else
    let (md, b) := storeBlock (g.map (·.1))
    (md, plain (b ++ List.replicate (4096 - b.length) 0))

/-- TMOV.lzc. -/
def lzcEnd (s : State) (o : EngOp) (f : FE) : State × Nat × Nat :=
  let (a, d) := (o.sh f.qs, o.sh f.qd)
  let n := shTotal a / 4096
  let st := [statuses [a, d], if shTotal a % 4096 = 0 ∧ shTotal d = shTotal a then 0 else 0x07, besideStatus d n].foldl worse 0
  if st ≠ 0 then (s, st, 0)
  else
    let (e, data) := Eng.read ⟨s.cur, 0, 0⟩ (shRuns a)
    let bl := (groups 4096 data).map lzcBlock
    let e := e.write (shRuns d) (bl.map (·.2)).flatten
    let e := e.write [besideRun d n] (plain (bl.map fun x => BitVec.ofNat 8 x.1))
    let cnt (md : Nat) : Nat := if md = 0xFF then 0 else if md = 0 then 32 else md
    (setRes { s with cur := e.m } 2 ((bl.map fun x => cnt x.1).foldl (· + ·) 0), e.status, e.info)

/-- Read runs with their own status, which joins what the operation has; true where nothing was wrong. -/
def Eng.readWell (e : Eng) (l : List Run) : Eng × Stream × Bool :=
  let (k, b) := Eng.read { e with status := 0 } l
  ({ k with status := worse e.status k.status }, b, k.status == 0)

/-- Which bytes of an expanded block come from poisoned sectors of its slot: of a raw copy each sector's own, of a stream all
where a sector of it is poisoned, of zeros none (R238, R250; log 53). -/
def lzdPoison (md : Nat) (whole : Bool) (slot : Stream) : List Bool :=
  if md = 0 then slot.map (·.2)
  else List.replicate 4096 (whole && decide (md ≤ 0x1F) && anyPoison (slot.take (128 * md)))

/-- Expand blocks one by one: the output, and how many had no fault (R250). -/
def lzdBlocks : List (List Run × Run) → Eng → Eng × Stream × Nat
  | [], e => (e, [], 0)
  | (rs, mr) :: t, e =>
    let (e, data, ok1) := e.readWell rs
    let (e, md, ok2) := e.readWell [mr]
    let out := expandBlock (data.map (·.1)) (bytesNat (md.map (·.1)))
    let e := if out.isNone then e.fail 0x0A else e
    let poi := (lzdPoison (bytesNat (md.map (·.1))) out.isSome data).map (· || anyPoison md)
    let (e, rest, n) := lzdBlocks t e
    (e, (out.getD (List.replicate 4096 0)).zip poi ++ rest, if ok1 && ok2 && out.isSome then n + 1 else n)

/-- TMOV.lzd. -/
def lzdEnd (s : State) (o : EngOp) (f : FE) : State × Nat × Nat :=
  let (a, d) := (o.sh f.qs, o.sh f.qd)
  let n := shTotal a / 4096
  let st := [statuses [a, d], if shTotal a % 4096 = 0 ∧ shTotal d = shTotal a then 0 else 0x07, besideStatus a n].foldl worse 0
  if st ≠ 0 then (s, st, 0)
  else
    let blocks := (groups 1024 (wordsOf (shRuns a))).map fun g => joinRuns (g.map fun w => (w, 4))
    let (e, out, good) := lzdBlocks (blocks.zip ((List.range n).map fun k => ((besideRun a n).1 + k, 1))) ⟨s.cur, 0, 0⟩
    let e := e.write (shRuns d) out
    (setRes { s with cur := e.m } 3 good, e.status, e.info)

/-- One bit, and one byte, of CRC-32C. -/
def crcBit (c : BitVec 32) : BitVec 32 := if c.getLsbD 0 then (c >>> 1) ^^^ 0x82F63B78 else c >>> 1
def crcByte (c : BitVec 32) (v : Byte) : BitVec 32 :=
  (List.range 8).foldl (fun c _ => crcBit c) (c ^^^ v.setWidth 32)
def crc32c (operand : BitVec 32) (b : List Byte) : BitVec 32 := (b.foldl crcByte (operand ^^^ 0xFFFFFFFF)) ^^^ 0xFFFFFFFF

/-- TMOV.crc. -/
def crcEnd (s : State) (o : EngOp) (f : FE) : State × Nat × Nat :=
  let a := o.sh f.qs
  let st := shStatus a
  if st ≠ 0 then (s, st, 0)
  else
    let (e, data) := Eng.read ⟨s.cur, 0, 0⟩ (shRuns a)
    let r := (crc32c s.cur.core.tmOpr (data.map (·.1))).toNat
    (setRes { s with cur := e.m } 4 r, e.status, r)

/-- TMOV.res. -/
def resEnd (s : State) (o : EngOp) (f : FE) : State × Nat × Nat :=
  let d := o.sh f.qd
  let st := shStatus d
  if st ≠ 0 then (s, st, 0)
  else
    let e := Eng.write ⟨s.cur, 0, 0⟩ [(shBase d, 4)] (plain (natBytes (spGet 0 s.cur.core.tmRes (f.a 14 3)).toNat 4))
    ({ s with cur := e.m }, e.status, e.info)

/-- TMOV.opr. -/
def oprEnd (s : State) (o : EngOp) : State × Nat × Nat :=
  (s.setCore fun c => { c with tmOpr := (o.vals.getD 0 0).setWidth 32 }, 0, 0)

end Sys2Proof.Machine
end

