-- ==== Sys2Proof/Machine/Update.lean ====
section
/-! DEFINITION. Update regions and streams (R305 to R321). -/

namespace Sys2Proof.Machine

/-! ## Issue -/

/-- The context, as regions and bins know it. -/
def Core.me (c : Core) : Nat × Nat := (c.launch, c.inst)

/-- UREG, R311: base and length are read at issue. -/
def execUreg (f : FE) (s : State) : Out :=
  gated (.ureg f) s fun s =>
    s.engIssue (.ureg f) f true [s.reg (f.arg.extractLsb' 15 6), s.reg (f.arg.extractLsb' 5 6)] [] id

/-- The entry that a register names, where it is registered and not releasing (R309). -/
def Core.region? (c : Core) (id : Word) : Option Region :=
  if 255 < id.toNat then none
  else match spGet none c.regions id.toNat with
    | some r => if r.releasing then none else some r
    | none => none

def isUpd (o : EngOp) : Bool := match o.ins with
  | .upd _ => true
  | _ => false

/-- UPDs of the context in flight. -/
def Core.updIds (c : Core) : List Nat := (c.eng.filter isUpd).map (·.id)

/-- UREL, R309, R313: the entry is releasing from issue on. It comes after the context's earlier UPDs (log 30). -/
def execUrel (f : FE) (s : State) : Out :=
  gated (.urel f) s fun s =>
    let c := s.rd.core
    let id := s.reg (f.arg.extractLsb' 5 6)
    match c.region? id with
    | none => s.raise 0x35 id
    | some r =>
      let s := s.engIssue (.urel f) f true [id, r.base, BitVec.ofNat 64 r.len, BitVec.ofNat 64 r.opr] c.updIds (fun o => o)
      if s.verdict = .stall then s
      else s.setCore fun k => { k with regions := spSet none k.regions id.toNat (some { r with releasing := true }) }

/-- UPD, R309, R312: the region is bound at issue. -/
def execUpd (f : FE) (s : State) : Out :=
  gated (.upd f) s fun s =>
    let id := s.reg (f.arg.extractLsb' 5 6)
    match s.rd.core.region? id with
    | none => s.raise 0x35 id
    | some r => s.engIssue (.upd f) f true [id, r.base, BitVec.ofNat 64 r.len, BitVec.ofNat 64 r.opr] [] (fun o => o)

/-- UFENCE, R314. -/
def execUfence (f : FE) (s : State) : Out :=
  gated (.ufence f) s fun s => s.engIssue (.ufence f) f true [] s.rd.core.updIds id

/-! ## Regions (R306, R307, R311, R313) -/

/-- Every 64 KiB of a range is a page that can be a region's. -/
def regionPages (m : Mach) : Nat → Nat → Mach × Bool
  | 0, _ => (m, true)
  | n + 1, va =>
    if inWindow va then (m, false)
    else
      match m.translate m.core.vmid.toNat va .region (.die m.core.die) with
      | (.ok _ pa, u) => if inHbm pa then regionPages (m.applyUpd u) n (va / 65536 * 65536 + 65536) else (m.applyUpd u, false)
      | (.fault _, u) => (m.applyUpd u, false)

def badRegion (base len es : Nat) : Bool :=
  base % 512 != 0 || len % 512 != 0 || decide (len < 512) || decide (2 ^ 32 - 1 < len / es)

def PRegion.same (r : PRegion) (vmid : Nat) (base : Word) (len opr : Nat) : Bool :=
  r.vmid == vmid && r.base == base && r.len == len && r.opr == opr

/-- UREG. -/
def uregEnd (s : State) (o : EngOp) (f : FE) : State × Nat × Nat :=
  let m := s.cur
  let c := m.core
  let base := o.vals.getD 0 0
  let len := (o.vals.getD 1 0).toNat
  let opr := f.a 0 5
  let vmid := c.vmid.toNat
  match (List.range 256).find? fun k => spGet none c.regions k == none with
  | none => (s, 0x50, 0)
  | some entry =>
    let (m, pages) := regionPages m ((base.toNat % 65536 + len + 65535) / 65536) base.toNat
    let s := { s with cur := m }
    let clash := m.mem.pregions.any fun r =>
      r.vmid == vmid && !r.same vmid base len opr && decide (r.base.toNat < base.toNat + len) &&
        decide (base.toNat < r.base.toNat + r.len)
    let st := [if badRegion base.toNat len (oprEs opr) then 0x54 else 0, if pages then 0 else 0x53,
      if clash then 0x52 else 0].foldl worse 0
    if st ≠ 0 then (s, st, 0)
    else
      let put (s : State) (l : List PRegion) : State :=
        { s with cur := { s.cur with
            mem := { s.cur.mem with pregions := l }
            core := { s.cur.core with regions := spSet none s.cur.core.regions entry (some ⟨base, len, opr, false⟩) } } }
      if m.mem.pregions.any (·.same vmid base len opr) then
        (put s (m.mem.pregions.map fun r => if r.same vmid base len opr then { r with holders := r.holders ++ [c.me] } else r),
          0, entry)
      else if m.mem.vdev vmid 42 2 ≤ (m.mem.pregions.filter (·.vmid == vmid)).length then (s, 0x51, 0)
      else (put s (m.mem.pregions ++ [⟨vmid, base, len, opr, [c.me]⟩]), 0, entry)

/-- Give up one id that a context holds of a physical region: the bins with its pairs are applied, and all of them with
the last id; also the pairs applied (R313). -/
def releaseRegion (m : Mem) (vmid : Nat) (r : Region) (me : Nat × Nat) : Mem × Nat :=
  let ofRegion (b : Bin) : Bool := b.vmid == vmid && b.base == r.base && b.opr == r.opr
  let (m, n1) := m.applyBins fun b => ofRegion b && b.ownedBy me
  let drop (p : PRegion) : PRegion :=
    if p.same vmid r.base r.len r.opr then { p with holders := p.holders.erase me } else p
  let m := { m with pregions := m.pregions.map drop }
  if m.pregions.any (fun p => p.same vmid r.base r.len r.opr && p.holders.isEmpty) then
    let (m, n2) := m.applyBins ofRegion
    ({ m with pregions := m.pregions.filter fun p => !(p.same vmid r.base r.len r.opr && p.holders.isEmpty) }, n1 + n2)
  else (m, n1)

/-- UREL. -/
def urelEnd (s : State) (o : EngOp) : State × Nat × Nat :=
  let c := s.cur.core
  let r : Region := ⟨o.vals.getD 1 0, (o.vals.getD 2 0).toNat, (o.vals.getD 3 0).toNat, true⟩
  let (mem, n) := releaseRegion s.cur.mem c.vmid.toNat r c.me
  ({ s with cur := { s.cur with
      mem := mem
      core := { c with regions := spSet none c.regions (o.vals.getD 0 0).toNat none } } }, 0, n)

/-- Every region of a context released, at END or at a kill (R313, R321). -/
def releaseOf (m : Mach) (c : Core) : Mach :=
  let mem := c.regions.foldl (fun mem r => match r.2 with
    | some r => (releaseRegion mem c.vmid.toNat r c.me).1
    | none => mem) m.mem
  { m with mem := { mem with pairPoison := mem.pairPoison.filter fun p => (p.1, p.2.1) != c.me } }

/-- Every id that contexts picked by a test hold is given up (R313, R321). -/
def releaseHeld (m : Mach) (who : Nat × Nat → Bool) : Mach :=
  let ids := m.mem.pregions.flatMap fun p => (p.holders.filter who).map fun h => (p, h)
  let mem := ids.foldl (fun k x => (releaseRegion k x.1.vmid ⟨x.1.base, x.1.len, x.1.opr, true⟩ x.2).1) m.mem
  { m with mem := { mem with pairPoison := mem.pairPoison.filter fun p => !who (p.1, p.2.1) } }

/-- The regions of the followed core's context released. -/
def releaseAll (m : Mach) : Mach :=
  let m := releaseOf m m.core
  { m with core := { m.core with regions := [] } }

/-! ## Pairs (R312, R314, R315) -/

/-- Addresses of a shape's bytes in shape order. -/
def bytesOf (l : List Run) : List Nat := (l.map fun r => (List.range r.2).map (r.1 + ·)).flatten

/-- A number at the addresses of a group of bytes, or the status that bars it. -/
def readNum (m : Mach) (as : List Nat) : Mach × Nat × Nat :=
  let (e, b) := Eng.read ⟨m, 0, 0⟩ (joinRuns (as.map fun a => (a, 1)))
  (e.m, e.status, bytesNat (b.map (·.1)))

/-- One pair of a UPD: kept with the operation where it is to be sent (R312). An index word that says to skip, or lies past the
region, does so whether or not it is poisoned. -/
def planPair (base len opr : Nat) (s : Mach × EngOp) (n : Nat) (ia va : List Nat) : Mach × EngOp :=
  let (m, o) := s
  let (m, st, i) := readNum m ia
  let well := st = 0 ∨ st = 0x06
  if well ∧ i = 0xFFFFFFFF then (m, o)
  else if well ∧ len / oprEs opr ≤ i then (m, { o with status := worse o.status 0x55 })
  else if st ≠ 0 then (m, { o with status := worse o.status st })
  else
    let (m, st, v) := readNum m va
    if st ≠ 0 then (m, { o with status := worse o.status st })
    else
      match m.translate m.core.vmid.toNat (base + i * oprEs opr) .region (.die m.core.die) with
      | (.fault c, u) => (m.applyUpd u, { o with status := worse o.status (if c = 0x20 then 0x01 else 0x02) })
      | (.ok _ pa, u) => (m.applyUpd u, { o with pairs := o.pairs ++ [(pa, BitVec.ofNat 64 v, n)], info := o.info + 1 })

/-- UPD starts: the list and the values are read, and the pairs are on their way. -/
def updStart (m : Mach) (o : EngOp) (f : FE) : Mach × EngOp :=
  let opr := (o.vals.getD 3 0).toNat
  let (q, x) := (o.sh f.qs, o.sh f.qx)
  let count := (shF x 3).toNat
  let run : Run := (shBase x, 4 * count)
  let st := [shStatus q, if (shF x 0).toNat % 4 = 0 then 0 else 0x03, if count ≠ 0 ∧ runSide run = 9 then 0x07 else 0,
    if shTotal q = count * oprVs opr then 0 else 0x07].foldl worse 0
  if st ≠ 0 then (m, { o with status := st })
  else
    let is := groups 4 (bytesOf [run])
    let vs := groups (oprVs opr) (bytesOf (shRuns q))
    (List.range count).foldl (fun s n =>
      planPair (o.vals.getD 1 0).toNat (o.vals.getD 2 0).toNat opr s n (is.getD n []) (vs.getD n [])) (m, o)

/-- Pairs of the started UPDs that are not yet accepted, with their operations. -/
def Core.pairsOut (c : Core) : List (Nat × Nat × Word × Nat) :=
  ((c.eng.filter fun o => isUpd o && o.started).map fun o => o.pairs.map fun p => (o.id, p)).flatten

/-- PAIR_ACCEPT, R315, R318: one of the context's pairs on their way, or a pair of another context. The context's UPD token
covers its pairs as writes it has made: its clocks rise, and its core's and die's copies go. -/
def execPairAccept (pair : PairRef) (s : State) : Out :=
  .next (s.setCur fun m =>
    match pair with
    | .other p =>
      let mem := m.mem.acceptPair p.vmid p.base p.opr (p.launch, p.inst, p.upd) p.pa p.val
      let h := homeDie p.pa
      let mem := if p.die = m.core.die then { mem with rdc := spSet none mem.rdc (ckey false (p.pa / 128)) none } else mem
      { m with mem := mem.raiseVc p.die h (mem.hcOf h) }
    | .own index =>
      match m.core.pairsOut[index]? with
      | none => m
      | some (id, p) =>
        match m.core.op? id with
        | none => m
        | some o =>
          let mem := m.mem.acceptPair m.core.vmid.toNat (o.vals.getD 1 0) (o.vals.getD 3 0).toNat
            (m.core.launch, m.core.inst, id) p.1 p.2.1.toNat
          let h := homeDie p.1
          { m with
            mem := (mem.dropCore false (p.1 / 128)).raiseVc m.core.die h (mem.hcOf h)
            core := (m.core.setOp { o with pairs := o.pairs.erase p }).raiseOc h (mem.hcOf h) })

/-- UFENCE: the bins with pairs of the context's earlier UPDs are applied; POISON where one of those pairs met a poisoned
sector (R314, R317). -/
def ufenceEnd (s : State) (o : EngOp) : State × Nat × Nat :=
  let me := s.cur.core.me
  let mem := (s.cur.mem.applyBins fun b => b.ownedBefore me o.id).1
  ({ s with cur := { s.cur with mem := mem } },
    if mem.pairPoison.any fun p => (p.1, p.2.1) == me && decide (p.2.2 < o.id) then 0x06 else 0, 0)

/-- Another context registers or releases an update region (R306, R311, R313). -/
def extRegion (m : Mach) (r : ExtRegion) : Mach :=
  let same (p : PRegion) : Bool := p.same r.vmid r.base r.len r.opr
  let me := (r.launch, r.inst)
  if r.release then { m with mem := (releaseRegion m.mem r.vmid ⟨r.base, r.len, r.opr, true⟩ me).1 }
  else if m.mem.pregions.any same then
    { m with mem := { m.mem with pregions := m.mem.pregions.map fun p => if same p then { p with holders := p.holders ++ [me] } else p } }
  else { m with mem := { m.mem with pregions := m.mem.pregions ++ [⟨r.vmid, r.base, r.len, r.opr, [me]⟩] } }

end Sys2Proof.Machine
end

