-- ==== Sys2Proof/Machine/Launch.lean ====
section
/-! DEFINITION. A launch: the fields of its packet (R381), its instances and groups (R23 to R25). -/

namespace Sys2Proof.Machine

def Launch.num (l : Launch) (off n : Nat) : Nat := field l.packet off n
def Launch.ctl (l : Launch) : Nat := l.num 0 4
def Launch.level (l : Launch) : Nat := l.ctl % 4
def Launch.prio (l : Launch) : Nat := bits l.ctl 3 2
def Launch.gang (l : Launch) : Bool := l.ctl / 16 % 2 == 1
/-- Cores of a group (R25). -/
def Launch.gsize (l : Launch) : Nat := 2 ^ bits l.ctl 7 5
def Launch.cgroup (l : Launch) : Nat := l.num 4 4
def Launch.args (l : Launch) : Nat := l.num 16 8
def Launch.token (l : Launch) : Nat := l.num 24 8
def Launch.killb (l : Launch) : Nat := l.num 32 8
def Launch.split (l : Launch) : Word := BitVec.ofNat 64 (l.num 40 8)
def Launch.trip (l : Launch) (n : Nat) : Nat := l.num (48 + 2 * n) 2
def Launch.stacks (l : Launch) : Nat := l.num 60 2
def Launch.handle (l : Launch) (n : Nat) : Nat := l.num (64 + 2 * n) 2

/-- Spatial levels of a kernel, by number (R21, R93). -/
def Kernel.spatial (k : Kernel) (kind : Nat) : List Nat := (k.loops.filter fun r => r.kind == kind).map (·.level)

def product (l : List Nat) : Nat := l.foldl (· * ·) 1

/-- Instances that share a die tuple, and die tuples (R23). -/
def Launch.perTuple (l : Launch) : Nat := product ((l.kernel.spatial 1).map l.trip)
def Launch.tuples (l : Launch) : Nat := product ((l.kernel.spatial 2).map l.trip)

/-- Instances of a launch: of a main-level one by its spatial levels, of an Oasis one TRIP0 (R23, R381). -/
def Launch.instances (l : Launch) : Nat := if l.level = 1 then l.trip 0 else l.tuples * l.perTuple

/-- Groups of a launch, in row-major order of their first instance; an Oasis instance is a group by itself (R25). -/
def Launch.groups (l : Launch) : Nat := if l.level = 1 then l.instances else l.instances / l.gsize

/-- Row-major indices of linear index x over trip counts, last fastest. -/
def indicesFrom (trips : List Nat) (x : Nat) : List Nat :=
  match trips with
  | [] => []
  | _ :: t => (x / product t) :: indicesFrom t (x % product t)

/-- The spatial indices of an instance, by level (R23, R24). -/
def Launch.sidx (l : Launch) (inst : Nat) : List Word :=
  let levels := l.kernel.spatial 2 ++ l.kernel.spatial 1
  let idx := levels.zip (indicesFrom (levels.map l.trip) inst)
  (List.range 6).map fun n => match idx.find? fun p => p.1 == n with
    | some p => BitVec.ofNat 64 p.2
    | none => 0

/-- The die tuple of a group. -/
def Launch.tupleOf (l : Launch) (group : Nat) : Nat := group * l.gsize / max l.perTuple 1

/-- A launch with PKG_GANG of which a group waits to be placed, or restored: none of its members issues a bundle (R26, R388). -/
def Launch.held (l : Launch) : Bool := l.gang && !l.unplaced.isEmpty

/-- VFLAGS of a device as they are in force: while a group of it is placed or saved, as a placement or resume last took them;
else as its record has them, for the next placement takes those (R405; log 61). -/
def Mach.vflags (m : Mach) (vmid : Nat) : Nat :=
  let of (id : Nat) : Bool := match m.disp.launch? id with
    | some l => l.vmid == vmid
    | none => false
  let now := m.mem.vdev vmid 0 4
  if m.disp.placed.any (fun p => of p.launch) || m.disp.saved.any (fun v => of v.launch) then (spGet none m.disp.vflags vmid).getD now
  else now

/-- Priority, group and instance of what the followed core runs. -/
def Mach.launchOf (m : Mach) : Option Launch := m.disp.launch? m.core.launch

end Sys2Proof.Machine
end

