-- ==== Sys2Proof/Machine/Collective.lean ====
section
/-! DEFINITION. Collectives (R350 to R362). A message to this module is accepted when its CRECV matches it; one to another
module, or to an instance that is not followed, when MESSAGE_ACCEPT says so (log 31). -/

namespace Sys2Proof.Machine

/-! ## Endpoints (R350 to R353) -/

/-- The group of the followed context, 0 for none. -/
def Mach.gid (m : Mach) : Nat := match m.launchOf with
  | some l => l.cgroup
  | none => 0

/-- Fields of a peer register (R352). -/
def peerEp (x : Word) : Nat := bits x.toNat 15 0
def peerPkg (x : Word) : Nat := bits x.toNat 31 16
def peerCampus (x : Word) : Nat := bits x.toNat 39 32
def peerCh (x : Word) : Nat := bits x.toNat 45 40

def Mach.isHere (m : Mach) (campus pkg : Nat) : Bool := m.info.campus.toNat == campus && m.info.pkg.toNat == pkg

/-- A peer that names no endpoint of the group (R351, R352). -/
def Mach.badPeer (m : Mach) (x : Word) : Bool :=
  bits x.toNat 63 46 != 0 || m.gid == 0 ||
  (m.isHere (peerCampus x) (peerPkg x) && (match m.launchOf with | some l => decide (l.instances ≤ peerEp x) | none => true))

/-- Key of a match count: group, own endpoint, peer and channel (groupOfKey). -/
def Mach.countKey (m : Mach) (x : Word) : Nat := (m.gid * 2 ^ 64 + m.core.inst) * 2 ^ 46 + x.toNat % 2 ^ 46

/-! ## Issue -/

/-- CSEND, R356: peer, earliest start and number are bound at issue. -/
def execCsend (f : FE) (s : State) : Out :=
  gated (.csend f) s fun s =>
    let x := s.reg (f.arg.extractLsb' 9 6)
    let t := s.reg (f.arg.extractLsb' 3 6)
    let key := s.rd.countKey x
    let k := spGet 0 s.rd.coll.sent key
    let s := s.engIssue (.csend f) f true [x, t, BitVec.ofNat 64 k] [] id
    if s.verdict = .stall then s
    else s.setCur fun m => { m with coll := { m.coll with sent := spSet 0 m.coll.sent key (k + 1) } }

/-- A CRECV of the queue, with its number among those that name the peer (R353). -/
def State.crecv (s : State) (i : Instr) (f : FE) : State :=
  let x := s.reg (f.arg.extractLsb' 9 6)
  let key := s.rd.countKey x
  let k := spGet 0 s.rd.coll.recvd key
  let s := s.engIssue i f true [x, 0, BitVec.ofNat 64 k] [] id
  if s.verdict = .stall then s
  else s.setCur fun m => { m with coll := { m.coll with recvd := spSet 0 m.coll.recvd key (k + 1) } }

/-- CRECV.store, R357. -/
def execCrecvStore (f : FE) (s : State) : Out := gated (.crecvStore f) s fun s => s.crecv (.crecvStore f) f

/-- CRECV.addw, R357. -/
def execCrecvAddw (f : FE) (s : State) : Out := gated (.crecvAddw f) s fun s => s.crecv (.crecvAddw f) f

/-- CRECV.addq, R357. -/
def execCrecvAddq (f : FE) (s : State) : Out := gated (.crecvAddq f) s fun s => s.crecv (.crecvAddq f) f

/-! ## Messages (R354) -/

/-- Element bytes of a wire format, and whether it carries scales. -/
def wireBytes (fmt : Nat) : Nat := if fmt = 0 then 4 else if fmt = 1 then 2 else 1
def wireScaled (fmt : Nat) : Bool := fmt == 3 || fmt == 4

/-- Elements of a source shape, and scale bytes. -/
def sendCount (f : FE) (q : List (BitVec 32)) : Nat := shTotal q / wireBytes f.fmt.toNat
def scaleCount (fmt n : Nat) : Nat := if wireScaled fmt then n / 32 else 0

/-- What R354 limits of a message of n elements, whose scales lie beside a shape. -/
def messageStatus (fmt n : Nat) (beside : List (BitVec 32)) : Nat :=
  let sc := scaleCount fmt n
  [if wireScaled fmt && n % 32 != 0 then 0x07 else 0,
    if 2 ^ 28 < n * wireBytes fmt + sc then 0x07 else 0,
    if wireScaled fmt then besideStatus beside sc else 0].foldl worse 0

/-- The limits of R354 on a message's source. -/
def sendStatus (m : Mach) (x : Word) (f : FE) (q : List (BitVec 32)) : Nat :=
  [if m.badPeer x then 0x60 else 0, shStatus q, messageStatus f.fmt.toNat (sendCount f q) q].foldl worse 0

def isCsend (o : EngOp) : Bool := match o.ins with
  | .csend _ => true
  | _ => false

/-- The link of a CSEND, once it has one: kept with the operation; none for a message within the module. -/
def EngOp.route (o : EngOp) : Option Nat := (o.pairs.head?).map (·.1)

/-- Trained links to a module; where none leads there directly, every trained link. -/
def Mach.linksTo (m : Mach) (campus pkg : Nat) : List Nat :=
  let up := (List.range 36).filter fun n => (m.link n).step == 6
  let direct := up.filter fun n => match (m.link n).peer with
    | some h => h.campus == campus && h.pkg == pkg
    | none => false
  if direct.isEmpty then up else direct

/-- A CSEND is bound to one of the links that lead to its peer, where one is trained. -/
def routed (m : Mach) (o : EngOp) (free : Nat) : EngOp :=
  let x := o.vals.getD 0 0
  let ways := m.linksTo (peerCampus x) (peerPkg x)
  if m.isHere (peerCampus x) (peerPkg x) ∨ ways.isEmpty then { o with pairs := [] }
  else { o with pairs := [(ways.getD (free % ways.length) 0, 0, 0)] }

/-- CSEND starts: its checks, and its link; then it waits to be sent. `left` holds 0 until then and 1 until the acceptance,
with the number of the start among those under way. -/
def csendStart (m : Mach) (o : EngOp) (f : FE) (free : Nat) : Mach × EngOp :=
  let st := sendStatus m (o.vals.getD 0 0) f (o.sh f.qs)
  let k := ((m.core.eng.filter isCsend).map fun e => (e.left.map (·.2)).foldl max 0).foldl max 0
  if st ≠ 0 then (m, { o with status := st }) else (m, routed m { o with left := [(0, k + 1)] } free)

/-- CSENDs of the link and channel that started before this one, and have come no further than a stage: 0 not transmitted, 1
not accepted. -/
def earlierOn (m : Mach) (o : EngOp) (stage : Nat) : List EngOp :=
  let n := (o.left.map (·.2)).foldl max 0
  m.core.eng.filter fun e =>
    isCsend e && e.id != o.id && e.route == o.route && peerCh (e.vals.getD 0 0) == peerCh (o.vals.getD 0 0) &&
      e.left.any fun k => decide (k.1 ≤ stage) && decide (k.2 < n)

/-- Bytes that a CSEND sends (R356). -/
def sendBytes (o : EngOp) (f : FE) : Nat :=
  shTotal (o.sh f.qs) + scaleCount f.fmt.toNat (sendCount f (o.sh f.qs))

/-- Message bytes of the context that are outstanding on a link (R358). -/
def outstanding (m : Mach) (link : Nat) : Nat :=
  ((m.core.eng.filter fun e => isCsend e && e.route == some link && e.left.any (·.1 == 1)).map fun e =>
    match e.ins with | .csend g => sendBytes e g | _ => 0).foldl (· + ·) 0

/-- Bytes of the messages that a device's receive store holds (R358). -/
def Mach.heldFor (m : Mach) (dev : Option Nat) : Nat :=
  ((m.coll.store.filter fun g => m.mem.groupDev g.gid == dev).map fun g => g.data.length + g.scales.length).foldl (· + ·) 0

/-- A message of n bytes finds room in the receive store of its group's device. -/
def Mach.storeTakes (m : Mach) (gid n : Nat) : Bool := decide (m.heldFor (m.mem.groupDev gid) + n ≤ Config.receiveStore)

/-- The receiver of the message of an operation is the followed context itself. -/
def Mach.toSelf (m : Mach) (x : Word) : Bool := m.isHere (peerCampus x) (peerPkg x) && peerEp x == m.core.inst

def crecvFE (i : Instr) : Option (FE × Nat) :=
  match i with
  | .crecvStore f => some (f, 0)
  | .crecvAddw f => some (f, 1)
  | .crecvAddq f => some (f, 2)
  | _ => none

/-- The message is the one that a CRECV of the followed context takes (R353). -/
def Mach.matches (m : Mach) (o : EngOp) (g : Message) : Bool :=
  let x := o.vals.getD 0 0
  g.gid == m.gid && g.srcCampus == peerCampus x && g.srcPkg == peerPkg x && g.srcEp == peerEp x && g.dstEp == m.core.inst &&
    g.ch == peerCh x && g.seq == (o.vals.getD 2 0).toNat

/-- Its CRECV has started and waits for it: it needs no room in the receive store (R358). -/
def Mach.awaits (m : Mach) (g : Message) : Bool :=
  m.core.eng.any fun o => (crecvFE o.ins).isSome && o.started && o.left == [(0, 0)] && m.matches o g

/-- The message of a CSEND without its data: between contexts of one module it carries the sender's clocks (R360). -/
def headOf (m : Mach) (o : EngOp) (f : FE) : Message :=
  let x := o.vals.getD 0 0
  { gid := m.gid, srcCampus := m.info.campus.toNat, srcPkg := m.info.pkg.toNat, srcEp := m.core.inst,
    dstCampus := peerCampus x, dstPkg := peerPkg x, dstEp := peerEp x, ch := peerCh x, seq := (o.vals.getD 2 0).toNat,
    fmt := f.fmt.toNat, data := [], scales := [], bad := [], badScales := [],
    stamp := if m.isHere (peerCampus x) (peerPkg x) then stampOf m else [], notice := 0 }

/-- CSEND may transmit: those before it on its link and channel have, the link is up and its window has room; a message to the
context itself needs room in the receive store, or a CRECV that waits for it (R358). -/
def maySend (m : Mach) (o : EngOp) (f : FE) : Bool :=
  let x := o.vals.getD 0 0
  o.started && o.left.any (·.1 == 0) && (earlierOn m o 0).isEmpty &&
    (if m.isHere (peerCampus x) (peerPkg x) then !m.toSelf x || m.storeTakes m.gid (sendBytes o f) || m.awaits (headOf m o f)
     else match o.route with
       | some n => (m.link n).step == 6 && decide (outstanding m n + sendBytes o f ≤ 2 ^ 28)
       | none => false)

/-- A CSEND that waits on no link that is up takes another. -/
def mayRoute (m : Mach) (o : EngOp) : Bool :=
  let x := o.vals.getD 0 0
  isCsend o && o.started && o.left.any (·.1 == 0) && !m.isHere (peerCampus x) (peerPkg x) &&
    !(m.linksTo (peerCampus x) (peerPkg x)).isEmpty && (match o.route with
      | some n => (m.link n).step != 6
      | none => true)

/-- The elements of `es` bytes that hold a poisoned byte. -/
def badElems (es : Nat) (data : Stream) : List Nat :=
  (List.range (data.length / es)).filter fun i => anyPoison ((data.drop (es * i)).take es)

/-- The message of a CSEND, read now (R356). -/
def buildMessage (m : Mach) (o : EngOp) (f : FE) : Eng × Message :=
  let q := o.sh f.qs
  let es := wireBytes f.fmt.toNat
  let (e, data) := Eng.read ⟨m, 0, 0⟩ (shRuns q)
  let (e, sc) := if wireScaled f.fmt.toNat then e.read [besideRun q (scaleCount f.fmt.toNat (sendCount f q))] else (e, [])
  (e, { headOf e.m o f with
    data := data.map (·.1), scales := sc.map (·.1), bad := badElems es data, badScales := badElems 1 sc })

/-- The payloads of an operation's message wait on a link, and go out as its retry buffer has room (R356, R414). -/
def Mach.enqueue (m : Mach) (n op : Nat) (g : Message) : Mach :=
  let l := m.link n
  m.setLink n ({ l with queue := l.queue ++ (Config.wire g).map fun p : List Byte => (op, p.take 4064) }.pump n m.ftime)

/-- CSEND_TRANSMIT, R356, R358: FTIME has reached the earliest start, and the window has room. A message to another module
goes out in frames, over the operation's link; an operation without one takes one that leads there. -/
def execCsendTransmit (op : Nat) (s : State) : Out :=
  .next (s.used.setCur fun m =>
    match m.core.op? op with
    | none => m
    | some o =>
      match o.ins with
      | .csend f =>
        let x := o.vals.getD 0 0
        if maySend m o f then
          let (e, g) := buildMessage m o f
          let m := match o.route with
            | some n => e.m.enqueue n op g
            | none => e.m
          { m with
            ftime := if m.ftime.toNat < (o.vals.getD 1 0).toNat then o.vals.getD 1 0 else m.ftime
            coll := { m.coll with
              out := m.coll.out ++ [(op, g)]
              store := if m.toSelf x then m.coll.store ++ [g] else m.coll.store }
            core := m.core.setOp { o with left := o.left.map fun k => (1, k.2), status := e.status, info := sendBytes o f } }
        else if mayRoute m o then { m with core := m.core.setOp (routed m o (Config.freeNat s.freeIdx)) }
        else m
      | _ => m)

/-- An own message accepted, or refused with a status. -/
def acceptOwn (m : Mach) (op st : Nat) : Mach :=
  { m with
    coll := { m.coll with out := m.coll.out.filter fun k => k.1 != op }
    core := match m.core.op? op with
      | some o => m.core.setOp { o with left := [], status := worse o.status st, info := if st = 0 then o.info else 0 }
      | none => m.core }

/-- The answers that the receiver of a message gives: of another module, also that there is no such endpoint (R351, R357). -/
def peerAnswer (here : Bool) (k : Nat) : Nat := if k % 3 = 0 then 0 else if k % 3 = 1 ∧ !here then 0x60 else 0x61

/-- A message from another endpoint names an endpoint of a valid group here, as far as the module can tell (R351). -/
def Mach.addressed (m : Mach) (g : Message) : Bool :=
  (m.mem.groupDev g.gid).isSome && m.isHere g.dstCampus g.dstPkg &&
    m.disp.launches.all fun l => l.cgroup != g.gid || l.state == .accepted || l.state == .ready ||
      l.state == .complete || l.state == .rejected || l.state == .cancelled || l.state == .killed || decide (g.dstEp < l.instances)

/-- The notices that a peer gives (R362); any other says nothing. -/
def noticeOf (n : Nat) : Nat := if 0x60 ≤ n ∧ n ≤ 0x63 then n else 0

/-- A message as it reaches this module: one from another module brings no clocks, and stands after every write applied here
so far (R297; log 31). -/
def Mach.arrived (m : Mach) (g : Message) : Message :=
  if m.isHere g.srcCampus g.srcPkg then g else { g with stamp := (List.range 9).map m.mem.hcOf }

/-- The followed context has sent the message. -/
def Mach.ours (m : Mach) (g : Message) : Bool := g.gid == m.gid && g.srcEp == m.core.inst && m.isHere g.srcCampus g.srcPkg

/-- Frames have carried the whole message of a CSEND, where it goes over a link. -/
def Mach.carried (m : Mach) (o : EngOp) : Bool := match o.route with
  | some n => (m.link n).carried o.id
  | none => true

/-- MESSAGE_ACCEPT, R351, R356, R358: the peer's module takes an own message whole, with an answer that is free; or a message of
another endpoint reaches this module, and its CRECV waits for it or the receive store of its group's device has room for it.
One that names no endpoint is answered BAD_PEER, and nothing is kept of it. -/
def execMessageAccept (msg : Message) (s : State) : Out :=
  let m := s.cur
  let gone := noticeOf msg.notice
  match m.coll.out.find? fun k => k.2 == { msg with notice := 0 } && m.ours k.2 with
  | some k =>
    let bar := match m.core.op? k.1 with
      | some o => m.toSelf (o.vals.getD 0 0) || !(earlierOn m o 1).isEmpty || (gone == 0 && !m.carried o)
      | none => true
    if bar then .next s
    else if gone ≠ 0 then .next { s with cur := acceptOwn m k.1 gone }
    else .next { s.used with cur := acceptOwn m k.1 (peerAnswer (m.isHere msg.dstCampus msg.dstPkg) (Config.freeNat s.freeIdx)) }
  | none =>
    if m.addressed msg ∧ (m.awaits msg || m.storeTakes msg.gid (msg.data.length + msg.scales.length)) then
      .next { s with cur := { m with coll := { m.coll with store := m.coll.store ++ [m.arrived msg] } } }
    else .next s

/-- Messages held for a launch's group that name none of its instances go when it is placed: they are answered BAD_PEER
(R351). -/
def dropMisdirected (m : Mach) (l : Launch) : Mach :=
  { m with coll := { m.coll with store := m.coll.store.filter fun g => g.gid != l.cgroup || decide (g.dstEp < l.instances) } }

/-! ## Matching and the hops (R353, R357) -/

/-- Checks of a CRECV before its message (R237, R352, R354). -/
def crecvStatus (m : Mach) (o : EngOp) (f : FE) (hop : Nat) : Nat :=
  let l := if hop = 2 then [o.sh f.qs, o.sh f.qd, o.sh f.qx] else [o.sh f.qs]
  let t := shTotal (o.sh f.qs)
  let fmt := f.fmt.toNat
  let n := if hop = 0 then t / wireBytes fmt else t / 4
  [if m.badPeer (o.vals.getD 0 0) then 0x60 else 0, statuses l,
    if wireScaled fmt && n % 32 != 0 then 0x07 else 0,
    if 2 ^ 28 < n * wireBytes fmt + scaleCount fmt n then 0x07 else 0,
    if hop = 0 ∧ wireScaled fmt then besideStatus (o.sh f.qs) (scaleCount fmt n) else 0,
    if hop = 2 then (if n % 32 ≠ 0 then 0x07 else besideStatus (o.sh f.qx) (n / 32)) else 0].foldl worse 0

/-- CRECV starts: its checks, then it waits for its message. -/
def crecvStart (m : Mach) (o : EngOp) (f : FE) (hop : Nat) : Mach × EngOp :=
  let st := crecvStatus m o f hop
  if st ≠ 0 then (m, { o with status := st }) else (m, { o with left := [(0, 0)] })

/-- The message fits the shapes (R357). -/
def fits (o : EngOp) (f : FE) (hop n : Nat) : Bool :=
  let t (k : Nat) : Nat := shTotal (o.sh k)
  if hop = 0 then t f.qs == n * wireBytes f.fmt.toNat
  else if hop = 1 then t f.qs == 4 * n
  else n % 32 == 0 && t f.qs == 4 * n && t f.qd == 4 * n && t f.qx == n

/-- The message that a CRECV takes. -/
def Mach.messageFor (m : Mach) (o : EngOp) : Option Message := m.coll.store.find? (m.matches o)

/-- CRECV_MATCH, R353, R357, R360: the message is taken from the store; an own sender's token may complete from now on. -/
def execCrecvMatch (op : Nat) (s : State) : Out :=
  .next (s.setCur fun m =>
    match m.core.op? op with
    | none => m
    | some o =>
      match crecvFE o.ins, m.messageFor o with
      | some (f, hop), some g =>
        if o.left ≠ [(0, 0)] then m
        else
          let n := g.data.length / wireBytes g.fmt
          let bad := g.fmt != f.fmt.toNat || !fits o f hop n
          let st := if noticeOf g.notice ≠ 0 then noticeOf g.notice else if bad then 0x61 else 0
          let m := match m.coll.out.find? fun k => k.2 == g with
            | some k => acceptOwn m k.1 st
            | none => m
          { m with
            coll := { m.coll with store := m.coll.store.erase g }
            core := m.core.setOp { o with left := [], status := st, msg := if st = 0 then some g else none } }
      | _, _ => m)

/-- Incoming elements, widened exactly. -/
def incoming (g : Message) : List Val :=
  let es := wireBytes g.fmt
  let codes := (groups es g.data).map bytesNat
  (List.range codes.length).map fun i =>
    let v := decF g.fmt (codes.getD i 0)
    if wireScaled g.fmt then scaled v (g.scales.getD (i / 32) 0).toNat false else v

def flagged (codes : List Nat) (es : Nat) (bad : Nat → Bool) : Stream :=
  ((List.range codes.length).map fun i => (natBytes (codes.getD i 0) es).map fun b => (b, bad i)).flatten

/-- One block of ADDQ: the scale, the codes, and the new feedback (R357). -/
def addqBlock (qf mode : Nat) (v : List Val) : Nat × List Nat × List Nat :=
  let m := v.foldl (fun (a x : Val) => a.max x.abs) Val.zero
  let e := toSc8 2 (m.div (Val.ofInt (qntMax qf)))
  let codes := v.map fun x => roundTo (qntFmt qf) mode true (scaled x e true)
  let ef := (v.zip codes).map fun p => roundF 0 0 (p.1.sub 0 (scaled (decF (qntFmt qf) p.2) e false))
  (e, codes, ef)

/-- What a CRECV sees of what happens before its CSEND (R297, R360): the sender's clocks are merged, and L1 is emptied. -/
def crecvAcquire (m : Mach) (g : Message) : Mach := { mergeClocks m g.stamp with mem := (mergeClocks m g.stamp).mem.emptyL1 }

/-- A CRECV with its message, complete. -/
def crecvEnd (s : State) (o : EngOp) (f : FE) (hop : Nat) : State × Nat × Nat :=
  match o.msg with
  | none => (s, o.status, 0)
  | some g =>
    let s := s.setCur (crecvAcquire · g)
    let q := o.sh f.qs
    let n := g.data.length / wireBytes g.fmt
    let mode := f.rnd.toNat
    let e : Eng := ⟨s.cur, if g.bad.isEmpty ∧ g.badScales.isEmpty then 0 else 0x06, 0⟩
    let bad (i : Nat) : Bool := g.bad.contains i || g.badScales.contains (i / 32)
    if hop = 0 then
      let e := e.write (shRuns q) (flagged ((groups (wireBytes g.fmt) g.data).map bytesNat) (wireBytes g.fmt) g.bad.contains)
      let e := if wireScaled g.fmt then
          e.write [besideRun q g.scales.length] (flagged (g.scales.map (·.toNat)) 1 g.badScales.contains)
        else e
      ({ s with cur := e.m }, e.status, n)
    else
      let w := incoming g
      let (e, pb) := e.read (shRuns q)
      let ps := (groups 4 pb).map fun b => decF 0 (bytesNat (b.map (·.1)))
      let poiP (i : Nat) : Bool := bad i || anyPoison ((pb.drop (4 * i)).take 4)
      let sums := (ps.zip w).map fun x : Val × Val => roundF 0 mode (x.1.add mode x.2)
      if hop = 1 then
        let e := e.write (shRuns q) (flagged sums 4 poiP)
        ({ s with cur := e.m }, e.status, n)
      else
        let (e, fb) := e.read (shRuns (o.sh f.qd))
        let efs := (groups 4 fb).map fun b => decF 0 (bytesNat (b.map (·.1)))
        let vs := (sums.zip efs).map fun x : Nat × Val => rne32 ((decF 0 x.1).add 0 x.2)
        let bl := (groups 32 vs).map (addqBlock (f.a 5 2) mode)
        let poiB (k : Nat) : Bool := (List.range 32).any fun i => poiP (32 * k + i) || anyPoison ((fb.drop (4 * (32 * k + i))).take 4)
        let e := e.write (shRuns q) (flagged sums 4 poiP)
        let e := e.write (shRuns (o.sh f.qd)) (flagged (bl.map (·.2.2)).flatten 4 fun i => poiB (i / 32))
        let e := e.write (shRuns (o.sh f.qx)) (flagged (bl.map (·.2.1)).flatten 1 fun i => poiB (i / 32))
        let e := e.write [besideRun (o.sh f.qx) bl.length] (flagged (bl.map (·.1)) 1 poiB)
        ({ s with cur := e.m }, e.status, n)

end Sys2Proof.Machine
end

