-- ==== Sys2Proof/Machine/Control.lean ====
section
/-! DEFINITION. The sequencer: transfers, loops, waits, traps and returns (R29 to R34, R41, R47, R146 to R149, R153,
R371), and what ends a bundle. -/

namespace Sys2Proof.Machine

/-! ## Execution ends and the end of a bundle (R32, R35, R147) -/

/-- One level's updates at an execution end: row counters, ports, rotation bases, the exchange of LOOP.s (R32, R148). -/
def levelUpdates (c : Core) (l : LoopEnt) : Core :=
  let adv (c : Core) (p : Nat) : Core :=
    let k := bits l.lrec.pdelta (4 * p + 3) (4 * p)
    if 8 ≤ k then c.advance p (k % 8) else c
  let c := { c with vrow := c.vrow + BitVec.ofNat 8 l.lrec.dvrow, wrow := c.wrow + BitVec.ofNat 8 l.lrec.dwrow }
  let c := (List.range 8).foldl adv c
  if l.swap then { c with mqLive := !c.mqLive, dqLive := !c.dqLive } else c

/-- A level after an execution that does not close it. -/
def nextExec (l : LoopEnt) : LoopEnt :=
  { l with
    exec := l.exec + 1
    preds := stagePreds l.trip l.lrec.stages (l.exec + 1)
    baseS := (l.baseS + 32 - l.lrec.rstepS % 32) % 32
    baseV := (l.baseV + 32 - l.lrec.rstepV % 32) % 32
    baseW := (l.baseW + 32 - l.lrec.rstepW % 32) % 32 }

/-- End an execution of the innermost level, and of each enclosing level whose body ends where a closed one did (R32).
The fuel is the depth of the stack. -/
def endExec (c : Core) (exit : Bool) : Nat → Core
  | 0 => c
  | fuel + 1 =>
    match c.loops with
    | [] => c
    | l :: t =>
      let c := levelUpdates c l
      if exit || decide (l.total ≤ l.exec + 1) then
        let c := { c with loops := t, pc := l.fin, xfer := none }
        match t with
        | [] => c
        | o :: _ => if o.fin = l.fin then endExec c false fuel else c
      else
        let c := { c with loops := nextExec l :: t }
        match c.jump with
        | some _ => c
        | none => { c with pc := l.start, xfer := none }

/-- The execution end that the last bundle left due; the point of R35 follows it. -/
def loopEnd (c : Core) : Core :=
  let deep := endExec c c.lexit (c.loops.length + 1)
  -- a transfer counts only where the innermost level stayed open (R147)
  { deep with endDue := false, lexit := false, jump := none, atPoint := true }

/-- The bundle in issue is the last of the innermost level's body. -/
def Core.atLast (c : Core) : Bool :=
  match c.openLoops with
  | [] => false
  | l :: _ => c.pc == l.last

/-- After its slots have issued: the next bundle and what comes before it. `was` is the core when the bundle began. -/
def finishCore (was c : Core) : Core :=
  let next := match c.jump with
    | some t => t
    | none => c.skipTo.getD (was.pc + BitVec.ofNat 64 was.blen)
  let due := c.lexit || was.atLast
  { c with
    pc := next
    xfer := c.jump.map fun _ => was.pc
    endDue := due
    jump := if due then c.jump else none
    skipTo := none
    pcfgd := none
    atPoint := if was.tlevel = 0 then was.safe else c.atPoint }

/-- The execution end due after the empty bundles. -/
def settle (c : Core) : Core := if c.endDue then loopEnd c else c

/-! ## Transfers (R34, R47, R146, R147) -/

/-- A taken transfer: cause 0x0C where it leaves the innermost body, dropped where that level closes here. -/
def State.transfer (s : State) (target : Word) : State :=
  let c := s.rd.core
  match c.openLoops with
  | [] => s.setCore fun k => { k with jump := some target }
  | l :: _ =>
    if c.pc = l.last ∧ l.total ≤ l.exec + 1 then s
    else if l.start ≤ target ∧ target < l.fin then s.setCore fun k => { k with jump := some target }
    else s.raise 0x0C target

/-- The address of the next sequential bundle. -/
def State.follow (s : State) : Word := s.rd.core.pc + BitVec.ofNat 64 s.rd.core.blen

/-- A link write, then the transfer, unless that faults (R146). -/
def State.call (s : State) (link : BitVec 6) (target : Word) : State :=
  let t := s.transfer target
  if t.verdict = .done then t else t.writeS clsA1 link s.follow

/-- BR, R146. -/
def execBr (f : FB) (s : State) : Out :=
  gated (.br f) s fun s => if condHolds f.cc (s.reg f.ra) then s.transfer (s.rd.core.pc + FBoff f) else s

/-- CALL, R146. -/
def execCall (f : FB) (s : State) : Out :=
  gated (.call f) s fun s => s.call f.ra (s.rd.core.pc + FBoff f)

/-- JR, R146. -/
def execJr (f : FR) (s : State) : Out := gated (.jr f) s fun s => s.transfer (s.reg f.ra)

/-- CALLR, R146: the target is read before the link is written. -/
def execCallr (f : FR) (s : State) : Out := gated (.callr f) s fun s => s.call f.rd (s.reg f.ra)

/-- RET, R146. -/
def execRet (f : FR) (s : State) : Out := gated (.ret f) s fun s => s.transfer (s.reg f.ra)

/-! ## Loops (R30, R31, R148, R149) -/

/-- The trip count of a LOOP (R30): none where its word faults or is not there yet. A KARG word is read as an S1 load of four
bytes is, with the causes of one, and cause 0x33 where it is poisoned; TVAL is the word's address (DESIGN CHOICE, log 56). LOOP does
not reach the quad window, where no translation is either (R207): cause 0x20. -/
def State.trip (s : State) (r : LoopRec) : State × Option Nat :=
  match r.tripSrc with
  | 0 => (s, some r.tripVal)
  | 1 => (s, some ((s.reg (BitVec.ofNat 6 r.tripVal)).toNat % 2 ^ 32))
  | _ =>
    let va := s.rd.core.karg + BitVec.ofNat 64 r.tripVal
    if va.toNat % 4 = 0 ∧ inWindow va.toNat then (s.raise 0x20 va, none)
    else match s.sample va 4 none with
    | (s, .fault c) => (s.raise c va, none)
    | (s, .walk) => (s.stallWalk, none)
    | (s, .wait) => (s.stall, none)
    | (s, .got b poi _) => if poi then (s.raise 0x33 va, none) else (s, some (bytesNat b))

/-- Open a level with N iterations, or pass over its body when N is 0 (R30, R31). -/
def State.openLevel (s : State) (r : LoopRec) (n : Nat) (swap : Bool) (start last fin : Word) : State :=
  if n = 0 then s.setCore fun c => { c with skipTo := some fin }
  else
    let e : LoopEnt := ⟨r, 0, n + r.stages - 1, n, start, last, fin, stagePreds n r.stages 0, 0, 0, 0, swap⟩
    s.setCore fun c => { c with loops := e :: c.loops }

/-- LOOP, R30, R148, R370. -/
def execLoop (f : FR) (s : State) : Out :=
  gated (.loop f) s fun s =>
    let m := s.rd
    let c := m.core
    let level := f.rb.toNat
    let tval := BitVec.ofNat 64 level
    if c.tlevel ≠ 0 then s.raise 0x0B tval
    else if 6 ≤ c.loops.length then s.raise 0x0A tval
    else
      match c.loopRec level with
      | none => s.raise 0x0B tval
      | some r =>
        if c.loops.any (·.lrec.level == level) then s.raise 0x0B tval
        else
          let start := s.follow
          let last := BitVec.ofNat 64 (m.bundleAfter (r.bodyLen - 1) start.toNat)
          let fin := BitVec.ofNat 64 (m.bundleAfter r.bodyLen start.toNat)
          if (match c.loops with | l :: _ => decide (l.fin < fin) | [] => false) then s.raise 0x0B tval
          else
            match s.trip r with
            | (s, some n) => s.openLevel r n (f.fn == 1) start last fin
            | (s, none) => s

/-- LEXIT, R149, R370. -/
def execLexit (f : FR) (s : State) : Out :=
  gated (.lexit f) s fun s =>
    if s.rd.core.openLoops.isEmpty then s.raise 0x0B 0
    else if f.ra = 0 ∨ s.reg f.ra ≠ 0 then s.setCore fun c => { c with lexit := true }
    else s

/-! ## Waits, padding, retirement, traps (R41, R153, R371) -/

/-- END, R41, R153: it closes any open levels; the instance retires when its conditions hold. -/
def execEndk (f : FR) (s : State) : Out :=
  gated (.endk f) s fun s => s.setCore fun c => { c with status := .ending, loops := [] }

/-- TWAIT, R153: the registers are awaited and not read. -/
def execTwait (f : FR) (s : State) : Out :=
  gated (.twait f) s fun s =>
    let c := s.rd.core
    let pending (n : BitVec 6) : Bool := n != 0 && c.awaits (c.physS n.toNat)
    if pending f.ra || pending f.rb then s.stall else s

/-- NOP, R153. -/
def execNop (f : FR) (s : State) : Out :=
  gated (.nop f) s fun s => s.setCore fun c => { c with empties := f.rb.toNat }

/-- TRAP, R153, R61: the bundle issues whole, then cause 0x50 with TEPC at the next bundle. The last of its bundle's
slots to have its effect. -/
def execTrap (f : FR) (s : State) : Out :=
  gated (.trap f) s fun s =>
    let c := settle (finishCore s.rd.core s.cur.core)
    { s with
      cur := enterTrap { s.cur with core := c } 0x50 (BitVec.ofNat 64 f.rb.toNat) c.pc false
      verdict := if s.verdict = .stall then .stall else .done }

/-- ERET, R371. The last of its bundle's slots to have its effect. -/
def execEret (f : FR) (s : State) : Out :=
  gated (.eret f) s fun s =>
    let c := s.rd.core
    if c.tlevel = 0 then s.raiseEnc (.eret f) 0x0D
    else if !(c.bank c.tlevel).isEmpty then { s with verdict := if s.verdict = .stall then .stall else .drain }
    else
      { s with
        cur := leaveTrap { s.cur with core := finishCore c s.cur.core } (if c.tlevel = 1 then c.trap1.epc else c.trap2.epc)
        verdict := if s.verdict = .stall then .stall else .done }

end Sys2Proof.Machine
end

