-- ==== Sys2Proof/Machine/Csr.lean ====
section
/-! DEFINITION. Control and status registers, the frozen bank, TLB invalidation, and the writes of S0 into shape
registers, ports and other files (R105, R106, R109 to R113, R145, R150 to R152, R365, R374, R375). -/

namespace Sys2Proof.Machine

/-! ## CSRs -/

/-- The value of a CSR (R109 to R112, R365). -/
def csrValue (m : Mach) (n : Nat) : Word :=
  let c := m.core
  if n = 0x000 then m.cycle
  else if n = 0x001 then m.ftime
  else if n = 0x002 then BitVec.ofNat 64 (c.num % 16)
  else if n = 0x003 then BitVec.ofNat 64 (c.num % 16 / 4)
  else if n = 0x004 then BitVec.ofNat 64 c.die
  else if n = 0x005 then BitVec.ofNat 64 (m.info.campus.toNat * 2 ^ 16 + m.info.pkg.toNat)
  else if n = 0x006 then c.karg
  else if n = 0x007 then BitVec.ofNat 64 (qbase + c.rank * 2 ^ 26)
  else if n = 0x008 then m.quad.splitOf c.rank
  else if 0x010 ≤ n ∧ n ≤ 0x015 then c.sidx.getD (n - 0x10) 0
  else if n = 0x018 then c.vrow.setWidth 64
  else if n = 0x019 then c.wrow.setWidth 64
  else if n = 0x01A then c.gpred
  else if n = 0x100 then BitVec.ofNat 64 c.tlevel
  else if n = 0x101 then c.thandler
  else if n = 0x102 then c.thsize
  else if n = 0x103 then c.tsave
  else if n = 0x104 then c.kstat
  else if n = 0x105 then c.vmid.setWidth 64
  else if n = 0x110 then c.trap1.cause
  else if n = 0x111 then c.trap1.epc
  else if n = 0x112 then c.trap1.val
  else if n = 0x113 then c.trap1.scr
  else if n = 0x120 then c.trap2.cause
  else if n = 0x121 then c.trap2.epc
  else if n = 0x122 then c.trap2.val
  else c.trap2.scr

/-- A CSR written; a read-only one is not (R24, R109, R365). -/
def csrSet (c : Core) (n : Nat) (x : Word) : Core :=
  if n = 0x018 then { c with vrow := x.setWidth 8 }
  else if n = 0x019 then { c with wrow := x.setWidth 8 }
  else if n = 0x103 then { c with tsave := x }
  else if n = 0x104 then { c with kstat := x }
  else if n = 0x111 then { c with trap1 := { c.trap1 with epc := x } }
  else if n = 0x113 then { c with trap1 := { c.trap1 with scr := x } }
  else if n = 0x121 then { c with trap2 := { c.trap2 with epc := x } }
  else if n = 0x123 then { c with trap2 := { c.trap2 with scr := x } }
  else c

/-- CSRR, R145: the machine as it stands when the bundle issues, its clocks too (R48, R112). -/
def execCsrr (f : FR) (s : State) : Out :=
  gated (.csrr f) s fun s => s.writeS clsA1 f.rd (csrValue s.rd f.csrn)

/-- CSRW, R145. -/
def execCsrw (f : FR) (s : State) : Out :=
  gated (.csrw f) s fun s => s.setCore (csrSet · f.csrn (s.reg f.rd))

/-! ## The frozen bank (R374) -/

/-- A descriptor. -/
def descriptor (p : Pending) : Word :=
  BitVec.ofNat 64 (2 ^ 63 + (if p.overdue then 2 ^ 62 else 0) + p.count % 64 * 2 ^ 56 + p.cls % 16 * 2 ^ 52 +
    p.file % 16 * 2 ^ 48 + p.reg % 256 * 2 ^ 40)

def psnValue (c : Core) (n : Nat) : Word :=
  if c.tlevel = 0 then 0
  else
    let b := c.bank (c.tlevel - 1)
    if n = 0x30 then BitVec.ofNat 64 b.length
    else match b.find? (·.slot == n) with
      | some p => descriptor p
      | none => 0

/-- PCSRR, R374. -/
def execPcsrr (f : FR) (s : State) : Out :=
  gated (.pcsrr f) s fun s => s.writeS clsA1 f.rd (psnValue s.rd.core f.csrn)

/-- PCSRW, R374: bit 63 clear cancels the entry. -/
def execPcsrw (f : FR) (s : State) : Out :=
  gated (.pcsrw f) s fun s =>
    if s.rd.core.tlevel = 0 ∨ (s.reg f.rd).getLsbD 63 then s
    else s.setCore fun c => c.setBank (c.tlevel - 1) ((c.bank (c.tlevel - 1)).filter (·.slot != f.csrn))

/-! ## TLB invalidation (R375) -/

/-- TLBINV, R375: its effect comes with TLBINV_COMPLETE. -/
def execTlbinv (f : FR) (s : State) : Out :=
  gated (.tlbinv f) s fun s =>
    let c := s.rd.core
    let b := (s.reg f.rb).toNat
    if 95 < b then s.raiseEnc (.tlbinv f) 0x02
    else if (f.fn = 2 ∨ b ≠ c.vmid.toNat) ∧ c.tlevel ≠ 0 then s.raiseEnc (.tlbinv f) 0x0D
    else if c.tlbinv.isSome then s.stall
    else
      let p := if f.rd = 0 then 0 else c.physS f.rd.toNat
      (s.later f.rd none none).setCore fun c => { c with tlbinv := some (f.fn.toNat, s.reg f.ra, b, p) }

/-! ## Shape registers, ports, other files -/

/-- QSETF, R105, R150: into the shadow copy as it stands at issue. -/
def execQsetf (f : FR) (s : State) : Out :=
  gated (.qsetf f) s fun s =>
    let c := s.rd.core
    let dq := f.rd.getLsbD 5
    let reg := bits f.rd.toNat 4 3
    let copy := if dq then !c.dqLive else !c.mqLive
    let x := (s.reg f.ra + s.opB f).setWidth 32
    s.expose clsMP 8 ((if dq then 8 else 0) + (if copy then 4 else 0) + reg)
      [⟨.shape dq copy reg (f.rd.toNat % 8), x.setWidth 1024⟩]

/-- A value that a port field does not take: in PCTL the direction 3, whatever the reserved bits above it hold (R5, R106). -/
def badPort (fld : Nat) (x : BitVec 32) : Bool :=
  (fld == 0 && x.toNat % 4 == 3) || ((fld == 1 || fld == 2 || decide (9 ≤ fld)) && x.toNat % 32 != 0)

/-- PCFG, R106, R151: visible to the next bundle, with the port's indices reset. -/
def execPcfg (f : FR) (s : State) : Out :=
  gated (.pcfg f) s fun s =>
    let p := bits f.rd.toNat 5 3
    let x := (s.reg f.ra + s.opB f).setWidth 32
    if badPort f.low4 x then s.raiseEnc (.pcfg f) 0x02
    else s.setCore fun c =>
      { c with
        port := spSet 0 c.port (p * 16 + f.low4) (if f.low4 = 0 then x &&& 3 else x)
        pidx := (List.range 6).foldl (fun y l => spSet 0 y (p * 6 + l) 0) c.pidx
        pcfgd := some p }

/-- The element that an element transfer names: row j, element e (R152). -/
def xferJ (f : FR) : Nat := bits f.rb.toNat 5 3
def xferE (f : FR) : Nat := f.rb.toNat % 8 + 8 * f.w.toNat

/-- Move a 64-bit element into or out of a tile register. -/
def State.putElem (s : State) (w : Bool) (f : FR) : State :=
  let c := s.rd.core
  let p := c.physTile w f.rd.toNat
  let row := (c.rowCtr w + xferJ f) % 256
  let sh := 64 * xferE f
  s.expose clsXC (if w then 2 else 1) p
    [⟨.tile w p row (BitVec.ofNat 1024 ((2 ^ 64 - 1) * 2 ^ sh)), BitVec.ofNat 1024 ((s.reg f.ra).toNat * 2 ^ sh)⟩]

def State.elem (s : State) (w : Bool) (f : FR) : Word :=
  let c := s.rd.core
  (c.tileRow w (c.physTile w f.ra.toNat) (c.rowCtr w + xferJ f)).extractLsb' (64 * xferE f) 64

/-- XFER, R152. -/
def execXfer (f : FR) (s : State) : Out :=
  gated (.xfer f) s fun s =>
    match f.fn.toNat with
    | 0 => s.expose clsMP 4 (f.rd.toNat % 8) [⟨.m (f.rd.toNat % 8), (s.reg f.ra).setWidth 1024⟩]
    | 1 => s.putElem false f
    | 2 => s.putElem true f
    | 3 => s.writeS clsXC f.rd (s.elem false f)
    | 4 => s.writeS clsXC f.rd (s.elem true f)
    | _ => s.writeS clsXC f.rd (spGet 0 s.rd.core.m (f.ra.toNat % 8))

end Sys2Proof.Machine
end

