-- ==== Sys2Proof/Machine/Array.lean ====
section
/-! DEFINITION. The spline array's numbers (R254 to R272): grid records, the edge unit, basis values, cell terms, gradients,
and the linear modes. Planes and the gradient image are held as the images of R272. -/

namespace Sys2Proof.Machine

def cellPart : Nat := 393216
def planeSize : Nat := 395264
def gradSize : Nat := 786432

/-- A little-endian number of an image. -/
def imgNum (p : List Host.Cell) (off n : Nat) : Nat := bytesNat (cellsRead p off n)

/-! ## Grid records (R258, R259) -/

structure GridRec where
  x0 : Nat
  invh : Nat
  h : Nat
  gctl : Nat
  deriving DecidableEq, Repr

def gridRec (p : List Host.Cell) (i : Nat) : GridRec :=
  let n (k : Nat) : Nat := imgNum p (cellPart + 16 * i + 4 * k) 4
  ⟨n 0, n 1, n 2, n 3⟩

def GridRec.valid (r : GridRec) : Bool := r.gctl / 2 ^ 31 == 1
def GridRec.g (r : GridRec) : Nat := r.gctl % 16
def GridRec.cubic (r : GridRec) : Bool := r.gctl / 16 % 2 == 1
def GridRec.tail (r : GridRec) : Nat := bits r.gctl 7 6
/-- D of R261, and the coefficients that a cell's term reads. -/
def GridRec.den (r : GridRec) : Nat := if r.cubic then 6 else 1
def GridRec.taps (r : GridRec) : Nat := if r.cubic then 4 else 2
def GridRec.count (r : GridRec) : Nat := if r.cubic then r.g + 3 else r.g + 1
def GridRec.most (r : GridRec) : Nat := if r.cubic then 9 else 11

/-- An FP32 code is finite; finite and above zero. -/
def finite32 (c : Nat) : Bool := match decF 0 c with
  | .fin _ _ _ => true
  | _ => false
def positive32 (c : Nat) : Bool := match decF 0 c with
  | .fin s n _ => !s && n != 0
  | _ => false

/-- A valid record fails the check of R259. -/
def GridRec.bad (r : GridRec) : Bool :=
  bits r.gctl 30 8 != 0 || r.gctl / 32 % 2 != 0 || r.tail == 3 || r.g == 0 || decide (r.most < r.g) ||
  !finite32 r.x0 || !positive32 r.invh || !positive32 r.h

def validRows (p : List Host.Cell) : List Nat := (List.range 128).filter fun i => (gridRec p i).valid
def badGrid (p : List Host.Cell) : Bool := (validRows p).any fun i => (gridRec p i).bad

/-! ## The edge unit and the basis (R260, R261) -/

inductive Side where
  | mid
  | left
  | right
  deriving DecidableEq, Repr

/-- What the edge unit sends along a row: a NaN, or the side, k, the fraction f as numerator and denominator, and d. -/
inductive Edge where
  | nan
  | at (side : Side) (k fn fd : Nat) (d : Val)
  deriving DecidableEq, Repr

def edgeOf (r : GridRec) (x : Val) : Edge :=
  match rne32 ((x.sub 0 (decF 0 r.x0)).mul (decF 0 r.invh)) with
  | .nan => .nan
  | .inf s => if s then .at .left 0 0 1 (.inf true) else .at .right (r.g - 1) 1 1 (.inf false)
  | .fin s n d =>
    if s && n != 0 then .at .left 0 0 1 (.fin s n d)
    else if n ≤ r.g * d then
      let k := min (n / d) (r.g - 1)
      .at .mid k (n - k * d) d .zero
    else .at .right (r.g - 1) 1 1 (.fin false (n - r.g * d) d)

/-- An exact quotient of integers. -/
def ratio (n : Int) (d : Nat) : Val := .fin (decide (n < 0)) n.natAbs d

/-- N_m(f) for f = p/q. -/
def basis (cubic : Bool) (p q : Nat) : List Val :=
  let a : Int := p
  let b : Int := q
  if cubic then
    [(b - a) ^ 3, 3 * a ^ 3 - 6 * a ^ 2 * b + 4 * b ^ 3, -3 * a ^ 3 + 3 * a ^ 2 * b + 3 * a * b ^ 2 + b ^ 3, a ^ 3].map
      fun n => ratio n (q ^ 3)
  else [b - a, a].map fun n => ratio n q

/-- N′_m(f). -/
def slopes (cubic : Bool) (p q : Nat) : List Val :=
  let a : Int := p
  let b : Int := q
  if cubic then
    [-3 * (b - a) ^ 2, 9 * a ^ 2 - 12 * a * b, -9 * a ^ 2 + 6 * a * b + 3 * b ^ 2, 3 * a ^ 2].map fun n => ratio n (q ^ 2)
  else [ratio (-1) 1, ratio 1 1]

/-! ## Terms (R262 to R265) -/

/-- Exact sum of products, in any order; `mode` gives the sign of an exact zero. -/
def dotProd (mode : Nat) (a b : List Val) : Val :=
  match (a.zip b).map fun x : Val × Val => x.1.mul x.2 with
  | [] => .zero
  | h :: t => t.foldl (fun (x y : Val) => x.add mode y) h

/-- d · P, a zero whenever P is (R262). -/
def tailProd (d p : Val) : Val := if p.isZero then .fin (xor d.sign p.sign) 0 1 else d.mul p

/-- round_fp32(sum + t), on codes. -/
def accum (mode : Nat) (p : Nat) (t : Val) : Nat := roundF 0 mode ((decF 0 p).add mode t)

/-- BF16 coefficients of a cell from entry k on. -/
def coefs (p : List Host.Cell) (i j k n : Nat) : List Val :=
  (List.range n).map fun m => decF 1 (imgNum p (24 * (128 * i + j) + 2 * (k + m)) 2)

def valNaN : Nat := canonNaN 0

/-- The side has a term under the record's tail. -/
def hasTerm (r : GridRec) (s : Side) : Bool := s == .mid || r.tail != 2
def extends_ (r : GridRec) (s : Side) : Bool := s != .mid && r.tail == 1

/-- A row's update of the 128 column sums (R262, R264). -/
def rowForward (p : List Host.Cell) (x : List Val) (ys : List Nat) (i : Nat) : List Nat :=
  let r := gridRec p i
  match edgeOf r (x.getD i .nan) with
  | .nan => List.replicate 128 valNaN
  | .at side k fn fd d =>
    if !hasTerm r side then ys
    else
      let ns := basis r.cubic fn fd
      let ds := slopes r.cubic fn fd
      (List.range 128).map fun j =>
        let c := coefs p i j k r.taps
        let v := dotProd 0 c ns
        let t := if extends_ r side then v.add 0 (tailProd d (dotProd 0 c ds)) else v
        accum 0 (ys.getD j 0) (t.div (Val.ofInt r.den))

/-- A row's input gradient (R263, R264). -/
def rowDx (p : List Host.Cell) (x g : List Val) (i : Nat) : Nat :=
  let r := gridRec p i
  if !r.valid then 0
  else
    match edgeOf r (x.getD i .nan) with
    | .nan => valNaN
    | .at side k fn fd _ =>
      if !hasTerm r side then 0
      else
        let ds := slopes r.cubic fn fd
        let slope (j : Nat) : Val :=
          if side = .mid ∨ extends_ r side then dotProd 0 (coefs p i j k r.taps) ds else .zero
        (List.range 128).foldl (fun dx j =>
          accum 0 dx ((((g.getD j .zero).mul (decF 0 r.invh)).mul (slope j)).div (Val.ofInt r.den))) 0

/-- A row's additions to the gradient image (R264, R265). -/
def rowGrad (p : List Host.Cell) (x g : List Val) (gr : List Host.Cell) (i : Nat) : List Host.Cell :=
  let r := gridRec p i
  let addr (j e : Nat) : Nat := 48 * (128 * i + j) + 4 * e
  match edgeOf r (x.getD i .nan) with
  | .nan =>
    (List.range 128).foldl (fun gr j =>
      (List.range r.count).foldl (fun gr e => cellsWrite gr (addr j e) (natBytes valNaN 4)) gr) gr
  | .at side k fn fd d =>
    if !hasTerm r side then gr
    else
      let ns := basis r.cubic fn fd
      let ds := slopes r.cubic fn fd
      let as := (ns.zip ds).map fun x : Val × Val => if extends_ r side then x.1.add 0 (tailProd d x.2) else x.1
      (List.range 128).foldl (fun gr j =>
        (List.range r.taps).foldl (fun gr m =>
          let a := addr j (k + m)
          let t := ((g.getD j .zero).mul (as.getD m .zero)).div (Val.ofInt r.den)
          cellsWrite gr a (natBytes (accum 0 (imgNum gr a 4) t) 4)) gr) gr

/-! ## Update and refinement (R266, R267) -/

/-- FUPD on one entry: the plane, the gradient and the count. -/
def updEntry (lr : Val) (s : List Host.Cell × List Host.Cell × Nat) (cell e : Nat) :
    List Host.Cell × List Host.Cell × Nat :=
  let (p, gr, n) := s
  let w := imgNum gr (48 * cell + 4 * e) 4
  if w = 0 then s
  else
    let a := 24 * cell + 2 * e
    let c := roundF 1 0 ((decF 1 (imgNum p a 2)).add 0 (lr.mul (decF 0 w)).neg)
    (cellsWrite p a (natBytes c 2), cellsWrite gr (48 * cell + 4 * e) (natBytes 0 4), n + 1)

/-- FUPD over the cells whose gradient words are not all zero. -/
def updAll (lr : Val) (p gr : List Host.Cell) : List Host.Cell × List Host.Cell × Nat :=
  let words := (gr.map fun c : Host.Cell => c.1 / 4).eraseDups
  words.foldl (fun s w => updEntry lr s (w / 12) (w % 12)) (p, gr, 0)

/-- Why a valid row cannot be refined, in the order of R267. -/
def refuse (r : GridRec) : Nat :=
  if r.most < 2 * r.g then 0x41
  else match rne32 ((decF 0 r.invh).mul (Val.ofInt 2)) with
    | .inf _ => 0x40
    | _ => 0

/-- The twelve entries of a refined cell. -/
def refineEntries (r : GridRec) (old : List Nat) : List Nat :=
  let c (n : Nat) : Val := decF 1 (old.getD n 0)
  let half (n : Nat) : Nat := roundF 1 0 (((c n).add 0 (c (n + 1))).div (Val.ofInt 2))
  let mid (n : Nat) : Nat :=
    roundF 1 0 ((((c n).add 0 ((Val.ofInt 6).mul (c (n + 1)))).add 0 (c (n + 2))).div (Val.ofInt 8))
  (List.range 12).map fun e =>
    if r.cubic then (if 2 * r.g + 2 < e then 0 else if e % 2 = 0 then half (e / 2) else mid (e / 2))
    else if 2 * r.g < e then 0 else if e % 2 = 0 then old.getD (e / 2) 0 else half (e / 2)

/-- A row refined: its cells, their gradients, and its record. -/
def refineRow (s : List Host.Cell × List Host.Cell) (i : Nat) : List Host.Cell × List Host.Cell :=
  let r := gridRec s.1 i
  let cell (s : List Host.Cell × List Host.Cell) (j : Nat) : List Host.Cell × List Host.Cell :=
    let a := 24 * (128 * i + j)
    let old := (List.range 12).map fun e => imgNum s.1 (a + 2 * e) 2
    (cellsWrite s.1 a ((refineEntries r old).map fun x => natBytes x 2).flatten,
      cellsWrite s.2 (48 * (128 * i + j)) (List.replicate 48 0))
  let (p, gr) := (List.range 128).foldl cell s
  let rec_ := natBytes (roundF 0 0 ((decF 0 r.invh).mul (Val.ofInt 2))) 4 ++
    natBytes (roundF 0 0 ((decF 0 r.h).div (Val.ofInt 2))) 4 ++ natBytes (r.gctl - r.g + 2 * r.g) 4
  (cellsWrite p (cellPart + 16 * i + 4) rec_, gr)

/-! ## Linear modes (R268 to R271, R280) -/

/-- A 2-byte weight of a cell. -/
def weight (p : List Host.Cell) (fmt i j q : Nat) : Val := decF fmt (imgNum p (24 * (128 * i + j) + 2 * q) 2)
/-- A 1-byte weight's code. -/
def weight8 (p : List Host.Cell) (i j q : Nat) : Nat := imgNum p (24 * (128 * i + j) + q) 1

/-- Cell rows that the mask streams, with `per` rows to a block. -/
def maskRows (mask : Word) (per : Nat) : List Nat := (List.range 128).filter fun i => mask.getLsbD (i / per)

/-- The dense term of a cell. -/
def denseTerm (p : List Host.Cell) (fmt mode : Nat) (x : List Val) (i j : Nat) : Val :=
  dotProd mode ((List.range 4).map fun q => weight p fmt i j q) ((List.range 4).map fun q => x.getD (4 * i + q) .zero)

/-- The 2:4 sparse term of a cell (R269). -/
def sparseTerm (p : List Host.Cell) (fmt mode : Nat) (x : List Val) (i j : Nat) : Val :=
  let md := imgNum p (24 * (128 * i + j) + 8) 1
  dotProd mode ((List.range 4).map fun q => weight p fmt i j q)
    ((List.range 4).map fun q => x.getD (8 * i + 4 * (q / 2) + md / 4 ^ q % 4) .zero)

/-- One block of a block-scaled column (R131, R270); no scale row adds +0 (R276). -/
def blockTerm (p : List Host.Cell) (fmt mode : Nat) (x : List Val) (scales : Option (List Nat)) (acc j b : Nat) : Nat :=
  match scales with
  | none => accum mode acc .zero
  | some sc =>
    let ea := sc.getD b 0
    let eb := weight8 p (4 * b) j 10
    let s := dotProd mode
      ((List.range 32).map fun t => decF fmt (weight8 p (4 * b + t / 8) j (t % 8)))
      ((List.range 32).map fun t => x.getD (32 * b + t) .zero)
    if ea = 0x80 ∨ eb = 0x80 ∨ s.isNaN then valNaN else accum mode acc (s.scale (signed 8 ea + signed 8 eb))

/-- The INT8 term of a cell. -/
def int8Term (p : List Host.Cell) (x : List Nat) (i j : Nat) : Int :=
  ((List.range 8).map fun q => signed 8 (weight8 p i j q) * signed 8 (x.getD (8 * i + q) 0)).foldl (· + ·) 0

/-- One output of the transposed product (R280). -/
def transTerm (p : List Host.Cell) (fmt mode : Nat) (g : List Val) (start k : Nat) : Nat :=
  (List.range 128).foldl (fun acc j => accum mode acc ((g.getD j .zero).mul (weight p fmt (k / 4) j (k % 4)))) start

end Sys2Proof.Machine
end

