-- ==== Sys2Proof/Machine/Matrix.lean ====
section
/-! DEFINITION. The M slot: routines, plane loads and stores, status (R255 to R257, R273 to R288). -/

namespace Sys2Proof

/-- Fields of an M word's ARG (R273). -/
def FE.ridx (f : FE) : Nat := f.a 15 6
def FE.acc (f : FE) : Bool := f.a 14 1 == 1
def FE.gath (f : FE) : Bool := f.a 13 1 == 1
def FE.part (f : FE) : Nat := f.a 17 2

end Sys2Proof

namespace Sys2Proof.Machine

/-! ## Issue -/

/-- FMAT, R277, R279. -/
def execFmat (f : FE) (s : State) : Out := gated (.fmat f) s fun s => s.engIssue (.fmat f) f false [] [] id

/-- FMATA, R277, R279. -/
def execFmata (f : FE) (s : State) : Out := gated (.fmata f) s fun s => s.engIssue (.fmata f) f false [] [] id

/-- FGRADX, R277, R279. -/
def execFgradx (f : FE) (s : State) : Out := gated (.fgradx f) s fun s => s.engIssue (.fgradx f) f false [] [] id

/-- FGRADC, R277, R279. -/
def execFgradc (f : FE) (s : State) : Out := gated (.fgradc f) s fun s => s.engIssue (.fgradc f) f false [] [] id

/-- FUPD, R277, R279. -/
def execFupd (f : FE) (s : State) : Out := gated (.fupd f) s fun s => s.engIssue (.fupd f) f false [] [] id

/-- REFINE, R277, R279. -/
def execRefine (f : FE) (s : State) : Out := gated (.refine f) s fun s => s.engIssue (.refine f) f false [] [] id

/-- CLEARG, R277, R279. -/
def execClearg (f : FE) (s : State) : Out := gated (.clearg f) s fun s => s.engIssue (.clearg f) f false [] [] id

/-- GEMM, R277, R279. -/
def execGemm (f : FE) (s : State) : Out := gated (.gemm f) s fun s => s.engIssue (.gemm f) f false [] [] id

/-- GEMMQ, R277, R279. Its input scales are rows of mq2 (R276, R279); it reads no c register, though R99 and R189 name
block-scaled routines among the readers of that file (DEDUCED, log 59). -/
def execGemmq (f : FE) (s : State) : Out := gated (.gemmq f) s fun s => s.engIssue (.gemmq f) f false [] [] id

/-- GEMMS, R277, R279. -/
def execGemms (f : FE) (s : State) : Out := gated (.gemms f) s fun s => s.engIssue (.gemms f) f false [] [] id

/-- GEMMT, R277, R279. -/
def execGemmt (f : FE) (s : State) : Out := gated (.gemmt f) s fun s => s.engIssue (.gemmt f) f false [] [] id

/-- FGRAD, R277, R279. -/
def execFgrad (f : FE) (s : State) : Out := gated (.fgrad f) s fun s => s.engIssue (.fgrad f) f false [] [] id

/-- A loadable routine is at this index (R278). -/
def Core.hasRoutine (c : Core) (ridx : Nat) : Bool :=
  decide (32 ≤ ridx) && (match c.kernel with | some k => k.routMask.getLsbD (ridx - 32) | none => false)

/-- MPLANE, R283. -/
def execMplane (f : FE) (s : State) : Out := gated (.mplane f) s fun s => s.engIssue (.mplane f) f false [] [] id

/-- MLDC, R284. -/
def execMldc (f : FE) (s : State) : Out := gated (.mldc f) s fun s => s.engIssue (.mldc f) f false [] [] id

/-- MSTC, R285. -/
def execMstc (f : FE) (s : State) : Out := gated (.mstc f) s fun s => s.engIssue (.mstc f) f false [] [] id

/-- MGRID, R284. -/
def execMgrid (f : FE) (s : State) : Out := gated (.mgrid f) s fun s => s.engIssue (.mgrid f) f false [] [] id

/-- MSTAT, R286. -/
def execMstat (f : FE) (s : State) : Out := gated (.mstat f) s fun s => s.engIssue (.mstat f) f false [] [] id

/-- The translations of the pages of a weight stream, made at issue: what the walks leave, and the first cause with its
address or the places of the pieces as physical address, leaf and length (R225, R284, R402). -/
def bindPages (m : Mach) : List Run → List TlbUpd × Except (Nat × Nat) (List (Nat × Word × Nat))
  | [] => ([], .ok [])
  | r :: t =>
    if inWindow r.1 then bindPages m t
    else
      match m.translate m.core.vmid.toNat r.1 .weights (.die m.core.die) with
      | (.fault c, u) => (u.toList, .error (c, r.1))
      | (.ok leaf pa, u) =>
        let (us, l) := bindPages (m.applyUpd u) t
        (u.toList ++ us, l.map fun k => (pa, leaf, r.2) :: k)

/-- An M operation whose shapes in translated memory are checked at issue (R225, R288). -/
def State.mBound (s : State) (i : Instr) (f : FE) (shapes : List (List (BitVec 32))) : State :=
  let (us, r) := bindPages s.rd ((shapes.map fun q => ((shRuns q).map pieces).flatten).flatten)
  let s := us.foldl (fun s u => s.applyUpd (some u)) s
  match r with
  | .error (cause, va) => s.raise cause (BitVec.ofNat 64 va)
  | .ok l => s.engIssue i f false [] [] fun o => { o with pairs := l }

/-- MWLOAD, R284: its pages are translated at issue. -/
def execMwload (f : FE) (s : State) : Out :=
  gated (.mwload f) s fun s =>
    let q := (s.rd.core.shapesFor false (f.swp == 1)).getD f.qs []
    if inWindow (shBase q) then s.raise 0x21 (BitVec.ofNat 64 (shBase q)) else s.mBound (.mwload f) f [q]

/-- Shape registers that the routine image at an index reads in translated memory (R288; log 13). -/
def Mach.routineShapes (m : Mach) (f : FE) : List (List (BitVec 32)) :=
  let mask := match m.images.find? fun k => k.1 == f.ridx with
    | some k => Config.routineReads k.2.1 k.2.2
    | none => 0
  (((m.core.shapesFor false (f.swp == 1)).zipIdx.filter fun x => mask / 2 ^ x.2 % 2 == 1).map (·.1)).filter fun q => !inWindow (shBase q)

/-- MCALL, R277, R278, R288: an index that is not an architected routine. -/
def execMcall (f : FE) (s : State) : Out :=
  gated (.mcall f) s fun s =>
    if s.rd.core.hasRoutine f.ridx then s.mBound (.mcall f) f (s.rd.routineShapes f)
    else s.raise 0x08 (BitVec.ofNat 64 f.ridx)

/-! ## Array state (R254 to R257) -/

def ArrState.plane (a : ArrState) (shadow : Bool) : List Host.Cell := if xor a.active shadow then a.plane1 else a.plane0
def ArrState.poi (a : ArrState) (shadow : Bool) : Sp Bool := if xor a.active shadow then a.poi1 else a.poi0
def ArrState.setPlane (a : ArrState) (shadow : Bool) (p : List Host.Cell) (x : Sp Bool) : ArrState :=
  if xor a.active shadow then { a with plane1 := p, poi1 := x } else { a with plane0 := p, poi0 := x }

/-- Array state at kernel entry: undefined, or zero where the device asks for it (R256). -/
def freshArray (zero : Bool) (idx : Nat) (owner : Nat × Nat) : ArrState :=
  let g (off : Nat) (k : Nat) : Byte := BitVec.ofNat 8 (Config.freeNat (idx + off + k))
  if zero then ⟨[], [], [], false, [], [], [], some owner⟩
  else
    ⟨cellsFill [] 0 planeSize (g 0), cellsFill [] 0 planeSize (g planeSize), cellsFill [] 0 gradSize (g (2 * planeSize)),
      false, [], [], [], some owner⟩

/-- The array state is that of this saved context, not yet saved with it. -/
def Saved.lacks (v : Saved) (a : ArrState) : Bool := match v.core with
  | some c => a.owner == some (v.launch, c.inst) && v.array.isNone
  | none => false

/-- Save array state with the context it belongs to. -/
def stashArray (m : Mach) (a : ArrState) : Mach :=
  { m with disp := { m.disp with saved := m.disp.saved.map fun v => if v.lacks a then { v with array := some a } else v } }

/-- Another context comes to the core: the array state of a pre-empted one stays in place, or is saved where another's stands
there already (R256, R392). -/
def leaveArray (m : Mach) : Mach :=
  if !m.disp.saved.any (·.lacks m.arr) then m
  else if m.arrLeft.isSome then stashArray m m.arr
  else { m with arrLeft := some m.arr }

/-- Array state at kernel entry. -/
def beginArray (s : State) (zero : Bool) : State :=
  let m := leaveArray s.cur
  { s with
    cur := { m with arr := freshArray zero s.freeIdx (m.core.launch, m.core.inst) }
    freeIdx := if zero then s.freeIdx else s.freeIdx + 2 * planeSize + gradSize }

/-- Before an M operation starts: array state that another context left in place is saved with that context (R256, R392). -/
def claimArray (m : Mach) : Mach :=
  match m.arrLeft with
  | none => m
  | some a => stashArray { m with arrLeft := none } a

/-! ## Streams (R275, R276) -/

def rowAt (q : List (BitVec 32)) (n : Nat) : Int := (shBase q : Int) + n * (shF q 5).toInt

/-- The run lies in the slice of the rank. -/
def inSlice (rank : Nat) (a : Int) (n : Nat) : Bool := decide (0 ≤ a) && runSide (a.toNat, n) == 1 + rank

/-- Status of a stream shape whose rows have `n` bytes. -/
def streamStatus (rank : Nat) (q : List (BitVec 32)) (n : Nat) : Nat :=
  let k := (shF q 3).toNat
  if shAligned q ≠ 0 then 0x03
  else if decide (1 < (shF q 4).toNat) || shN0 q != n || shSize q != 0 ||
    (k != 0 && !(inSlice rank (rowAt q 0) n && inSlice rank (rowAt q (k - 1)) n)) then 0x07
  else 0

/-- The runs all lie in the own slice. -/
def allOwn (rank : Nat) (l : List Run) : Bool := l.all fun r => runSide r == 1 + rank

/-- What a routine reads and writes: bytes of an x row, of a g or scale row, of an output row (R279). -/
structure Streams where
  x : Nat
  g : Option Nat
  out : Option Nat
  deriving DecidableEq, Repr

def streamsOf (ridx fmt : Nat) : Streams :=
  let eb := fmtBits fmt / 8
  match ridx with
  | 0 | 1 => ⟨128 * eb, none, some 512⟩
  | 2 | 11 => ⟨128 * eb, some (128 * eb), some 512⟩
  | 3 => ⟨128 * eb, some (128 * eb), none⟩
  | 7 => ⟨512 * eb, none, some 512⟩
  | 8 => ⟨1024, if fmt = 5 then none else some 32, some 512⟩
  | 9 => ⟨1024 * eb, none, some 512⟩
  | _ => ⟨128 * eb, none, some 2048⟩

def isGemmqScaled (ridx fmt : Nat) : Bool := ridx == 8 && fmt != 5
def isSpline (ridx : Nat) : Bool := ridx ≤ 3 || ridx == 5 || ridx == 11

/-- Samples of the routine. -/
def sampleCount (o : EngOp) (f : FE) : Nat := (shF (o.sh (if f.gath then 3 else 0)) 3).toNat

/-- Pre-checks of the streams (R275, R276). -/
def preStreams (rank : Nat) (o : EngOp) (f : FE) : Nat :=
  let st := streamsOf f.ridx f.fmt.toNat
  let ns := sampleCount o f
  let rows (k : Nat) : Nat := (shF (o.sh k) 3).toNat
  let need (b : Bool) : Nat := if b then 0 else 0x07
  let list := o.sh 3
  [streamStatus rank (o.sh 0) st.x,
    match st.out with
    | some n => worse (streamStatus rank (o.sh 1) n) (need (decide (ns ≤ rows 1)))
    | none => 0,
    match st.g with
    | some n => worse (streamStatus rank (o.sh 2) n)
        (need (if isGemmqScaled f.ridx f.fmt.toNat then decide (rows 0 ≤ rows 2) else decide (ns ≤ rows 2)))
    | none => 0,
    if f.gath then
      (if (shF list 0).toNat % 4 ≠ 0 then 0x03 else need (ns == 0 || inSlice rank (shBase list) (4 * ns)))
    else 0].foldl worse 0

/-- A routine starts: with GATH the index list is read (R276). -/
def mcallStart (m : Mach) (o : EngOp) (f : FE) : Mach × EngOp :=
  if !f.gath || preStreams m.core.rank o f != 0 then (m, o)
  else
    let (e, data) := Eng.read ⟨m, 0, 0⟩ [(shBase (o.sh 3), 4 * sampleCount o f)]
    (e.m, { o with
      status := e.status
      pairs := (groups 4 data).map fun g => (bytesNat (g.map (·.1)), 0, if anyPoison g then 1 else 0) })

/-! ## Routines (R277 to R282) -/

/-- The cells that a routine reads and finds poisoned (R257). -/
def poisonedCells (a : ArrState) (ridx : Nat) (mask : Word) : List Nat :=
  let p := a.plane false
  let poi := a.poi false
  let rows := validRows p
  let keys := (poi.filter (·.2)).map (·.1)
  let cells := keys.filter (· < 16384)
  let recs := (keys.filter (16384 ≤ ·)).map (· - 16384)
  if isSpline ridx then
    cells.filter (fun c => rows.contains (c / 128)) ++
      ((recs.filter rows.contains).map fun i => (List.range 128).map (128 * i + ·)).flatten
  else if ridx = 10 then cells
  else cells.filter fun c => mask.getLsbD (c / 128 / (if ridx = 7 then 8 else 4))

/-- Output elements that a poisoned cell poisons. -/
def poisonedOuts (ridx : Nat) (cells : List Nat) : List Nat :=
  if ridx = 10 then (cells.map fun c => (List.range 4).map (4 * (c / 128) + ·)).flatten
  else if ridx = 2 ∨ ridx = 11 then cells.map (· / 128)
  else cells.map (· % 128)

def valsOf (fmt : Nat) (b : Stream) : List Val :=
  (groups (fmtBits fmt / 8) b).map fun g => decF fmt (bytesNat (g.map (·.1)))

/-- A column sum's code: a NaN that no cell has changed is canonical too (R124). -/
def sumCode (c : Nat) : Nat := if (decF 0 c).isNaN then valNaN else c

/-- The output codes of one sample. -/
def sampleOut (p : List Host.Cell) (f : FE) (mask : Word) (x g : Stream) (noScale : Bool) (start : List Nat) : List Nat :=
  let fmt := f.fmt.toNat
  let mode := f.rnd.toNat
  let xs := valsOf fmt x
  let cols := List.range 128
  let start := if f.ridx = 8 ∧ fmt = 5 then start else start.map sumCode
  let lin (per : Nat) (term : Nat → Nat → Val) : List Nat :=
    cols.map fun j => (maskRows mask per).foldl (fun acc i => accum mode acc (term i j)) (start.getD j 0)
  match f.ridx with
  | 0 | 1 => (validRows p).foldl (rowForward p xs) start
  | 2 | 11 => cols.map fun i => rowDx p xs (valsOf fmt g) i
  | 7 => lin 8 (denseTerm p fmt mode xs)
  | 8 =>
    if fmt = 5 then
      let xi := x.map fun b => b.1.toNat
      cols.map fun j => (maskRows mask 4).foldl (fun acc i => wrap 32 (acc + int8Term p xi i j)) (start.getD j 0)
    else
      let sc := if noScale then none else some (g.map fun b => b.1.toNat)
      cols.map fun j => ((List.range 32).filter mask.getLsbD).foldl (fun acc b => blockTerm p fmt mode xs sc acc j b) (start.getD j 0)
  | 9 => lin 4 (sparseTerm p fmt mode xs)
  | 10 => (List.range 512).map fun k => transTerm p fmt mode xs (start.getD k 0) k
  | _ => []

/-- A run of a shape's row. -/
def rowRunOf (q : List (BitVec 32)) (n bytes : Nat) : Run := ((rowAt q n).toNat, bytes)

/-- One sample of a routine: its rows are read, its output written, its gradients added (R276, R280, R281). -/
def sample (o : EngOp) (f : FE) (bad : List Nat) (e : Eng) (n : Nat) : Eng :=
  let st := streamsOf f.ridx f.fmt.toNat
  let r := if f.gath then (o.pairs.getD n (0, 0, 0)).1 else n
  let scaled := isGemmqScaled f.ridx f.fmt.toNat
  let inX := decide (r < (shF (o.sh 0) 3).toNat)
  let (e, x) : Eng × Stream :=
    if inX then e.read [rowRunOf (o.sh 0) r st.x] else (e.fail 0x09, plain (List.replicate st.x 0))
  let (e, g) : Eng × Stream := match st.g with
    | some b => if scaled && !inX then (e, []) else e.read [rowRunOf (o.sh 2) (if scaled then r else n) b]
    | none => (e, [])
  let poi := anyPoison x || anyPoison g
  let a := e.m.arr
  let p := a.plane false
  let mask := o.ms.getD 2 0
  let accumulates := f.ridx = 1 || f.acc
  let e := match st.out with
    | none => e
    | some bytes =>
      let run := rowRunOf (o.sh 1) n bytes
      let (e, start) : Eng × Stream := if accumulates then e.read [run] else (e, [])
      let codes := (groups 4 start).map fun g => bytesNat (g.map (·.1))
      let codes := if accumulates then codes else List.replicate (bytes / 4) 0
      let out := sampleOut p f mask x g (scaled && !inX) codes
      let flag (k : Nat) : Bool := poi || bad.contains k || (start.getD (4 * k) (0, false)).2
      e.write [run] ((List.range out.length).map fun k => (natBytes (out.getD k 0) 4).map fun b => (b, flag k)).flatten
  if f.ridx = 3 ∨ f.ridx = 11 then
    let gr := (validRows p).foldl (rowGrad p (valsOf f.fmt.toNat x) (valsOf f.fmt.toNat g)) a.grad
    let all : Sp Bool := (List.range 16384).map fun k => (k, true)
    { e with m := { e.m with arr := { a with grad := gr, poiG := if poi then all else a.poiG } } }
  else e

/-- A routine that takes samples, complete. -/
def samplesEnd (s : State) (o : EngOp) (f : FE) : State × Nat × Nat :=
  let m := s.cur
  let p := m.arr.plane false
  let st := worse (preStreams m.core.rank o f) (if isSpline f.ridx ∧ badGrid p then 0x40 else 0)
  if st ≠ 0 then (s, st, 0)
  else
    let ns := sampleCount o f
    let cells := poisonedCells m.arr f.ridx (o.ms.getD 2 0)
    let hit := decide (ns ≠ 0) && !cells.isEmpty
    let e := (List.range ns).foldl (sample o f (poisonedOuts f.ridx cells)) ⟨m, worse o.status (if hit then 0x06 else 0), 0⟩
    ({ s with cur := e.m }, e.status, ns)

/-- FUPD, R257, R266. -/
def fupdEnd (s : State) (o : EngOp) : State × Nat × Nat :=
  let a := s.cur.arr
  let poi := a.poi false
  let hit := ((poi.filter fun k => k.1 < 16384) ++ a.poiG).map (·.1)
  let lr := decF 0 ((o.ms.getD 3 0).toNat % 2 ^ 32)
  let (p, gr, n) := updAll lr (a.plane false) a.grad
  let poi := hit.foldl (fun x k => spSet false x k true) poi
  ({ s with cur := { s.cur with arr := { a.setPlane false p poi with grad := gr } } }, if hit.isEmpty then 0 else 0x06, n)

/-- REFINE, R257, R267. -/
def refineEnd (s : State) : State × Nat × Nat :=
  let a := s.cur.arr
  let p := a.plane false
  let poi := a.poi false
  let rows := validRows p
  let why := if badGrid p then some 0x40 else (rows.map fun i => refuse (gridRec p i)).find? (· != 0)
  match why with
  | some st => (s, st, 0)
  | none =>
    let go := rows.filter fun i => !spGet false poi (16384 + i)
    let (p', gr) := go.foldl refineRow (p, a.grad)
    let hit := poi.any fun k => k.2 && (decide (16384 ≤ k.1) || go.contains (k.1 / 128))
    let poiG := a.poiG.filter fun k => !go.contains (k.1 / 128)
    ({ s with cur := { s.cur with arr := { a.setPlane false p' poi with grad := gr, poiG := poiG } } },
      if hit then 0x06 else 0, go.length)

/-- CLEARG, R266. -/
def cleargEnd (s : State) : State × Nat × Nat :=
  ({ s with cur := { s.cur with arr := { s.cur.arr with grad := [], poiG := [] } } }, 0, 0)

/-! ## Planes, images, status (R283 to R286) -/

/-- MPLANE, R283. -/
def mplaneEnd (s : State) : State × Nat × Nat :=
  ({ s with cur := { s.cur with arr := { s.cur.arr with active := !s.cur.arr.active } } }, 0, 0)

/-- Put a stream into the shadow plane from an offset: what receives a poisoned byte becomes poisoned, the rest loses its
poison (R257, R284). -/
def loadShadow (a : ArrState) (off : Nat) (b : Stream) : ArrState :=
  let p := cellsWrite (a.plane true) off (b.map Prod.fst)
  let item (k : Nat) : Nat := if k < cellPart then k / 24 else 16384 + (k - cellPart) / 16
  let lo := item off
  let hi := item (off + b.length - 1)
  let hits := (((b.zipIdx off).filter fun x => x.1.2).map fun x => item x.2).eraseDups
  let kept := (a.poi true).filter fun k => !(decide (lo ≤ k.1) && decide (k.1 ≤ hi))
  a.setPlane true p (hits.foldl (fun x k => spSet false x k true) kept)

/-- MLDC and MGRID. -/
def loadEnd (s : State) (o : EngOp) (f : FE) (off size : Nat) : State × Nat × Nat :=
  let q := o.sh f.qs
  let st := [shStatus q, if shTotal q = size ∧ allOwn s.cur.core.rank (shRuns q) then 0 else 0x07].foldl worse 0
  if st ≠ 0 then (s, st, 0)
  else
    let (e, data) := Eng.read ⟨s.cur, 0, 0⟩ (shRuns q)
    ({ s with cur := { e.m with arr := loadShadow e.m.arr off data } }, e.status, size)

/-- A piece of a weight stream, from the memory side, where a miss may fill the cache in the weight-stream class (R215,
R225). -/
def readSide (e : Eng) (pa : Nat) (leaf : Word) (n : Nat) : Eng × Stream :=
  let comp := effComp (leafComp leaf) (pa / 128)
  let mem := e.m.mem.touch pa n
  let (row, poi) := mem.sideRead comp (pa / 128)
  let mem := addFills mem (mem.sideWants e.m.core.vmid.toNat true false comp (pa / 128))
  let e := { e with m := { e.m with mem := mem } }
  (if poi then e.fail 0x06 else e, (((rowBytes row).drop (pa % 128)).take n).map fun b => (b, poi))

def readSides (e : Eng) : List (Nat × Word × Nat) → Eng × Stream
  | [] => (e, [])
  | r :: t =>
    let (e, b) := readSide e r.1 r.2.1 r.2.2
    let (e, c) := readSides e t
    (e, b ++ c)

/-- MWLOAD. -/
def mwloadEnd (s : State) (o : EngOp) (f : FE) : State × Nat × Nat :=
  let q := o.sh f.qs
  let st := [shStatus q, if shTotal q = cellPart then 0 else 0x07].foldl worse 0
  if st ≠ 0 then (s, st, 0)
  else
    let (e, data) := readSides ⟨s.cur, 0, 0⟩ o.pairs
    ({ s with cur := { e.m with arr := loadShadow e.m.arr 0 data } }, e.status, cellPart)

/-- The image that MSTC stores, with poison by item. -/
def imageOf (a : ArrState) (part : Nat) : Stream :=
  if part = 2 then (cellsRead a.grad 0 gradSize).zipIdx.map fun x => (x.1, spGet false a.poiG (x.2 / 48))
  else
    let sh := part == 1
    (cellsRead (a.plane sh) 0 planeSize).zipIdx.map fun x =>
      (x.1, spGet false (a.poi sh) (if x.2 < cellPart then x.2 / 24 else 16384 + (x.2 - cellPart) / 16))

/-- MSTC. -/
def mstcEnd (s : State) (o : EngOp) (f : FE) : State × Nat × Nat :=
  let q := o.sh f.qs
  let img := imageOf s.cur.arr f.part
  let st := [shStatus q, if shTotal q = img.length ∧ allOwn s.cur.core.rank (shRuns q) then 0 else 0x07].foldl worse 0
  if st ≠ 0 then (s, st, 0)
  else
    let e := Eng.write ⟨s.cur, if anyPoison img then 0x06 else 0, 0⟩ (shRuns q) img
    ({ s with cur := e.m }, e.status, e.info)

/-- MSTAT's INFO. -/
def mstatInfo (a : ArrState) : Nat :=
  let p := a.plane false
  let rows := validRows p
  let b (x : Bool) (k : Nat) : Nat := if x then 2 ^ k else 0
  rows.length * 2 ^ 24 + (rows.map fun i => (gridRec p i).g).foldl max 0 * 2 ^ 16 + b (badGrid p) 4 + b (!a.poiG.isEmpty) 3 +
    b (!(a.poi true).isEmpty) 2 + b (!(a.poi false).isEmpty) 1 + b a.active 0

/-- MSTAT, R286. -/
def mstatEnd (s : State) : State × Nat × Nat :=
  (s, 0, mstatInfo s.cur.arr)

/-! ## Loadable routines (R288) -/

/-- Address of a byte of a stream shape that meets R275, counted row by row. -/
def streamByte (rank : Nat) (q : List (BitVec 32)) (off : Nat) : Option Nat :=
  if streamStatus rank q (shN0 q) = 0 ∧ off < shN0 q * (shF q 3).toNat then some ((rowAt q (off / shN0 q)).toNat + off % shN0 q)
  else none

/-- One free write of a loadable routine: 0, 1 and 2 a byte of a plane or of the gradient image, 3 the active-plane bit, 4
to 7 a byte of a shape that meets R275, 8 to 10 the poison of an item (log 13). -/
def routineWrite (o : EngOp) (e : Eng) (w : Nat × Nat × Byte) : Eng :=
  let (k, off, b) := w
  let a := e.m.arr
  let set (x : ArrState) : Eng := { e with m := { e.m with arr := x } }
  if k = 0 then (if off < planeSize then set { a with plane0 := spSet 0 a.plane0 off b } else e)
  else if k = 1 then (if off < planeSize then set { a with plane1 := spSet 0 a.plane1 off b } else e)
  else if k = 2 then (if off < gradSize then set { a with grad := spSet 0 a.grad off b } else e)
  else if k = 3 then set { a with active := b.getLsbD 0 }
  else if k < 8 then
    match streamByte e.m.core.rank (o.sh (k - 4)) off with
    | some va => e.writePiece va [(b, false)]
    | none => e
  else if k = 8 then (if off < 16512 then set { a with poi0 := spSet false a.poi0 off (b != 0) } else e)
  else if k = 9 then (if off < 16512 then set { a with poi1 := spSet false a.poi1 off (b != 0) } else e)
  else if off < 16384 then set { a with poiG := spSet false a.poiG off (b != 0) }
  else e

/-- Statuses that R288 allows. -/
def routineStatuses : List Nat := [0, 1, 2, 3, 4, 5, 6, 7, 8, 9, 10, 0x40, 0x41, 0x42]

/-- A loadable routine, complete: what it leaves is free. -/
def mcallEnd (s : State) (o : EngOp) : State × Nat × Nat :=
  let i := s.freeIdx
  let st := (Config.routineStatus i).toNat
  let e := (Config.routineWrites i).foldl (routineWrite o) ⟨s.cur, 0, 0⟩
  ({ s.used with cur := e.m }, if routineStatuses.contains st then st else 0, (Config.routineInfo i).toNat)

end Sys2Proof.Machine
end

