-- ==== Sys2Proof/Machine/EngineEvents.lean ====
section
/-! DEFINITION. The start and the completion of engine operations (R228 to R231, R255, R304, R372). -/

namespace Sys2Proof.Machine

def isM (o : EngOp) : Bool := match view o.ins with
  | .m _ _ => true
  | _ => false

/-- The operation may start (R229, R255, R304, R391): what it waits for has completed, no acquire of its context is
outstanding, and for an M operation every earlier one has completed (log 8). -/
def mayStart (m : Mach) (o : EngOp) : Bool :=
  let c := m.core
  !o.started && (c.status == .running || c.status == .ending) && !c.fenced && o.deps.all (fun d => !c.engIds.contains d) &&
    !(isM o && c.eng.any fun e => isM e && decide (e.id < o.id))

/-- What an operation does when it starts; `free` chooses a CSEND's link. -/
def startOp (m : Mach) (o : EngOp) (free : Nat) : Mach × EngOp :=
  match o.ins with
  | .dmc f => dmcStart m o f
  | .dgat f => tableStart m o (o.sh f.qs) (o.sh f.qd) (o.sh f.qx)
  | .dsct f => tableStart m o (o.sh f.qd) (o.sh f.qs) (o.sh f.qx)
  | .upd f => updStart m o f
  | .csend f => csendStart m o f free
  | .crecvStore f => crecvStart m o f 0
  | .crecvAddw f => crecvStart m o f 1
  | .crecvAddq f => crecvStart m o f 2
  | .fmat f => mcallStart m o f
  | .fmata f => mcallStart m o f
  | .fgradx f => mcallStart m o f
  | .fgradc f => mcallStart m o f
  | .fgrad f => mcallStart m o f
  | .gemm f => mcallStart m o f
  | .gemmq f => mcallStart m o f
  | .gemms f => mcallStart m o f
  | .gemmt f => mcallStart m o f
  | _ => (m, o)

/-- ENGINE_OP_START, R229. -/
def execEngineOpStart (op : Nat) (s : State) : Out :=
  .next (s.used.setCur fun m =>
    match m.core.op? op with
    | some o =>
      if mayStart m o then
        let (m, o) := startOp (if isM o then claimArray m else m) o (Config.freeNat s.freeIdx)
        { m with core := m.core.setOp { o with started := true } }
      else m
    | none => m)

/-- Everything a started operation waits for besides its accesses has come. -/
def mayComplete (m : Mach) (o : EngOp) : Bool :=
  o.started &&
    match o.ins with
    | .dmc _ | .phase _ | .csend _ | .crecvStore _ | .crecvAddw _ | .crecvAddq _ => o.left.isEmpty
    | .upd _ => o.pairs.isEmpty
    | .djoin f => djoinReady m o f
    | _ => true

/-- An operation is given up: nothing more comes of it. -/
def Core.abandon (c : Core) (op : Nat) : Core := { c with eng := c.eng.filter (·.id != op) }

/-- The accesses of an operation, with its status and INFO. -/
def endOp (s : State) (o : EngOp) : State × Nat × Nat :=
  match o.ins with
  | .dcpy f => dcpyEnd s o f
  | .dgat f => dgatEnd s o f
  | .dsct f => dsctEnd s o f
  | .dzero f => fillEnd s o f 0
  | .dfill f => fillEnd s o f (o.vals.getD 0 0).toNat
  | .dpref f => dprefEnd s o f
  | .dflush f => dflushEnd s o f
  | .dinv f => dinvEnd s o f
  | .phase _ => phaseEnd s o
  | .tmovOpr _ => oprEnd s o
  | .tmovQnt f => qntEnd s o f
  | .tmovDqn f => dqnEnd s o f
  | .tmovLzc f => lzcEnd s o f
  | .tmovLzd f => lzdEnd s o f
  | .tmovCrc f => crcEnd s o f
  | .tmovRes f => resEnd s o f
  | .ureg f => uregEnd s o f
  | .urel _ => urelEnd s o
  | .ufence _ => ufenceEnd s o
  | .crecvStore f => crecvEnd s o f 0
  | .crecvAddw f => crecvEnd s o f 1
  | .crecvAddq f => crecvEnd s o f 2
  | .fmat f => samplesEnd s o f
  | .fmata f => samplesEnd s o f
  | .fgradx f => samplesEnd s o f
  | .fgradc f => samplesEnd s o f
  | .fgrad f => samplesEnd s o f
  | .gemm f => samplesEnd s o f
  | .gemmq f => samplesEnd s o f
  | .gemms f => samplesEnd s o f
  | .gemmt f => samplesEnd s o f
  | .fupd _ => fupdEnd s o
  | .refine _ => refineEnd s
  | .clearg _ => cleargEnd s
  | .mcall _ => mcallEnd s o
  | .mplane _ => mplaneEnd s
  | .mldc f => loadEnd s o f 0 planeSize
  | .mgrid f => loadEnd s o f cellPart 2048
  | .mwload f => mwloadEnd s o f
  | .mstc f => mstcEnd s o f
  | .mstat _ => mstatEnd s
  | _ => (s, o.status, o.info)

/-- TOKEN_COMPLETE, R229 to R231: of an operation of the followed context, or of another context's UREG or UREL. What a
killed context had started completes or is abandoned; what then still waits for a message or a window is abandoned (R372). -/
def execTokenComplete (op : OpRef) (s : State) : Out :=
  .next (match op with
    | .other r => s.setCur (extRegion · r)
    | .own op =>
      match s.cur.core.op? op with
      | some o =>
        let idle := s.cur.core.status == .idle
        if !mayComplete s.cur o then (if idle && o.started && !isPhase o then s.setCore (·.abandon op) else s)
        else if idle && !isPhase o && Config.freeBit s.freeIdx then s.used.setCore (·.abandon op)
        else
          let (t, st, info) := endOp (if idle then s.used else s) o
          t.setCore fun c => completeOp c o st info
      | none => s)

end Sys2Proof.Machine
end

