-- ==== Sys2Proof/Machine/Links.lean ====
section
/-! DEFINITION. Training a link, its failure and its retirement (R361, R413, R414, R416, R417, R424, R425). -/

namespace Sys2Proof.Machine

/-! ## REPLACE (R425) -/

/-- PENDING set, COUNT one more, REASON written, and an MCTP event sent. -/
def raiseReplace (m : Mach) (reason : Nat) : Mach :=
  let count := (bits m.info.replace.toNat 47 16 + 1) % 2 ^ 32
  { m with info := { m.info with
      replace := BitVec.ofNat 64 (2 ^ 63 + count * 2 ^ 16 + reason)
      mctp := m.info.mctp ++ [reason] } }

/-- The features whose resource is usable (R419). -/
def offerOf (i : Info) : BitVec 512 :=
  let quads := i.quadMask != 0
  let hbm := i.stackMask != 0
  let on : List Bool := [true, quads, quads, quads, hbm, hbm, i.strait &&& i.portMask != 0, i.cxl, hbm, quads, quads]
  BitVec.ofNat 512 (((List.range 11).filter fun k => on.getD k false).foldl (fun a k => a + 2 ^ k) 0)

/-- What a retirement has taken from the offer (R8, R419). -/
def Info.reoffer (i : Info) : Info := { i with offer := i.offer &&& offerOf i }

/-- Retire a link or port (R424). -/
def retireLink (m : Mach) (n : Nat) : Mach :=
  let m := m.setLink n { m.link n with retired := true, step := 0 }
  let info := if isStrait n then { m.info with portMask := m.info.portMask &&& ~~~BitVec.ofNat 4 (2 ^ (n - 32)) }
    else { m.info with isthMask := m.info.isthMask &&& ~~~BitVec.ofNat 32 (2 ^ n) }
  raiseReplace { m with info := info.reoffer } 3

/-- Bring-up is under way or done, with firmware that passed (R418). -/
def Mach.up (m : Mach) : Bool := !m.dies.isEmpty

/-- Bring-up comes to step 7 once every usable link has trained: the module offers its features (R418, R419). -/
def Mach.offerNow (m : Mach) : Mach :=
  let waits (n : Nat) : Bool := m.linkUsable n && (!isStrait n || m.info.strait.getLsbD (n - 32)) && (m.link n).step != 6
  if m.up && m.info.state == 0 && !(List.range 36).any waits then { m with info := { m.info with offer := offerOf m.info, state := 1 } }
  else m

/-- The link is an Isthmus link, or a port in Strait mode: the other ports run plain Ethernet and train no frames (R17, R418). -/
def Mach.framed (m : Mach) (n : Nat) : Bool := !isStrait n || m.info.strait.getLsbD (n - 32)

/-! ## TRAIN messages (R417) -/

/-- Send a TRAIN frame: plaintext, TAG zero, SEQ counted from 0 in each training. -/
def Link.train (l : Link) (payload : List Byte) : Link :=
  let f : Frame := ⟨BitVec.ofNat 64 l.trainSeq, 4, 0, BitVec.ofNat 16 payload.length, 0, padTo 4064 payload, List.replicate 16 0⟩
  { l with trainSeq := l.trainSeq + 1, outbox := l.outbox ++ [f] }

/-- The secrets of this attempt on this link: attempts are counted for good, so that none comes twice. -/
def trainKey (n : Nat) (l : Link) : Nat := l.attempt * 64 + n
def ownPublic (n : Nat) (l : Link) : List Byte := x25519 (Config.privateKey (trainKey n l)) (padTo 32 [9])

def helloBytes (m : Mach) (n : Nat) (l : Link) : List Byte :=
  let chain := Config.certChain
  [1, 0, 0, 0, 0, 0, 0, 0, m.info.campus, 0] ++ natBytes m.info.pkg.toNat 2 ++ natBytes 0 4 ++ padTo 32 (Config.nonce (trainKey n l)) ++
    padTo 32 (ownPublic n l) ++ [BitVec.ofNat 8 (chain.length / 160)] ++ natBytes 0 7 ++ chain

/-- The two sides in the order of R413 and R417: the lower (CAMPUS, PKG) first. -/
def inOrderOf (m : Mach) (h : Hello) (own peer : List Byte) : List Byte :=
  let o := m.info.campus.toNat * 2 ^ 16 + m.info.pkg.toNat
  if o < h.campus * 2 ^ 16 + h.pkg then own ++ peer else peer ++ own

/-- What both signatures are over. -/
def proofDigest (m : Mach) (n : Nat) (l : Link) (h : Hello) : List Byte :=
  sha512 (inOrderOf m h (padTo 32 (Config.nonce (trainKey n l)) ++ padTo 32 (ownPublic n l)) (h.nonce ++ h.xpub))

/-- Bytes 0 to 95 of a certificate. -/
def certBody (c : Cert) : List Byte :=
  natBytes c.cver 4 ++ natBytes c.ckind 2 ++ natBytes 0 2 ++ natBytes c.serial.toNat 8 ++ c.subject ++ c.issuer ++ natBytes 0 16

/-- The certificates from this one on: CKIND, issuer of each, signatures, and the root at the end. -/
def chainFrom (kind : Nat) : List Cert → Bool
  | [] => false
  | c :: rest =>
    c.cver == 1 && c.ckind == kind && edVerify c.issuer (sha512 (certBody c)) c.csig &&
      match rest with
      | [] => c.issuer == Config.horyelKey
      | d :: _ => d.subject == c.issuer && chainFrom 1 rest

def validChain (l : List Cert) : Bool := decide (l.length ≤ 4) && chainFrom 0 l

/-! ## Failure -/

/-- A failed step: training starts again from step 1; eight failures in a row retire the link (R416). -/
def trainFails (m : Mach) (n : Nat) : Mach :=
  let l := m.link n
  let m := m.setLink n { l with step := 0, failures := l.failures + 1, peer := none, prk := [] }
  if 8 ≤ l.failures + 1 ∧ m.linkUsable n then (retireLink m n).offerNow else m

/-- The module finds a failed step and says so with an ABORT. -/
def abortTraining (m : Mach) (n step reason : Nat) : Mach :=
  trainFails (m.setLink n ((m.link n).train ([4, 0, 0, 0, 0, 0, 0, 0] ++ natBytes step 1 ++ natBytes reason 1))) n

/-- A TRAIN frame arrives: outside training it is dropped; with a nonzero reserved byte, or out of order, it fails the
step (R412, R417). -/
def trainFrame (n : Nat) (clean inOrder : Bool) (s : State) (f : State → Link → State) : State :=
  let l := s.cur.link n
  if l.step < 3 ∨ 6 ≤ l.step then s.setCur fun m => m.setLink n l.drop
  else if !clean || !inOrder then s.setCur fun m => abortTraining m n l.step 0
  else f s l

/-- LINK_TRAIN, R416: steps 1 and 2 of the physical layer, passed or failed; then step 3 begins with this side's HELLO. -/
def execLinkTrain (link : Nat) (passed : Bool) (s : State) : Out :=
  .next (s.setCur fun m =>
    let l := m.link link
    if 36 ≤ link ∨ l.retired ∨ !m.linkUsable link ∨ !m.framed link ∨ l.step ≠ 0 then m
    else if !passed then trainFails m link
    else
      let l := { l with step := 3, attempt := l.attempt + 1, trainSeq := 0, peer := none, prk := [] }
      m.setLink link (l.train (helloBytes m link l)))

/-- HELLO, R416 step 3: the chain is checked, and that the fabric manager admits the peer; then this side's PROOF goes
out. -/
def execHello (link : Nat) (h : Hello) (s : State) : Out :=
  let l := s.cur.link link
  let clean := h.reservedZero && h.chain.all (·.reservedZero)
  .next (trainFrame link clean (l.step == 3 && l.peer.isNone) s fun s l =>
    s.setCur fun m =>
      if !validChain h.chain then abortTraining m link 3 1
      else if !h.admitted then abortTraining m link 3 3
      else m.setLink link ({ l with peer := some h }.train ([2, 0, 0, 0, 0, 0, 0, 0] ++ padTo 64 (edSign Config.deviceKey (proofDigest m link l h)))))

/-- PROOF, R416 steps 3 to 5: the signature verified, the keys are agreed; the retry buffer is allocated, where one is to be
had, and this side's READY goes out. -/
def execProof (link : Nat) (sig : List Byte) (clean : Bool) (s : State) : Out :=
  let l := s.cur.link link
  .next (trainFrame link clean (l.step == 3 && l.peer.isSome) s fun s l =>
    s.used.setCur fun m =>
      match l.peer with
      | none => m
      | some h =>
        let key := match h.chain with
          | c :: _ => c.subject
          | [] => []
        if !edVerify key (proofDigest m link l h) sig then abortTraining m link 3 2
        else if Config.freeBit s.freeIdx then abortTraining m link 5 4
        else
          let z := x25519 (Config.privateKey (trainKey link l)) h.xpub
          let prk := hkdfExtract (inOrderOf m h (padTo 32 (Config.nonce (trainKey link l))) h.nonce) z
          m.setLink link ({ l with step := 5, prk := prk }.train
            ([3, 0, 0, 0, 0, 0, 0, 0] ++ natBytes (bufferBytes link) 8 ++ natBytes m.ftime.toNat 8)))

/-- READY, R413, R416 step 5, R417, R418: epoch 0 begins; FTIME is aligned and never falls. -/
def execReady (link : Nat) (_rbuf ft : Word) (clean : Bool) (s : State) : Out :=
  let l := s.cur.link link
  .next (trainFrame link clean (l.step == 5) s fun s l =>
    s.setCur fun m =>
      let now := if m.ftime.toNat < ft.toNat then ft else m.ftime
      let l := { l with
        step := 6, failures := 0, epoch := 0, seq := 0, epochAt := now, queue := [], unacked := [], carry := [], ackedAt := now, rate := (64, 6),
        peerEpoch := 0, win := .fresh, next := .fresh }
      { m.setLink link l with ftime := now }.offerNow)

/-- ABORT, R417: training starts again. -/
def execAbort (link _step _reason : Nat) (clean : Bool) (s : State) : Out :=
  .next (trainFrame link clean true s fun s _ => s.setCur fun m => trainFails m link)

/-! ## A link fails (R361, R414) -/

/-- The operation waits on a link that has just failed: a CSEND sent over it, or one still to be sent or a CRECV whose peer no
trained link leads to any longer. -/
def waitsOn (m : Mach) (link : Nat) (o : EngOp) : Bool :=
  let x := o.vals.getD 0 0
  let cut := (m.linksTo (peerCampus x) (peerPkg x)).isEmpty
  o.started && !o.left.isEmpty && !m.isHere (peerCampus x) (peerPkg x) &&
    (if isCsend o then o.route == some link && (o.left.any (·.1 == 1) || cut) else (crecvFE o.ins).isSome && cut)

/-- Operations that waited on the link complete with UNREACHABLE. -/
def unreachable (m : Mach) (link : Nat) : Mach :=
  let ids := (m.core.eng.filter (waitsOn m link)).map (·.id)
  let give (o : EngOp) : EngOp :=
    if ids.contains o.id then { o with left := [], status := worse o.status 0x62, info := 0 } else o
  { m with
    coll := { m.coll with out := m.coll.out.filter fun k => !ids.contains k.1 }
    core := { m.core with eng := m.core.eng.map give } }

/-- How long a link may go without a new acknowledgement, in ns (R414). -/
def linkLimit (n : Nat) : Nat := if isStrait n then 2000000000 else 50000000

/-- LINK_FAIL, R361, R414: no frame newly acknowledged for 50 ms on Isthmus or 2 s on Strait. The frames kept are discarded,
what waits on the link completes, and retraining begins. -/
def execLinkFail (link : Nat) (s : State) : Out :=
  .next (s.setCur fun m =>
    let l := m.link link
    if l.step = 6 ∧ l.unacked ≠ [] ∧ l.ackedAt.toNat + linkLimit link ≤ m.ftime.toNat then
      unreachable (m.setLink link { l with step := 0, queue := [], unacked := [], carry := [], peer := none, prk := [] }) link
    else m)

end Sys2Proof.Machine
end

