-- ==== Sys2Proof/Machine/Oasis.lean ====
section
/-! DEFINITION. The Oasis core: its moves (R327 to R332), units (R333 to R343), and the events that land its exposed
results and complete its operations (R333, R339, R340, R344). -/

namespace Sys2Proof.Machine

/-! ## Ports (R328 to R330) -/

/-- A value read from a port: its bits and its width. -/
abbrev PortVal := BitVec 512 × Nat

/-- The conversions of R330. -/
def portConv (v : PortVal) (w : Nat) : BitVec 512 :=
  if w = 1 then (if v.1 = 0 then 0 else 1)
  else if v.2 = 64 ∧ w = 512 then (elemsRow 32 (List.replicate 16 (v.1.toNat % 2 ^ 32))).setWidth 512
  else if w = 64 then (v.1.setWidth 64).setWidth 512
  else v.1

/-- Unit of a port address from 0x100 on. -/
def portUnit (p : Nat) : Nat := p / 256 - 1

/-- Width of a unit's result port, and of its operand registers and T (R329). -/
def resWidth (unit : Nat) : Nat := if unit = 2 ∨ unit = 3 then 512 else 64
def oprWidth (unit reg : Nat) : Nat := if unit = 2 ∨ (unit = 3 ∧ reg = 1) then 512 else 64
def trigWidth (unit : Nat) : Nat := if unit = 2 then 512 else 64

def Oasis.reg (o : Oasis) (n : Nat) : Word := spGet 0 o.o n
def Oasis.guard (o : Oasis) (n : Nat) : Bool := o.gd.getLsbD n
def Oasis.operand (o : Oasis) (unit reg : Nat) : BitVec 512 := spGet 0 o.opr (unit * 4 + reg)

/-- The source of a move. -/
def Oasis.source (o : Oasis) (f : FMv) : PortVal :=
  let p := f.src.toNat
  if p = 0 then (0, 64)
  else if p < 0x040 then ((o.reg (p - 0x020)).setWidth 512, 64)
  else if p < 0x060 then (spGet 0 o.y (p - 0x040), 512)
  else if p < 0x100 then (if o.guard (p - 0x060) then 1 else 0, 1)
  else if p < 0x1000 then (spGet 0 o.res (portUnit p), resWidth (portUnit p))
  else if p = 0x1EFF then (((f.lit.getD 0).signExtend 64).setWidth 512, 64)
  else (((f.src.extractLsb' 0 8).signExtend 64).setWidth 512, 64)

/-- Write a register, guard or operand register (R331 step 2). -/
def Oasis.write (o : Oasis) (p : Nat) (v : PortVal) : Oasis :=
  if p = 0 then o
  else if p < 0x040 then { o with o := spSet 0 o.o (p - 0x020) ((portConv v 64).setWidth 64) }
  else if p < 0x060 then { o with y := spSet 0 o.y (p - 0x040) (portConv v 512) }
  else if p < 0x100 then
    let bit : BitVec 8 := BitVec.ofNat 8 (2 ^ (p - 0x060))
    { o with gd := if portConv v 1 = 1 then o.gd ||| bit else o.gd &&& ~~~bit, wrote := o.wrote ||| bit }
  else
    let unit := portUnit p
    let reg := p % 4
    { o with opr := spSet 0 o.opr (unit * 4 + reg) (portConv v (oprWidth unit reg)) }

/-- The guard of a move passes (R327, R331). -/
def Oasis.passes (o : Oasis) (f : FMv) : Bool := f.grd == 0 || o.guard f.grd.toNat != (f.inv == 1)

/-! ## Faults (R347, R372, R373) -/

/-- The fault of an Oasis kernel kills its launch. An Oasis core has no KSTAT; what the record holds there is free. -/
def oasisKill (m : Mach) (kstat cause : Nat) (epc tval : Word) : Mach :=
  let o := m.oas
  let none3 : Nat × Nat × Nat := (0, 0, 0)
  let slots := [none3, none3, ((causeWord 0 false cause).toNat, epc.toNat, tval.toNat)]
  let record := killRecord 0xFFFF o.inst 2 slots m.cycle.toNat 0 0 kstat
  let m := memberGone (killLaunch m o.launch (some o.num) record) o.num true
  { m with oas := { m.oas with status := .idle, jump := none, yielded := false } }

/-- The word faults, without effect. -/
def State.oasFault (s : State) (cause : Nat) (tval : Word) : State :=
  { s.used with cur := oasisKill s.rd (Config.freeNat s.freeIdx) cause s.rd.oas.pc tval, verdict := .done }

/-- TVAL of an encoding fault of a move (R332). -/
def moveTval (slot : Nat) (f : FMv) : Word := BitVec.ofNat 64 (slot * 2 ^ 60 + (encMv f).toNat)

/-! ## Before a move has its effect (R331 to R333) -/

/-- The unit has an operation outstanding that writes R (R333). -/
def Oasis.awaits (o : Oasis) (unit : Nat) : Bool :=
  o.ops.any fun p => p.unit == unit && (unit != 3 || p.op ≤ 2 || p.op == 6)

/-- A trigger of a unit waits (R333, R342). -/
def Oasis.blocks (o : Oasis) (unit : Nat) : Bool :=
  decide (3 ≤ unit) && decide (unit ≤ 6) &&
    (o.ops.any (·.unit == 6) ||
     (if unit = 3 then decide (16 ≤ (o.ops.filter (·.unit == 3)).length) else o.ops.any (·.unit == unit)))

/-- Source of a move: an interlocked result port. -/
def interlocked (p : Nat) : Bool := p == 0x410 || p == 0x510 || p == 0x610 || p == 0x710

/-- A passing move makes its word wait. -/
def Oasis.waits (o : Oasis) (f : FMv) : Bool :=
  (interlocked f.src.toNat && o.awaits (portUnit f.src.toNat)) ||
  (triggerPorts.contains f.dst.toNat && o.blocks (portUnit f.dst.toNat))

/-- A move: its checks, then its effect, given the value of its source (R331, R332). -/
def moved (f : FMv) (s : State) (effect : PortVal → State → State) : Out :=
  .next (
    let o := s.rd.oas
    if s.verdict = .done then s
    else
      match checkMove f with
      | some c => s.oasFault c (moveTval o.slot f)
      | none =>
        if !o.passes f then s
        else if o.waits f then s.stall
        else if f.src.toNat = 0x410 ∧ o.poisonR.isSome then s.oasFault 0x33 (o.poisonR.getD 0)
        else effect (o.source f) s)

/-- MV, R331: a write of a register, guard or operand register. -/
def execMv (f : FMv) (s : State) : Out :=
  moved f s fun v s => s.setOas fun o => o.write f.dst.toNat v

/-! ## IALU and VALU (R333 to R335) -/

/-- An exposed operation is on its way for L words. -/
def State.flies (s : State) (unit lat : Nat) (v : BitVec 512) (guard : Nat) : State :=
  s.setOas fun o => { o with flight := o.flight ++ [⟨unit, lat, v, guard⟩] }

/-- IALU A or B: R := g A T; a comparison also names the guard in C. -/
def ialu (f : FMv) (cmp : Bool) (g : Word → Word → Word) (s : State) : Out :=
  moved f s fun v s =>
    let unit := portUnit f.dst.toNat
    let o := s.cur.oas
    let r := g ((o.operand unit 0).setWidth 64) ((portConv v 64).setWidth 64)
    s.flies unit 1 (r.setWidth 512) (if cmp then ((o.operand unit 2).setWidth 3).toNat else 0)

def bool64 (b : Bool) : Word := if b then 1 else 0

/-- IALU_ADD, R334. -/
def execIaluAdd (f : FMv) (s : State) : Out := ialu f false (· + ·) s

/-- IALU_SUB, R334. -/
def execIaluSub (f : FMv) (s : State) : Out := ialu f false (· - ·) s

/-- IALU_MUL, R334. -/
def execIaluMul (f : FMv) (s : State) : Out := ialu f false (· * ·) s

/-- IALU_AND, R334. -/
def execIaluAnd (f : FMv) (s : State) : Out := ialu f false (· &&& ·) s

/-- IALU_OR, R334. -/
def execIaluOr (f : FMv) (s : State) : Out := ialu f false (· ||| ·) s

/-- IALU_XOR, R334. -/
def execIaluXor (f : FMv) (s : State) : Out := ialu f false (· ^^^ ·) s

/-- IALU_SHL, R334. -/
def execIaluShl (f : FMv) (s : State) : Out := ialu f false (fun a t => a <<< (t.toNat % 64)) s

/-- IALU_SHR, R334. -/
def execIaluShr (f : FMv) (s : State) : Out := ialu f false (fun a t => a >>> (t.toNat % 64)) s

/-- IALU_SAR, R334. -/
def execIaluSar (f : FMv) (s : State) : Out := ialu f false (fun a t => a.sshiftRight (t.toNat % 64)) s

/-- IALU_MINU, R334. -/
def execIaluMinu (f : FMv) (s : State) : Out := ialu f false (fun a t => if a.toNat ≤ t.toNat then a else t) s

/-- IALU_MAXU, R334. -/
def execIaluMaxu (f : FMv) (s : State) : Out := ialu f false (fun a t => if a.toNat ≤ t.toNat then t else a) s

/-- IALU_CEQ, R334. -/
def execIaluCeq (f : FMv) (s : State) : Out := ialu f true (fun a t => bool64 (a == t)) s

/-- IALU_CNE, R334. -/
def execIaluCne (f : FMv) (s : State) : Out := ialu f true (fun a t => bool64 (a != t)) s

/-- IALU_CLT, R334. -/
def execIaluClt (f : FMv) (s : State) : Out := ialu f true (fun a t => bool64 (decide (a.toInt < t.toInt))) s

/-- IALU_CLTU, R334. -/
def execIaluCltu (f : FMv) (s : State) : Out := ialu f true (fun a t => bool64 (decide (a.toNat < t.toNat))) s

/-- IALU_CLE, R334. -/
def execIaluCle (f : FMv) (s : State) : Out := ialu f true (fun a t => bool64 (decide (a.toInt ≤ t.toInt))) s

/-- VALU: R := g A B T. -/
def valu (f : FMv) (g : BitVec 512 → BitVec 512 → BitVec 512 → BitVec 512) (s : State) : Out :=
  moved f s fun v s =>
    let o := s.cur.oas
    s.flies 2 3 (g (o.operand 2 0) (o.operand 2 1) (portConv v 512)) 0

/-- 32-bit lane k of a 512-bit value; a value from its sixteen lanes. -/
def lane32 (x : BitVec 512) (k : Nat) : Nat := (x.extractLsb' (32 * k) 32).toNat
def fromLanes (g : Nat → Nat) : BitVec 512 := (elemsRow 32 ((List.range 16).map g)).setWidth 512

/-- FP32 lanes of A, B and T, rounded RNE once. -/
def fpLanes (g : Val → Val → Val → Val) (a b t : BitVec 512) : BitVec 512 :=
  fromLanes fun k => roundF 0 0 (g (decF 0 (lane32 a k)) (decF 0 (lane32 b k)) (decF 0 (lane32 t k)))

/-- VALU_FADD, R335. -/
def execValuFadd (f : FMv) (s : State) : Out := valu f (fpLanes fun a _ t => a.add 0 t) s

/-- VALU_FSUB, R335. -/
def execValuFsub (f : FMv) (s : State) : Out := valu f (fpLanes fun a _ t => a.sub 0 t) s

/-- VALU_FMUL, R335. -/
def execValuFmul (f : FMv) (s : State) : Out := valu f (fpLanes fun a _ t => a.mul t) s

/-- VALU_FMA, R335. -/
def execValuFma (f : FMv) (s : State) : Out := valu f (fpLanes fun a b t => (a.mul t).add 0 b) s

/-- VALU_FMAX, R335. -/
def execValuFmax (f : FMv) (s : State) : Out := valu f (fpLanes fun a _ t => a.max t) s

/-- VALU_FMIN, R335. -/
def execValuFmin (f : FMv) (s : State) : Out := valu f (fpLanes fun a _ t => a.min t) s

/-- VALU_IADD, R335. -/
def execValuIadd (f : FMv) (s : State) : Out :=
  valu f (fun a _ t => fromLanes fun k => (lane32 a k + lane32 t k) % 2 ^ 32) s

/-- VALU_BFWIDE, R335. -/
def execValuBfwide (f : FMv) (s : State) : Out :=
  valu f (fun _ _ t => fromLanes fun k => convert 1 0 0 false (t.extractLsb' (16 * k) 16).toNat) s

/-- VALU_BFNARROW, R335. -/
def execValuBfnarrow (f : FMv) (s : State) : Out :=
  valu f (fun _ _ t => (elemsRow 16 ((List.range 16).map fun k => convert 0 1 0 false (lane32 t k))).setWidth 512) s

/-- VALU_AND, R335. -/
def execValuAnd (f : FMv) (s : State) : Out := valu f (fun a _ t => a &&& t) s

/-- VALU_OR, R335. -/
def execValuOr (f : FMv) (s : State) : Out := valu f (fun a _ t => a ||| t) s

/-- VALU_XOR, R335. -/
def execValuXor (f : FMv) (s : State) : Out := valu f (fun a _ t => a ^^^ t) s

/-! ## Addresses in the own stack (R336, R338, R341, R342) -/

/-- The stack of the core (R15). -/
def Oasis.stack15 (o : Oasis) : Nat := o.num / 8

def inStack (k pa : Nat) : Bool := inHbm pa && stackOf pa == k

/-- The die of the core's stack. -/
def Oasis.die (o : Oasis) : Nat := dieOfStack o.stack15

/-- Translate for an Oasis access, through the L2 TLB of its stack's die; the place must lie in the own stack (R336, R400). -/
def Mach.oasPlace (m : Mach) (va : Nat) (acc : Access) : XRes × Option TlbUpd :=
  match m.translate m.oas.vmid va acc (.die m.oas.die) with
  | (.ok leaf pa, u) => if inStack m.oas.stack15 pa then (.ok leaf pa, u) else (.fault 0x38, u)
  | r => r

/-- An operation begins with its address checked: alignment, then its page and stack. -/
def State.oasAt (s : State) (va : Word) (align : Nat) (acc : Access) (k : State → Word → Nat → State) : State :=
  if va.toNat % align ≠ 0 then s.oasFault 0x30 va
  else
    match s.cur.oasPlace va.toNat acc with
    | (.ok leaf pa, u) => k (s.applyUpd u) leaf pa
    | (.fault c, u) => (s.applyUpd u).oasFault c va

def State.addOp (s : State) (p : OasOp) : State := s.setOas fun o => { o with ops := o.ops ++ [p] }

/-! ## LSU (R336) -/

def lsu (f : FMv) (op align : Nat) (acc : Access) (s : State) : Out :=
  moved f s fun v s =>
    let va := (portConv v 64).setWidth 64
    s.oasAt va align acc fun s leaf pa => s.addOp ⟨3, op, va, 0, pa, pa, leaf, s.cur.oas.operand 3 1⟩

/-- LSU_LDD, R336. -/
def execLsuLdd (f : FMv) (s : State) : Out := lsu f 0 8 .read s

/-- LSU_LDW, R336. -/
def execLsuLdw (f : FMv) (s : State) : Out := lsu f 1 4 .read s

/-- LSU_LDY, R336. -/
def execLsuLdy (f : FMv) (s : State) : Out := lsu f 2 64 .read s

/-- LSU_STD, R336. -/
def execLsuStd (f : FMv) (s : State) : Out := lsu f 3 8 .write s

/-- LSU_STW, R336. -/
def execLsuStw (f : FMv) (s : State) : Out := lsu f 4 4 .write s

/-- LSU_STY, R336. -/
def execLsuSty (f : FMv) (s : State) : Out := lsu f 5 64 .write s

/-- LSU_MDRD, R336. -/
def execLsuMdrd (f : FMv) (s : State) : Out := lsu f 6 65536 .read s

/-- LSU_MDWR, R336. -/
def execLsuMdwr (f : FMv) (s : State) : Out := lsu f 7 65536 .write s

/-! ## ROW (R337, R338) -/

/-- The slot named in B, or the fault of its upper bits. -/
def State.withSlot (s : State) (f : FMv) (k : State → Word → State) : State :=
  let b := (s.cur.oas.operand 4 1).setWidth 64
  if b.toNat ≤ 63 then k s b else s.oasFault 0x02 (moveTval s.rd.oas.slot f)

/-- Bits 23:10 and the subarray agree (R338). -/
def sameRow (a b : Nat) : Bool := bits a 23 10 == bits b 23 10 && a / 2 ^ 33 == b / 2 ^ 33

/-- ROW_CPY, R338. -/
def execRowCpy (f : FMv) (s : State) : Out :=
  moved f s fun v s =>
    let t := (portConv v 64).setWidth 64
    let a := (s.cur.oas.operand 4 0).setWidth 64
    s.oasAt t 1024 .read fun s leaf src =>
      s.oasAt a 1024 .write fun s _ dst =>
        if sameRow dst src then s.addOp ⟨4, 0, t, 0, dst, src, leaf, 0⟩ else s.oasFault 0x39 t

/-- ROW_ZERO, R338. -/
def execRowZero (f : FMv) (s : State) : Out :=
  moved f s fun v s =>
    let t := (portConv v 64).setWidth 64
    s.oasAt t 1024 .write fun s leaf dst => s.addOp ⟨4, 1, t, 0, dst, dst, leaf, 0⟩

/-- ROW_TOBUF, R338. -/
def execRowTobuf (f : FMv) (s : State) : Out :=
  moved f s fun v s =>
    let t := (portConv v 64).setWidth 64
    s.withSlot f fun s b =>
      s.oasAt t 1024 .read fun s leaf src => s.addOp ⟨4, 2, t, b, src, src, leaf, 0⟩

/-- ROW_FROMBUF, R338. -/
def execRowFrombuf (f : FMv) (s : State) : Out :=
  moved f s fun v s =>
    let t := (portConv v 64).setWidth 64
    s.withSlot f fun s b =>
      s.oasAt t 1024 .write fun s leaf dst => s.addOp ⟨4, 3, t, b, dst, dst, leaf, 0⟩

/-! ## CVS and SYNC (R341, R342) -/

/-- Check a range page by page; the first page that is missing or outside the own stack faults. -/
def State.oasRange (k : State → State) : Nat → Nat → Nat → State → State
  | 0, _, _, s => k s
  | fuel + 1, va, stop, s =>
    if stop ≤ va then k s
    else
      match s.cur.oasPlace va .range with
      | (.ok _ _, u) => State.oasRange k fuel ((va / 65536 + 1) * 65536) stop (s.applyUpd u)
      | (.fault c, u) => (s.applyUpd u).oasFault c (BitVec.ofNat 64 va)

/-- An operation on the range [A, A + T). -/
def ranged (f : FMv) (unit op : Nat) (s : State) : Out :=
  moved f s fun v s =>
    let t := (portConv v 64).setWidth 64
    let a := (s.cur.oas.operand unit 0).setWidth 64
    State.oasRange (fun s => s.addOp ⟨unit, op, a, t, 0, 0, 0, 0⟩) (t.toNat / 65536 + 2) a.toNat (a.toNat + t.toNat) s

/-- CVS_APPLY, R341. -/
def execCvsApply (f : FMv) (s : State) : Out := ranged f 5 0 s

/-- CVS_COUNT, R341. -/
def execCvsCount (f : FMv) (s : State) : Out := moved f s fun _ s => s.addOp ⟨5, 1, 0, 0, 0, 0, 0, 0⟩

/-- SYNC_INV, R342. -/
def execSyncInv (f : FMv) (s : State) : Out := ranged f 6 0 s

/-- SYNC_WBINV, R342. -/
def execSyncWbinv (f : FMv) (s : State) : Out := ranged f 6 1 s

/-- SYNC_FENCE, R342. -/
def execSyncFence (f : FMv) (s : State) : Out := moved f s fun _ s => s.addOp ⟨6, 2, 0, 0, 0, 0, 0, 0⟩

/-- SYNC_SIGNAL, R342. -/
def execSyncSignal (f : FMv) (s : State) : Out :=
  moved f s fun v s =>
    let t := (portConv v 64).setWidth 64
    let a := (s.cur.oas.operand 6 0).setWidth 64
    s.oasAt a 8 .write fun s leaf pa => s.addOp ⟨6, 3, a, 0, pa, pa, leaf, t.setWidth 512⟩

/-! ## PC (R343) -/

/-- The next word. -/
def State.oasGo (s : State) (target : Word) : State := s.setOas fun o => { o with jump := some target }

/-- PC_JUMP, R343. -/
def execPcJump (f : FMv) (s : State) : Out :=
  moved f s fun v s => s.oasGo (s.rd.oas.pc + (portConv v 64).setWidth 64)

/-- PC_CALL, R343. -/
def execPcCall (f : FMv) (s : State) : Out :=
  moved f s fun v s =>
    let o := s.rd.oas
    if 8 ≤ o.stack.length then s.used.oasFault 0x0A (Config.freeWord s.freeIdx)
    else (s.oasGo (o.pc + (portConv v 64).setWidth 64)).setOas fun k => { k with stack := (o.pc + 16) :: o.stack }

/-- PC_RET, R343. -/
def execPcRet (f : FMv) (s : State) : Out :=
  moved f s fun _ s =>
    match s.rd.oas.stack with
    | t :: r => (s.oasGo t).setOas fun k => { k with stack := r }
    | [] => s.setOas fun k => { k with status := .ending }

/-- PC_HALT, R343. -/
def execPcHalt (f : FMv) (s : State) : Out := moved f s fun _ s => s.setOas fun k => { k with status := .ending }

/-- PC_YIELD, R343, R346. -/
def execPcYield (f : FMv) (s : State) : Out := moved f s fun _ s => s.setOas fun k => { k with yielded := k.preempt }

/-! ## Results and completions -/

/-- OASIS_RESULT_LAND, R333: a result whose words have passed reaches R and the guard it names, but for a guard that a
move of the last word wrote. -/
def execOasisResultLand (unit : Nat) (s : State) : Out :=
  .next (s.setOas fun o =>
    match o.flight.find? fun r => r.unit == unit && r.left == 0 with
    | some r =>
      let bit : BitVec 8 := BitVec.ofNat 8 (2 ^ r.guard)
      let gd := if r.guard = 0 ∨ o.wrote.getLsbD r.guard then o.gd
        else if r.val.getLsbD 0 then o.gd ||| bit else o.gd &&& ~~~bit
      { o with flight := o.flight.erase r, res := spSet 0 o.res unit r.val, gd := gd }
    | none => o)

/-- Write a unit's result port; a new load's R is no longer the poisoned one. -/
def State.setR (s : State) (unit : Nat) (v : BitVec 512) : State :=
  s.setOas fun o => { o with res := spSet 0 o.res unit v, poisonR := if unit = 3 then none else o.poisonR }

/-- The stamp of a release of the Oasis core: what its die knows (R300). -/
def Mach.oasStamp (m : Mach) : List Nat := (List.range 9).map (m.mem.vcOf m.oas.die)

/-- A store of the Oasis core at its home, a release at SYS where that is asked for: then every write that its die has sent
toward another's home is acknowledged first (R235, R295, R300). -/
def oasStore (m : Mach) (leaf : Word) (pa : Nat) (b : List Byte) (release : Bool) : Mach :=
  let m := if release && m.oas.die == m.core.die then ackDie (flushTransit m m.core.remote) else m
  let stamp := maxClocks (spGet [] m.mem.relClk (pa / 128)) m.oasStamp
  let mem := m.mem.storeAs (reqOf m.oas.vmid leaf) (effComp (leafComp leaf) (pa / 128)) pa b
  let mem := mem.raiseVc m.oas.die (homeDie pa) (mem.hcOf (homeDie pa))
  m.wrote (if release then { mem with relClk := spSet [] mem.relClk (pa / 128) stamp } else mem) pa b.length

/-- A load of the LSU, at the home, which may fill there (R215, R235). -/
def oasLoad (p : OasOp) (n : Nat) (s : State) : State :=
  let (mem, b, poi) := s.cur.mem.load (effComp (leafComp p.leaf) (p.pa / 128)) p.pa n
  let s := s.setMem fun _ => addFills mem (mem.homeWants s.cur.oas.vmid p.leaf (p.pa / 128))
  if poi then
    (s.used.setR 3 (BitVec.ofNat 512 (Config.freeNat s.freeIdx % 256 ^ n))).setOas fun o => { o with poisonR := some p.va }
  else s.setR 3 (BitVec.ofNat 512 (bytesNat b))

/-- An LSU operation performed. -/
def lsuDone (p : OasOp) (s : State) : State :=
  let put (n : Nat) : State := s.setCur fun m => oasStore m p.leaf p.pa (natBytes p.data.toNat n) m.oas.relFence
  match p.op with
  | 0 => oasLoad p 8 s
  | 1 => oasLoad p 4 s
  | 2 => oasLoad p 64 s
  | 3 => put 8
  | 4 => put 4
  | 5 => put 64
  | 6 => s.setR 3 (BitVec.ofNat 512 (bytesNat ((List.range 16).map fun b => s.cur.mem.metaOf (p.pa / 4096 + b))))
  | _ => s.setMem fun m => ((natBytes p.data.toNat 16).zipIdx).foldl (fun m x => m.setMeta (p.pa / 4096 + x.2) x.1) m

/-- Before a row operation: the row's bins applied, its memory-side sectors written back and invalidated (R339). -/
def clearRow (m : Mem) (pa : Nat) : Mem :=
  let keys := ((List.range 8).map fun k => [2 * (pa / 128 + k), 2 * (pa / 128 + k) + 1]).flatten
  keys.foldl evictMsc (m.touch pa 1024)

/-- Sectors of a row as they lie in the DRAM, with their poison. -/
def rowSecs (m : Mem) (pa : Nat) : List (Row × Bool) := (List.range 8).map fun k => m.dramRead false (pa / 128 + k)

def putRow (m : Mem) (pa : Nat) (l : List (Row × Bool)) : Mem :=
  ((List.range 8).zip l).foldl (fun m x => m.dramWrite false (pa / 128 + x.1) x.2.1 x.2.2) m

/-- A row operation on memory: the rows are cleared first, and the row written takes what `l` is then (R338, R339). -/
def rowWrite (m : Mach) (p : OasOp) (l : Mem → List (Row × Bool)) : Mach :=
  let mem := clearRow (if p.op = 0 then clearRow m.mem p.pb else m.mem) p.pa
  m.wrote (putRow mem p.pa (l mem)) p.pa 1024

/-- A row operation performed (R338, R339); R := 1,024. -/
def rowDone (p : OasOp) (s : State) : State :=
  let slot := p.len.toNat
  let s := match p.op with
    | 0 => s.setCur fun m => rowWrite m p fun mem => rowSecs mem p.pb
    | 1 => s.setCur fun m => rowWrite m p fun _ => List.replicate 8 (0, false)
    | 2 =>
      let s := s.setMem fun m => clearRow m p.pa
      s.setOas fun o =>
        let l := rowSecs s.cur.mem p.pb
        { o with
          bufs := spSets 0 o.bufs (slot * 8) (l.map Prod.fst)
          bufPoison := spSets false o.bufPoison (slot * 8) (l.map Prod.snd) }
    | _ =>
      let o := s.cur.oas
      s.setCur fun m => rowWrite m p fun _ => (spGets 0 o.bufs (slot * 8) 8).zip (spGets false o.bufPoison (slot * 8) 8)
  s.setR 4 1024

/-- Physical runs of a virtual range, page by page; `at_` gives the place of an address. -/
def rangeRuns (at_ : Nat → Option Nat) : Nat → Nat → Nat → List (Nat × Nat)
  | 0, _, _ => []
  | fuel + 1, va, stop =>
    if stop ≤ va then []
    else
      let next := min stop ((va / 65536 + 1) * 65536)
      match at_ va with
      | some pa => (pa, next - va) :: rangeRuns at_ fuel next stop
      | none => rangeRuns at_ fuel next stop

/-- The runs of an operation's range, through the mappings in force. -/
def Mach.opRuns (m : Mach) (p : OasOp) : List (Nat × Nat) :=
  rangeRuns (fun va => match (m.oasPlace va .range).1 with
    | .ok _ pa => some pa
    | .fault _ => none) (p.len.toNat / 65536 + 2) p.va.toNat (p.va.toNat + p.len.toNat)

/-- A line of 512 bytes meets one of the runs. -/
def lineMeets (runs : List (Nat × Nat)) (line : Nat) : Bool :=
  runs.any fun r => decide (r.1 / 512 ≤ line) && decide (line ≤ (r.1 + r.2 - 1) / 512)

/-- A CVS operation performed (R341). -/
def cvsDone (p : OasOp) (s : State) : State :=
  let o := s.cur.oas
  let mine (b : Bin) : Bool := b.vmid == o.vmid && inStack o.stack15 (b.line * 512)
  if p.op = 0 then
    let runs := s.cur.opRuns p
    let hit (b : Bin) : Bool := mine b && lineMeets runs b.line
    (s.setMem fun m => (m.applyBins hit).1).setR 5 (BitVec.ofNat 512 (s.cur.mem.bins.filter hit).length)
  else s.setR 5 (BitVec.ofNat 512 (s.cur.mem.bins.filter mine).length)

/-- Sectors of the runs' lines leave L1, the die L2 and the RDC; `wb` writes dirty ones back first (R342). -/
def invRuns (wb : Bool) (runs : List (Nat × Nat)) (m : Mem) : Mem :=
  let hit (key : Nat) : Bool := lineMeets runs (key / 8)
  let m := if wb then ((m.l2.map (·.1)).filter hit).foldl flushSec m else m
  { m with
    l1 := m.l1.filter fun e => !hit e.1
    l2 := m.l2.filter fun e => !hit e.1
    rdc := m.rdc.filter fun e => !hit e.1 }

/-- An acquire of a die at SYS: its clock takes every home's count (R300). -/
def acquireAll (die : Nat) (m : Mem) : Mem := (List.range 9).foldl (fun m h => m.raiseVc die h (m.hcOf h)) m

/-- A SYNC operation performed (R295, R300, R342). -/
def syncDone (p : OasOp) (s : State) : State :=
  let d := s.cur.oas.die
  let s := match p.op with
    | 0 => let runs := s.cur.opRuns p; s.setMem (invRuns false runs)
    | 1 => let runs := s.cur.opRuns p; s.setMem (invRuns true runs)
    | 2 => (s.setMem (acquireAll d)).setOas fun o => { o with relFence := true }
    | _ => s.setCur fun m => oasStore m p.leaf p.pa (natBytes p.data.toNat 8) true
  s.setR 6 0

/-- The operation of a unit that may be performed next: the unit's oldest; a SYNC behind every other, nothing behind a
SYNC, and apply behind earlier LSU operations (R342, R344). -/
def Oasis.ready (o : Oasis) (unit : Nat) : Option OasOp :=
  let before := o.ops.takeWhile (·.unit != unit)
  match o.ops.find? (·.unit == unit) with
  | none => none
  | some p =>
    if before.any (·.unit == 6) || (unit == 6 && !before.isEmpty) || (unit == 5 && p.op == 0 && before.any (·.unit == 3)) then none
    else some p

/-- OASIS_OP_COMPLETE, R333, R339, R344: an operation is performed and complete in one step. -/
def execOasisOpComplete (unit : Nat) (s : State) : Out :=
  .next (match s.cur.oas.ready unit with
    | some p =>
      let s := s.setOas fun o => { o with ops := o.ops.erase p, postponed := if unit = 4 then 0 else o.postponed }
      if unit = 3 then lsuDone p s
      else if unit = 4 then rowDone p s
      else if unit = 5 then cvsDone p s
      else syncDone p s
    | none => s)

/-- DRAM_REFRESH_DUE, R340: postponed while a row operation is under way, for up to four intervals. -/
def execDramRefreshDue (bank : Nat) (s : State) : Out :=
  .next (s.setOas fun o =>
    if o.ops.any fun p => p.unit == 4 && (bits p.pa 23 20 == bank || bits p.pb 23 20 == bank) then
      { o with postponed := if o.postponed < 4 then o.postponed + 1 else 0 }
    else o)

end Sys2Proof.Machine
end

