-- ==== Sys2Proof/Machine/Queue.lean ====
section
/-! DEFINITION. The dispatcher's front: doorbells, acceptance and its checks, dependences, control packets, readiness, and
the completion of launches (R27, R28, R38 to R42, R378 to R387, R406). -/

namespace Sys2Proof.Machine

/-! ## Rings (R378, R379) -/

/-- A fabric endpoint is admitted for a device (R409). -/
def Mach.admitted (m : Mach) (vmid campus pkg : Nat) : Bool :=
  Config.admits (m.mem.load false (Config.admitTable + 128 * vmid) 128).2.1 campus pkg

/-- A device that accepts packets (R404). -/
def Mach.enabledDev (m : Mach) (vmid : Nat) : Bool := decide (vmid < 96) && m.vflags vmid % 2 == 1

/-- The header of a queue's ring: its virtual address and bytes. -/
def Mach.ring (m : Mach) (vmid queue : Nat) : Mach × Option (Nat × List Byte) :=
  match m.ringAt vmid (queue % 64) (decide (64 ≤ queue)) with
  | (m, none) => (m, none)
  | (m, some hdr) =>
    match m.vread vmid hdr 64 with
    | (m, some b) => (m, some (hdr, b))
    | (m, none) => (m, none)

/-- DOORBELL, R378 to R380, R405, R406: the packets of a host queue up to its TAIL arrive. A doorbell of a queue that is absent,
not enabled, or stopped by an error, is ignored. -/
def execDoorbell (from_ : CtlSource) (vmid queue : Nat) (_value : Word) (s : State) : Out :=
  .next (s.setCur fun m =>
    let ok := match from_ with
      | .endpoint campus pkg => m.admitted vmid campus pkg
      | .context => true
    if ok && decide (queue < 64) && m.enabledDev vmid then
      match m.ring vmid queue with
      | (m, some (hdr, h)) =>
        let b : Bell := ⟨vmid, queue, hdr, m.ftime, 0, field h 0 8⟩
        if field h 17 1 % 2 = 1 ∧ field h 18 1 = 0 ∧ ahead (field h 8 8) b.value ≠ 0 then { m with disp := m.disp.arrive b (field h 8 8) } else m
      | (m, none) => m
    else m)

/-- The ring that an arrival belongs to can be served, and holds what it announced; a ring that holds more than it has slots is
served to find that (R378, R404; log 46). -/
def Mach.serves (m : Mach) (b : Bell) : Bool :=
  m.enabledDev b.vmid &&
    match (m.vread b.vmid b.ring 64).2 with
    | some h =>
      let head := field h 8 8
      field h 17 1 % 2 == 1 && field h 18 1 == 0 && ahead head b.value != 0 && decide (ahead head b.value ≤ ahead head (field h 0 8))
    | none => false

/-- Order of arrival (R380): FTIME, host queues first, then VMID and queue number. -/
def Bell.before (a b : Bell) : Bool :=
  if a.time ≠ b.time then decide (a.time.toNat < b.time.toNat)
  else if a.queue / 64 ≠ b.queue / 64 then decide (a.queue < b.queue)
  else if a.vmid ≠ b.vmid then decide (a.vmid < b.vmid)
  else decide (a.queue < b.queue)

def firstBell : List Bell → Option Bell
  | [] => none
  | b :: t => match firstBell t with
    | some c => if c.before b then some c else some b
    | none => some b

def Mach.nextBell (m : Mach) : Option Bell := firstBell (m.disp.bells.filter m.serves)

/-! ## Launches -/

/-- The launch has its token (R387). -/
def Launch.done (l : Launch) : Bool :=
  match l.state with
  | .complete | .rejected | .cancelled | .killed => true
  | _ => false

/-- A kernel for a control packet, which names none. -/
def Kernel.blank : Kernel := ⟨0, 0, 0, 0, 0, [], [], 0, 0, 0, 0, 0, 0, [], 0, [], 0, false, false⟩

/-- Where a word at a virtual address lies, for a write through a mapping that the dispatcher takes now, on die 4 (R13, R400). -/
def Mach.wordAt (m : Mach) (vmid va : Nat) : Mach × Option (Nat × Bool) :=
  match m.translate vmid va .token (.die 4) with
  | (.ok leaf pa, u) => (m.applyUpd u, some (pa, effComp (leafComp leaf) (pa / 128)))
  | (.fault _, _) => (m, none)

/-- Write a completion token: a release at SYS of every write of the launch (R28, R42). -/
def writeToken (m : Mach) (l : Launch) (status info : Nat) : Mach :=
  let mem := m.mem.store l.tokenAt.2 l.tokenAt.1 (natBytes (status * 2 ^ 56 + info % 2 ^ 56) 8)
  { m with mem := { mem with relClk := spSet [] mem.relClk (l.tokenAt.1 / 128) ((List.range 9).map mem.hcOf) } }

/-! ## Handles (R384, R385) -/

def handleField (m : Mem) (h off n : Nat) : Nat := m.num (Config.handleTable + 64 * h + off) n
def handleReaders (m : Mem) (h : Nat) : List Nat := (List.range (min 8 (handleField m h 18 1))).map fun k => handleField m h (24 + 4 * k) 4

/-- Handles that a packet names: read set, write set. -/
def Launch.readSet (l : Launch) : List Nat := (List.range l.kernel.nbufr).map l.handle
def Launch.writeSet (l : Launch) : List Nat := (List.range l.kernel.nbufw).map fun k => l.handle (l.kernel.nbufr + k)

/-- A handle's record as acceptance leaves it. -/
def putHandle (m : Mem) (h lastw : Nat) (readers : List Nat) (any : Bool) : Mem :=
  let at_ := Config.handleTable + 64 * h
  let kept := readers.take 8
  let flags := handleField m h 17 1 % 2 + (if any then 2 else 0)
  let m := m.store false (at_ + 17) [BitVec.ofNat 8 flags, BitVec.ofNat 8 kept.length]
  m.store false (at_ + 20) (natBytes lastw 4 ++ ((kept ++ List.replicate 8 0).take 8).flatMap fun r => natBytes r 4)

/-- One named handle: its dependences and its new record (R385). -/
def takeHandle (l : Launch) (m : Mach × List Nat) (h : Nat) : Mach × List Nat :=
  let mem := m.1.mem
  let lastw := handleField mem h 20 4
  let readers := handleReaders mem h
  let any := handleField mem h 17 1 / 2 % 2 == 1
  if l.writeSet.contains h then
    let all := if any then (m.1.disp.launches.filter fun x => x.vmid == l.vmid && !x.done).map (·.id) else []
    let kin := ((lastw :: readers).filter l.ancestors.contains).eraseDups
    ({ m.1 with mem := putHandle mem h l.id kin (decide (8 < kin.length)) }, m.2 ++ lastw :: readers ++ all)
  else
    let full := decide (8 ≤ readers.length)
    ({ m.1 with mem := putHandle mem h lastw (if full then readers else readers ++ [l.id]) (any || full) }, m.2 ++ [lastw])

/-- The cache operations that stand between a handle's last writer and this launch (R386): 1 write back, 2 invalidate, 3
both. -/
def flushOf (m : Mach) (l : Launch) (idx h : Nat) : List (Nat × Nat × Nat) :=
  let base := handleField m.mem h 0 8
  let len := handleField m.mem h 8 8
  let w := m.disp.launch? (handleField m.mem h 20 4)
  let by_ (level : Nat) : Bool := match w with
    | some x => x.level == level
    | none => false
  let inv := if by_ 1 then [2] else []
  let both := if l.level = 1 then [3] else []
  ((if l.level = 0 ∧ by_ 0 then [1] else []) ++ (if Config.freeBit idx then inv ++ both else both ++ inv)).map fun k =>
    (base, len, k)

/-! ## Acceptance (R27, R381, R382) -/

def popCount (x : Nat) : Nat := ((List.range 64).filter fun k => x / 2 ^ k % 2 == 1).length

/-- CGROUP is 0, or a registered group of the device that no ancestor names (R351). -/
def groupOk (m : Mach) (l : Launch) : Bool :=
  let g := l.cgroup
  g == 0 ||
    ((List.range 256).any (fun k =>
        m.mem.groupEntry k == some (g, l.vmid)) &&
      l.ancestors.all (fun a => match m.disp.launch? a with
        | some x => x.cgroup != g
        | none => true) &&
      decide (l.instances ≤ 65536))

/-- Every named handle is valid and owned by the device; unused handle slots are 0. -/
def handlesOk (m : Mach) (l : Launch) : Bool :=
  let n := l.kernel.nbufr + l.kernel.nbufw
  (List.range 16).all fun k =>
    let h := l.handle k
    if k < n then h != 0 && handleField m.mem h 17 1 % 2 == 1 && handleField m.mem h 16 1 == l.vmid else h == 0

/-- Check 2 of R382 fails. -/
def misshapen (m : Mach) (l : Launch) (known killOk : Bool) : Bool :=
  let c := l.ctl
  decide (256 ≤ c) || l.num 62 2 != 0 || bytesNat (l.packet.drop 96) != 0 || l.level == 3 || decide (4 < bits c 7 5) ||
  (l.level != 2 && (l.num 8 8 % 64 != 0 || !known)) || l.args % 8 != 0 || l.killb % 128 != 0 || !killOk ||
  (l.level == 0 && (!splitOk l.split ||
    (List.range 6).any (fun n => l.trip n != 0 && !(l.kernel.spatial 1 ++ l.kernel.spatial 2).contains n))) ||
  !handlesOk m l || !groupOk m l

/-- Check 4 of R382 fails. -/
def oasisUnfit (m : Mach) (l : Launch) : Bool :=
  let st := l.stacks
  l.level == 1 && (!l.kernel.oasis || bits l.ctl 7 5 != 0 || l.gang || (List.range 5).any (fun n => l.trip (n + 1) != 0) ||
    st == 0 || decide (8 * popCount st < l.trip 0) || (st &&& (65535 - m.mem.vdev l.vmid 40 2)) != 0)

/-- The first check that fails, with its status. -/
def rejection (m : Mach) (l : Launch) (known killOk : Bool) : Option Nat :=
  let main := l.level == 0
  firstCause [
    (misshapen m l known killOk, 0x10),
    (l.level == 2 && !l.sysq, 0x10),
    (oasisUnfit m l, 0x10),
    (main && (l.perTuple % l.gsize != 0 || (l.gang && !(l.kernel.spatial 2).isEmpty && decide (16 < l.perTuple))), 0x10),
    (main && l.gang && decide (4 * popCount (m.mem.vdev l.vmid 32 8) < l.instances), 0x11),
    (decide (8 < l.ancestors.length), 0x12),
    (l.level != 2 && (l.kernel.feat &&& ~~~m.info.accept) != 0, 0x13)]

/-- A launch takes its id, of 32 bits; no launch has id 0, and a complete one gives its id up (R380, R385; log 46). -/
def Disp.add (d : Disp) (l : Launch) : Disp :=
  { d with
    launches := (d.launches.filter fun x => !(x.id == l.id && x.done)) ++ [l]
    nextId := max 1 ((d.nextId + 1) % 2 ^ 32) }

/-- The launch of a packet, before its checks. A control packet names no kernel (R381, R383). -/
def Mach.launchFor (m : Mach) (b : Bell) (sysq : Bool) (packet : List Byte) (tokenAt killAt : Nat × Bool) : Launch × Bool :=
  let kdesc := field packet 8 8
  let k := if field packet 0 4 % 4 = 2 then none else m.kernels.find? fun k => k.vmid == b.vmid && k.kdesc.toNat == kdesc
  let kin := match m.disp.launch? b.parent with
    | some p => p.id :: p.ancestors
    | none => []
  (⟨m.disp.nextId, b.vmid, sysq, packet, k.getD .blank, kin, .accepted, [], [], [], [], 0, false, 0, 0, false, tokenAt,
    killAt, none⟩, k.isSome)

/-- Accept a launch: its dependences, and the records of its handles (R351, R385). -/
def acceptLaunch (s : State) (l : Launch) : State :=
  let named := (l.readSet ++ l.writeSet).eraseDups
  let m := s.cur
  let flushes := named.flatMap (flushOf m l s.freeIdx)
  let same := if l.cgroup = 0 then [] else (m.disp.launches.filter fun x => x.cgroup == l.cgroup && !x.done).map (·.id)
  let (m, deps) := named.foldl (takeHandle l) (m, same)
  let open_ (d : Nat) : Bool := !l.ancestors.contains d && match m.disp.launch? d with
    | some x => !x.done
    | none => false
  let l := { l with deps := (deps.eraseDups).filter open_, flushes := flushes, unplaced := List.range l.groups }
  { s.used with cur := { m with disp := m.disp.add l } }

/-- The queue stops with an error, and what it announced is served no more (R378). -/
def stopQueue (m : Mach) (b : Bell) (err seq : Nat) : Mach :=
  let m := (m.vwrite b.vmid (b.ring + 18) [BitVec.ofNat 8 err] .read).1
  let m := (m.vwrite b.vmid (b.ring + 24) (natBytes seq 8) .read).1
  { m with disp := { m.disp with bells := m.disp.bells.filter fun x => !(x.vmid == b.vmid && x.queue == b.queue) } }

/-- The packet after a ring's HEAD, taken from its ring (R379, R382). The ring whose header is `h` holds too much from the
packet after its last slot's on (log 46). System queues are device 0's (R403). -/
def takePacket (s : State) (b : Bell) (h : List Byte) : State :=
  let m := s.cur
  let head := field h 8 8
  let log2n := field h 16 1
  if 2 ^ log2n < ahead head (field h 0 8) then { s with cur := stopQueue m b 2 ((head + 2 ^ log2n) % 2 ^ 64) }
  else
    let (m, packet) := m.vread b.vmid (slotAt b.ring log2n head) 128
    let packet := packet.getD []
    let token := field packet 24 8
    let (m, tokenAt) := if token % 8 = 0 then m.wordAt b.vmid token else (m, none)
    match tokenAt with
    | none => { s with cur := stopQueue m b 1 head }
    | some tokenAt =>
      let (m, killAt) := m.wordAt b.vmid (field packet 32 8)
      let m := (m.vwrite b.vmid (b.ring + 8) (natBytes (head + 1) 8) .read).1
      let gone (x : Bell) : Bool := x.vmid == b.vmid && x.queue == b.queue && ahead head x.value == 1
      let m := { m with disp := { m.disp with bells := m.disp.bells.filter fun x => !gone x } }
      let (l, known) := m.launchFor b (b.vmid == 0 && field h 17 1 / 2 % 2 == 1) packet tokenAt (killAt.getD (0, false))
      match rejection m l known killAt.isSome with
      | some st =>
        let m := writeToken m l st 0
        { s with cur := { m with disp := m.disp.add { l with state := .rejected } } }
      | none => acceptLaunch { s with cur := m } l

/-- An instance of the launch is placed on another main core. -/
def Disp.elsewhere (d : Disp) (launch core : Nat) : Bool :=
  d.placed.any fun p => p.launch == launch && !p.oasis && (List.range p.size).any fun k => p.base + k != core && !p.retired.contains (p.base + k)

/-- A message that the followed context is not to take is for an instance placed on another core. -/
def Mach.heldElsewhere (m : Mach) (g : Message) : Bool :=
  m.disp.launches.any fun l => l.cgroup == g.gid && l.level == 0 && m.disp.placed.any fun p =>
    let core := p.base + g.dstEp % l.gsize
    p.launch == l.id && !p.oasis && p.group == g.dstEp / l.gsize && core != m.core.num && !p.halted.contains core && !p.retired.contains core

/-- A held message that another core's CRECV takes leaves the receive store (R358). -/
def takeHeld (m : Mach) (k : Nat) : Mach :=
  match m.coll.store[k]? with
  | some g => if m.heldElsewhere g then { m with coll := { m.coll with store := m.coll.store.eraseIdx k } } else m
  | none => m

/-- Another core's QPUSH appends a packet, where the queue has room, and its launch may issue (R26, R161; log 6). -/
def extPush (m : Mach) (vmid queue : Nat) (x : ExtPush) : Mach :=
  match m.disp.launch? x.launch with
  | some l =>
    if l.vmid = vmid ∧ !l.held ∧ m.disp.elsewhere x.launch m.core.num ∧ queue < 64 ∧ x.packet.length = 128 then
      match m.ring vmid (64 + queue) with
      | (m, some (hdr, h)) => if ringFull h then m else appendPacket m vmid x.launch hdr queue h x.packet
      | (m, none) => m
    else m
  | none => m

/-- LAUNCH_ACCEPT, R380, R382, R385: the packet that arrived first, where it stands in this queue; before it, one that another
core's QPUSH appends there may arrive. -/
def execLaunchAccept (vmid : Nat) (ring : RingRef) (queue : Nat) (s : State) : Out :=
  let s := match ring with
    | .pushed x => s.setCur fun m => extPush m vmid queue x
    | _ => s
  .next (match s.cur.nextBell with
    | some b =>
      if b.vmid = vmid ∧ b.queue = queue + (if ring = .host then 0 else 64) then
        match s.cur.vread b.vmid b.ring 64 with
        | (m, some h) => takePacket { s with cur := m } b h
        | (_, none) => s
      else s
    | none => s)

/-! ## Readiness (R385, R386), control packets (R383) -/

/-- Physical runs of a device's virtual range, page by page, through the mappings that the dispatcher takes now (R386, R398). -/
def runsOf (vmid : Nat) : Nat → Nat → Nat → Mach → Mach × List (Nat × Nat)
  | 0, _, _, m => (m, [])
  | fuel + 1, va, stop, m =>
    if stop ≤ va then (m, [])
    else
      let next := min stop ((va / 65536 + 1) * 65536)
      let (x, u) := m.translate vmid va .range (.die 4)
      let (m, t) := runsOf vmid fuel next stop (m.applyUpd u)
      match x with
      | .ok _ pa => (m, (pa, next - va) :: t)
      | .fault _ => (m, t)

/-- One cache operation of R386. -/
def cacheOp (vmid : Nat) (m : Mach) (f : Nat × Nat × Nat) : Mach :=
  let (m, runs) := runsOf vmid (f.2.1 / 65536 + 2) f.1 (f.1 + f.2.1) m
  let hit (key : Nat) : Bool := lineMeets runs (key / 8)
  { m with mem :=
    if f.2.2 = 1 then ((m.mem.l2.map Prod.fst).filter hit).foldl flushSec m.mem
    else invRuns (f.2.2 == 3) runs m.mem }

/-- LAUNCH_READY, R385, R386: what the launch depends on has completed; the cache operations are inserted. A launch with no
instances only waits for its token (R23). -/
def execLaunchReady (launch : Nat) (s : State) : Out :=
  .next (s.setCur fun m =>
    match m.disp.launch? launch with
    | some l =>
      let met (d : Nat) : Bool := match m.disp.launch? d with
        | some x => x.done
        | none => true
      if l.state = .accepted ∧ l.deps.all met then
        let m := l.flushes.foldl (cacheOp l.vmid) m
        let st : LaunchState := if l.level ≠ 2 ∧ l.unplaced.isEmpty then .draining else .ready
        { m with disp := m.disp.setLaunch launch fun l => { l with state := st, readyAt := m.ftime } }
      else m
    | none => m)

/-- CONTROL_KILL, R383: a control packet kills the incomplete launch of its device whose TOKEN it names; its own token then
says whether there was one. -/
def execControlKill (launch : Nat) (s : State) : Out :=
  .next (match s.cur.disp.launch? launch with
    | some l =>
      if l.level = 2 ∧ l.state = .ready then
        let m := s.cur
        let target := m.disp.launches.find? fun x =>
          x.vmid == l.vmid && x.token == l.num 8 8 && !x.done && x.id != launch
        let m := match target with
          | some t =>
            killLaunch m t.id none (killRecord 0xFFFF (Config.freeNat s.freeIdx) 3 [(0, 0, 0), (0, 0, 0), (0, 0, 0)] m.cycle.toNat
              (Config.freeNat (s.freeIdx + 1)) (Config.freeNat (s.freeIdx + 2)) (Config.freeNat (s.freeIdx + 3)))
          | none => m
        let m := writeToken m l 0 (if target.isSome then 1 else 0)
        { s with
          cur := { m with disp := m.disp.setLaunch launch fun l => { l with state := .complete } }
          freeIdx := s.freeIdx + 4 }
      else s
    | none => s)

/-! ## Completion (R28, R40 to R42) -/

/-- Every launch below this one has completed, and no packet of one waits to be accepted (R40). -/
def Disp.childless (d : Disp) (id : Nat) : Bool :=
  let under (parent : Nat) : Bool := parent == id || match d.launch? parent with
    | some x => x.ancestors.contains id
    | none => false
  (d.launches.all fun x => !x.ancestors.contains id || x.done) && d.bells.all fun b => !under b.parent

/-- A group of the launch is placed or saved, or has been. -/
def Disp.begun (d : Disp) (l : Launch) : Bool :=
  decide (l.unplaced.length < l.groups) || d.placed.any (fun p => p.launch == l.id) || d.saved.any fun v => v.launch == l.id

/-- An ancestor of a launch none of whose groups is placed has been killed (R40). -/
def Disp.doomed (d : Disp) (l : Launch) : Bool :=
  !d.begun l && l.ancestors.any fun a => match d.launch? a with
    | some x => x.killed
    | none => false

/-- Nothing of the launch runs any more on the followed cores (R372). -/
def Mach.quiet (m : Mach) (id : Nat) : Bool :=
  (m.core.launch != id || (m.core.status == .idle && m.core.eng.isEmpty && !m.core.busy)) &&
  (m.oas.launch != id || (m.oas.status == .idle && m.oas.ops.isEmpty))

/-- The status of a launch that may complete now: CANCELLED, KILLED, ENGINE_FAULT, SUCCESS. -/
def Mach.completion (m : Mach) (l : Launch) : Option (Nat × LaunchState) :=
  let d := m.disp
  if l.done ∨ l.level = 2 then none
  else if d.doomed l then some (0x03, .cancelled)
  else if !d.childless l.id ∨ !m.quiet l.id ∨ d.placed.any (fun p => p.launch == l.id) then none
  else if l.killed then some (0x02, .killed)
  else if l.state = .draining then some (if l.engFault then 0x01 else 0x00, .complete)
  else none

/-- LAUNCH_COMPLETE, R28, R42: the token is written. A killed launch's saved groups and regions go. -/
def execLaunchComplete (launch : Nat) (s : State) : Out :=
  .next (s.setCur fun m =>
    match m.disp.launch? launch with
    | some l =>
      match m.completion l with
      | some (status, st) =>
        let m := if m.core.launch = launch ∧ m.core.status = .idle then releaseAll m else m
        let m := releaseHeld m fun h => h.1 == launch
        let m := writeToken m l status l.retired
        { m with disp := { (m.disp.setLaunch launch fun l => { l with state := st, unplaced := [] }) with
            saved := m.disp.saved.filter fun v => v.launch != launch } }
      | none => m
    | none => m)

end Sys2Proof.Machine
end

