-- ==== Sys2Proof/Machine/Placing.lean ====
section
/-! DEFINITION. Placement, service policy, pre-emption and retirement (R25, R26, R35 to R41, R346, R372, R388 to R393,
R407). Cores other than the followed ones appear only as members of placed groups (log 6). -/

namespace Sys2Proof.Machine

/-! ## Facts about launches and groups -/

/-- Effective class: 0 REALTIME to 3 BULK (R389). -/
def Launch.cls (l : Launch) : Nat := if l.prio = 0 then 0 else max 1 (l.prio - l.aged)

/-- Deficit of a device. -/
def Disp.deficitOf (d : Disp) (vmid : Nat) : Int := spGet 0 d.deficit vmid

def Placed.covers (p : Placed) (core : Nat) : Bool := decide (p.base ≤ core) && decide (core < p.base + p.size)

/-- The placed group that a core belongs to. -/
def Disp.groupOf (d : Disp) (core : Nat) (oasis : Bool) : Option Placed :=
  d.placed.find? fun p => p.oasis == oasis && p.covers core

def Disp.placed? (d : Disp) (launch group : Nat) : Option Placed := d.placed.find? fun p => p.launch == launch && p.group == group
def Disp.saved? (d : Disp) (launch group : Nat) : Option Saved := d.saved.find? fun v => v.launch == launch && v.group == group

def Disp.setPlaced (d : Disp) (p : Placed) (f : Placed → Placed) : Disp :=
  { d with placed := d.placed.map fun q => if q.launch = p.launch ∧ q.group = p.group then f q else q }

/-- Insert a group number in order. -/
def insertNat (n : Nat) : List Nat → List Nat
  | [] => [n]
  | k :: t => if n ≤ k then n :: k :: t else k :: insertNat n t

/-- The device of a launch. -/
def Disp.vmidOf (d : Disp) (launch : Nat) : Nat := match d.launch? launch with
  | some l => l.vmid
  | none => 0

/-- The device is served: it has credit, and a weight (R43, R389). -/
def Disp.served (d : Disp) (vmid : Nat) : Bool := decide (0 < d.deficitOf vmid) && spGet 0 d.weight vmid != 0

/-- Charge every placed instance for the time since the last charge, in core-µs; a device whose credit is gone is served no
more (R389). -/
def chargeAll (m : Mach) : Mach :=
  let d := m.disp
  let us := (m.ftime - d.chargedAt).toNat / 1000
  let charge (f : Sp Int) (p : Placed) : Sp Int :=
    let v := d.vmidOf p.launch
    spSet 0 f v (spGet 0 f v - ((us * (p.size - p.retired.length) : Nat) : Int))
  let deficit := d.placed.foldl charge d.deficit
  { m with disp := { d with
      deficit := deficit
      serving := if 0 < spGet 0 deficit (d.vmidOf d.serving) then d.serving else 0
      chargedAt := d.chargedAt + BitVec.ofNat 64 (1000 * us) } }

/-! ## Positions (R25, R388, R407, R421, R422) -/

/-- Nothing is placed on a die under retest or with its store layer down. -/
def Mach.dieOpen (m : Mach) (die : Nat) : Bool :=
  match spGet none m.dies die with
  | some d => !d.testing && !d.tripped
  | none => true

/-- A main core is free, not counting the groups given; nothing is placed on a quad that is being retired (R424). -/
def Mach.coreFree (m : Mach) (without : List Placed) (core : Nat) : Bool :=
  m.info.quadMask.getLsbD (core / 4) && !(m.retiring.any (·.1 == core / 4)) && m.dieOpen (core / 16) &&
  !(m.disp.placed.any fun p => !p.oasis && p.covers core && !without.contains p) &&
  (core != m.core.num || without.any (fun p => !p.oasis && p.covers core) ||
    (m.core.status == .idle && m.core.eng.isEmpty && !m.core.busy && m.core.tlbinv.isNone))

/-- An Oasis core is free. -/
def Mach.oasFree (m : Mach) (without : List Placed) (core : Nat) : Bool :=
  m.info.stackMask.getLsbD (core / 8) &&
  !(m.disp.placed.any fun p => p.oasis && p.covers core && !without.contains p) &&
  (core != m.oas.num || without.any (fun p => p.oasis && p.covers core) || (m.oas.status == .idle && m.oas.ops.isEmpty))

/-- A saved group still has state in place on its cores (R392). -/
def Saved.inPlace (v : Saved) (m : Mach) : Bool :=
  !v.left.isEmpty || !v.away.isEmpty || v.lacks m.arr || (match m.arrLeft with
    | some a => v.lacks a
    | none => false)

/-- A saved group may resume at a base core: its own while it has state in place there; on the followed core only the
context saved from it, or a member that had retired (log 6). -/
def Mach.mayResume (m : Mach) (v : Saved) (base size : Nat) (oasis : Bool) : Bool :=
  if oasis then base / 8 == v.base / 8 && (base != m.oas.num || v.oasis.isSome)
  else
    (!v.inPlace m || base == v.base) &&
    (!(decide (base ≤ m.core.num) && decide (m.core.num < base + size)) || v.retired.contains (m.core.num - base) ||
      match v.core with
      | some c => c.num - v.base == m.core.num - base
      | none => false)

/-- The set bits of a mask, lowest first. -/
def bitsOf (mask n : Nat) : List Nat := (List.range n).filter fun k => mask / 2 ^ k % 2 == 1

/-- The first position of a group: an Oasis instance on the stack that its index chooses; a main group on the lowest die,
or the die of its tuple, at the lowest base (R25, R388); on the stacks and quads that the device's record now names (R405). -/
def Mach.fit (m : Mach) (without : List Placed) (l : Launch) (group : Nat) : Option Nat :=
  let resumes (base size : Nat) : Bool := match m.disp.saved? l.id group with
    | some v => m.mayResume v base size (l.level == 1)
    | none => true
  if l.level = 1 then
    let st := bitsOf l.stacks 16
    let k := st.getD (group % st.length) 0
    if m.mem.vdev l.vmid 40 2 / 2 ^ k % 2 = 0 then none
    else ((List.range 8).map (8 * k + ·)).find? fun c => m.oasFree without c && resumes c 1
  else
    let g := l.gsize
    let quads := m.mem.vdev l.vmid 32 8
    let die := if (l.kernel.spatial 2).isEmpty then none else (l.dies.find? fun x => x.1 == l.tupleOf group).map Prod.snd
    ((List.range (144 / g)).map (g * ·)).find? fun base =>
      (die.isNone || die == some (base / 16)) && resumes base g &&
      (List.range g).all fun r => quads / 2 ^ ((base + r) / 4) % 2 == 1 && m.coreFree without (base + r)

/-! ## The policy (R389) -/

/-- The launch has a group to place. -/
def Disp.waiting (d : Disp) (l : Launch) : Bool :=
  (l.state == .ready || l.state == .placing || l.state == .running) && !l.killed && !l.unplaced.isEmpty &&
    decide (l.level ≤ 1) && !d.doomed l

/-- The launches of a device that wait, in the order in which it is served. -/
def Disp.order (d : Disp) (vmid : Nat) : List Launch :=
  let w := d.launches.filter fun l => l.vmid == vmid && d.waiting l
  (List.range 4).flatMap fun k => w.filter fun l => l.cls == k

/-- The launch's next group, where it fits: launch, group, base core. -/
def Mach.nextGroup (m : Mach) (l : Launch) : Option (Launch × Nat × Nat) :=
  match l.unplaced with
  | g :: _ => (m.fit [] l g).map fun b => (l, g, b)
  | [] => none

/-- The next group to place: launch, group, base core. -/
def Mach.choice (m : Mach) : Option (Launch × Nat × Nat) :=
  let d := m.disp
  let device (v : Nat) : Option (Launch × Nat × Nat) :=
    if d.served v then (d.order v).findSome? m.nextGroup else none
  let first := match d.launch? d.serving with
    | some l => if d.waiting l ∧ d.served l.vmid then m.nextGroup l else none
    | none => none
  match first with
  | some x => some x
  | none => ((List.range 96).map fun k => (d.lastVmid + 1 + k) % 96).findSome? device

/-- DRR_ROUND, R389: devices with a ready launch or a placed group gain credit. -/
def execDrrRound (s : State) : Out :=
  .next (s.setCur fun m =>
    let m := chargeAll m
    let d := m.disp
    let works (v : Nat) : Bool :=
      d.placed.any (fun p => d.vmidOf p.launch == v) || d.launches.any fun l => l.vmid == v && d.waiting l
    let credit (f : Sp Int) (v : Nat) : Sp Int :=
      let w : Int := (m.mem.vdev v 4 4 : Nat)
      if works v then spSet 0 f v (min (spGet 0 f v + w) (2 * w)) else f
    { m with disp := { d with
        deficit := (List.range 96).foldl credit d.deficit
        weight := (List.range 96).foldl (fun f v => spSet 0 f v (m.mem.vdev v 4 4)) d.weight
        roundAt := m.ftime } })

/-- AGEING_INTERVAL, R389: each launch in READY counts its full intervals. -/
def execAgeingInterval (s : State) : Out :=
  .next (s.setCur fun m =>
    let age (l : Launch) : Launch :=
      if l.state = .ready then { l with aged := (m.ftime - l.readyAt).toNat / Config.ageing.toNat } else l
    { m with disp := { m.disp with launches := m.disp.launches.map age } })

/-! ## Placing (R388) -/

/-- The records of a placement. The launch is served on while its next group fits (R389); a launch that runs goes on doing so
(R387); messages that name no instance of it are dropped (R351). -/
def notePlaced (m : Mach) (l : Launch) (group base size : Nat) (retired : List Nat) : Mach :=
  let m := dropMisdirected m l
  let d := m.disp
  let rest := l.unplaced.filter (· != group)
  let dies := if l.level = 0 then (l.tupleOf group, base / 16) :: l.dies else l.dies
  let note (x : Launch) : Launch :=
    { x with unplaced := rest, dies := dies, state := if rest.isEmpty ∨ x.state = .running then .running else .placing }
  let m : Mach := { m with disp := { d.setLaunch l.id note with
      placed := d.placed ++ [⟨l.id, group, base, size, l.level == 1, [], retired, none, m.ftime, 0⟩]
      vflags := spSet none d.vflags l.vmid (some (m.mem.vdev l.vmid 0 4))
      lastVmid := l.vmid } }
  let more := match m.disp.launch? l.id with
    | some l => m.nextGroup l
    | none => none
  { m with disp := { m.disp with serving := if more.isSome then l.id else 0 } }

/-- The instances of a group begin with an acquire, on the die where they are placed (R39, R300, R386). -/
def dieAcquire (die : Nat) (m : Mach) : Mach := { m with mem := acquireAll die m.mem }

/-- The followed context begins with an acquire. -/
def startAcquire (m : Mach) : Mach :=
  let m := mergeClocks m ((List.range 9).map m.mem.hcOf)
  { m with mem := m.mem.emptyL1 }

/-- The state of a context at kernel entry (R99 to R114, R364, R388). -/
def entryCore (m : Mach) (l : Launch) (inst : Nat) : Core :=
  { Core.reset with
    num := m.core.num
    status := .running
    pc := l.kernel.entry
    karg := BitVec.ofNat 64 l.args
    sidx := l.sidx inst
    thandler := BitVec.ofNat 64 (m.mem.vdev l.vmid 16 8)
    thsize := BitVec.ofNat 64 (m.mem.vdev l.vmid 24 8)
    vmid := BitVec.ofNat 7 l.vmid
    zeroed := m.mem.vdev l.vmid 0 4 / 2 % 2 == 1
    kernel := some l.kernel
    launch := l.id
    inst := inst
    sysq := l.sysq }

/-- Ranks of the followed quad that a group at a base takes. -/
def Mach.ranks (m : Mach) (base size : Nat) : List Nat :=
  (List.range 4).filter fun r => decide (base ≤ m.core.num / 4 * 4 + r) && decide (m.core.num / 4 * 4 + r < base + size)

/-- Eighths that a SPLIT names on a rank. -/
def eighthsOf (rank : Nat) (split : Word) : List Nat :=
  (List.range 16).flatMap fun b => (List.range (min 8 (bankField split b))).map fun e => rank * 128 + b * 8 + e

/-- The quad's share of a placement: SPLITs and scratchpads (R114, R392). -/
def placeQuad (s : State) (l : Launch) (ranks : List Nat) : State :=
  let zeroed := s.cur.mem.vdev l.vmid 0 4 / 2 % 2 == 1
  let s := (ranks.flatMap fun r => eighthsOf r l.split).foldl (joinEighth zeroed) s
  s.setCur fun m => syncPads { m with quad := { m.quad with
    split := ranks.foldl (fun x r => spSet 0 x r l.split) m.quad.split } }

/-- GROUP_PLACE, R388: the policy's choice, where it is a fresh group of this launch. -/
def execGroupPlace (launch : Nat) (s : State) : Out :=
  .next (
    let m := chargeAll s.cur
    match m.choice with
    | some (l, g, base) =>
      if l.id = launch ∧ l.level = 0 ∧ m.disp.saved? l.id g = none then
        let size := l.gsize
        let s := { s with cur := dieAcquire (base / 16) (notePlaced m l g base size []) }
        let s := placeQuad s l (m.ranks base size)
        if base ≤ m.core.num ∧ m.core.num < base + size then
          let s := s.setCur fun k =>
            let k := releaseAll k
            startAcquire { k with core := entryCore k l (g * size + (k.core.num - base)), pool := [] }
          beginArray s s.cur.core.zeroed
        else s
      else s
    | none => s)

/-- Bytes of code, read page by page through a device's mappings for a fetch (R398); none where nothing can be fetched. -/
def codeBytes (vmid die : Nat) : Nat → Nat → Nat → Mach → Mach × List (Option Byte)
  | 0, _, _, m => (m, [])
  | fuel + 1, va, n, m =>
    if n = 0 then (m, [])
    else
      let k := min n (65536 - va % 65536)
      let (m, b) := match m.translate vmid va .fetch (.die die) with
        | (.ok leaf pa, u) =>
          let m := m.applyUpd u
          let (mem, b, poi) := m.mem.load (effComp (leafComp leaf) (pa / 128)) pa k
          ({ m with mem := mem }, if poi then List.replicate k none else b.map some)
        | (.fault _, u) => (m.applyUpd u, List.replicate k none)
      let (m, t) := codeBytes vmid die fuel (va + k) (n - k) m
      (m, b ++ t)

/-- Die of an Oasis core (R13, R326). -/
def oasisDie (core : Nat) : Nat := dieOfStack (core / 8)

/-- The words of an Oasis kernel; what cannot be fetched, or lies in a poisoned sector, is free. -/
def oasisCode (m : Mach) (l : Launch) (core idx : Nat) : Mach × Sp (BitVec 32) :=
  let base := l.kernel.entry.toNat + 16
  let n := min 1024 ((l.kernel.base.toNat + l.kernel.len - base) / 16)
  let (m, b) := codeBytes l.vmid (oasisDie core) 2 base (16 * n) m
  let word (k : Nat) : BitVec 32 := BitVec.ofNat 32 (bytesNat ((List.range 4).map fun i =>
    ((b.getD (4 * k + i) none)).getD (BitVec.ofNat 8 (Config.freeNat (idx + 4 * k + i)))))
  (m, spSets 0 [] 0 ((List.range (4 * n)).map word))

/-- The state of an Oasis instance at entry (R326); its buffer slots hold free values. -/
def entryOasis (m : Mach) (l : Launch) (inst idx : Nat) (code : Sp (BitVec 32)) : Oasis :=
  { Oasis.reset with
    num := m.oas.num
    status := .running
    o := spSets 0 [] 0 [BitVec.ofNat 64 l.args, BitVec.ofNat 64 inst, BitVec.ofNat 64 m.oas.num]
    bufs := spSets 0 [] 0 ((List.range 512).map fun k => BitVec.ofNat 1024 (Config.freeNat (idx + 16384 + k)))
    pc := l.kernel.entry + 16
    code := code
    base := l.kernel.entry + 16
    words := min 1024 ((l.kernel.base.toNat + l.kernel.len - (l.kernel.entry.toNat + 16)) / 16)
    vmid := l.vmid
    launch := l.id
    inst := inst }

/-- OASIS_INSTANCE_PLACE, R326, R388. -/
def execOasisInstPlace (launch : Nat) (s : State) : Out :=
  .next (
    let m := chargeAll s.cur
    match m.choice with
    | some (l, g, base) =>
      if l.id = launch ∧ l.level = 1 ∧ m.disp.saved? l.id g = none then
        let m := dieAcquire (oasisDie base) (notePlaced m l g base 1 [])
        if base = m.oas.num then
          let (m, code) := oasisCode m l base s.freeIdx
          { s with cur := { m with oas := entryOasis m l g s.freeIdx code }, freeIdx := s.freeIdx + 16384 + 512 }
        else { s with cur := m }
      else s
    | none => s)

/-! ## Asking for cores (R390) -/

/-- Order in which groups are taken back. -/
def Mach.takenFirst (m : Mach) (a b : Placed) : Bool :=
  let d := m.disp
  let poor (p : Placed) : Bool := decide (d.deficitOf (d.vmidOf p.launch) ≤ 0)
  let cls (p : Placed) : Nat := match d.launch? p.launch with
    | some l => l.cls
    | none => 0
  if poor a != poor b then poor a
  else if cls a ≠ cls b then decide (cls b < cls a)
  else if a.placedAt ≠ b.placedAt then decide (b.placedAt.toNat < a.placedAt.toNat)
  else decide (b.base < a.base)

/-- Groups that go together: those of a PKG_GANG launch (R26). -/
def Disp.together (d : Disp) (p : Placed) : List Placed :=
  match d.launch? p.launch with
  | some l => if l.gang then d.placed.filter fun q => q.launch == p.launch else [p]
  | none => [p]

/-- Take groups, in order, until a group fits. -/
def victims (d : Disp) (fits : List Placed → Bool) (acc : List Placed) : List Placed → List Placed
  | [] => if fits acc then acc else []
  | p :: t => if fits acc then acc else victims d fits (if acc.contains p then acc else acc ++ d.together p) t

/-- Ask for the groups that make room for the launch's next group, among those a test allows; the room of groups already asked
counts first. -/
def askFor (m : Mach) (l : Launch) (allowed : Placed → Bool) : Mach :=
  match l.unplaced with
  | [] => m
  | g :: _ =>
    let d := m.disp
    let mine (p : Placed) : Bool := p.oasis == (l.level == 1) && p.preempt.isNone && decide (p.noAsk.toNat ≤ m.ftime.toNat) && allowed p
    let vs := victims d (fun w => (m.fit w l g).isSome) (d.placed.filter (·.preempt.isSome)) (sortOrd m.takenFirst (d.placed.filter mine))
    { m with
      disp := { d with placed := d.placed.map fun p => if vs.contains p ∧ p.preempt.isNone then { p with preempt := some m.ftime } else p }
      oas := if vs.any (fun p => p.oasis && p.base == m.oas.num) then { m.oas with preempt := true } else m.oas }

/-- The launch waits where priority takes cores back: in READY, or as a gang that holds its reservations (R388 to R390). -/
def Launch.pressing (l : Launch) : Bool := l.state == .ready || (l.gang && l.state == .placing)

/-- PRIORITY_PREEMPT, R390. -/
def execPriorityPreempt (launch : Nat) (s : State) : Out :=
  .next (s.setCur fun m =>
    let m := chargeAll m
    let d := m.disp
    match d.launch? launch with
    | some l =>
      if l.pressing ∧ d.waiting l ∧ d.served l.vmid ∧ Config.preemptDelay.toNat < (m.ftime - l.readyAt).toNat then
        askFor m l fun p => match d.launch? p.launch with
          | some k => k.vmid != l.vmid || decide (l.cls < k.cls)
          | none => false
      else m
    | none => m)

/-- TIME_SLICE_PREEMPT, R390. -/
def execTimeSlicePreempt (launch : Nat) (s : State) : Out :=
  .next (s.setCur fun m =>
    let m := chargeAll m
    let d := m.disp
    match d.launch? launch with
    | some l =>
      if d.waiting l ∧ d.served l.vmid then
        askFor m l fun p => d.vmidOf p.launch != l.vmid && decide (d.deficitOf (d.vmidOf p.launch) ≤ 0) &&
          decide (Config.slice.toNat < (m.ftime - p.placedAt).toNat)
      else m
    | none => m)

/-! ## Taking cores back (R35 to R37, R391 to R393) -/

/-- The followed context stands at a point of pre-emption (R35, R370). -/
def Core.atHalt (c : Core) : Bool :=
  c.status == .running && c.atPoint && c.tlevel == 0 && c.empties == 0 && !c.endDue

/-- MEMBER_HALT, R37, R393: the followed context at its point, another core's, or from 144 on another Oasis core's instance. -/
def execMemberHalt (core : Nat) (s : State) : Out :=
  .next (s.setCur fun m =>
    let oasis := decide (144 ≤ core)
    let n := if oasis then core - 144 else core
    match m.disp.groupOf n oasis with
    | some p =>
      let may := if oasis then n != m.oas.num else n != m.core.num || m.core.atHalt
      if p.preempt.isSome ∧ !p.halted.contains n ∧ !p.retired.contains n ∧ may then
        { m with
          disp := m.disp.setPlaced p fun q => { q with halted := n :: q.halted }
          core := if !oasis ∧ n = m.core.num then { m.core.settleLoads with status := .halted } else m.core }
      else m
    | none => m)

/-- Every member of a group has halted or retired. -/
def Placed.stopped (p : Placed) : Bool := (List.range p.size).all fun r => p.halted.contains (p.base + r) || p.retired.contains (p.base + r)

/-- Physical registers that a live mask keeps. -/
def kept (mask : Word) (phys : Nat → Nat) : List Nat := ((List.range 64).filter fun n => mask.getLsbD n).map phys

/-- What a pre-emption keeps of a context: all but the v and w registers outside the live masks (R36, R114, R392). -/
def keptCore (c : Core) : Core :=
  let (lv, lw) := match c.loops with
    | l :: _ => (l.lrec.livev, l.lrec.livew)
    | [] => match c.kernel with
      | some k => (k.livev, k.livew)
      | none => (0, 0)
  { c with
    v := c.v.filter fun e => (kept lv c.physV).contains (e.1 / 256)
    w := c.w.filter fun e => (kept lw c.physW).contains (e.1 / 256) }

/-- The operation waits for its message or its window: it counts as not started (R391). -/
def waitsOutside (o : EngOp) : Bool :=
  o.started && ((isCsend o && o.left.any (·.1 == 0)) || ((crecvFE o.ins).isSome && o.left == [(0, 0)]))

/-- A CSEND to the context itself whose message is in the receive store: it stays there, and the CSEND is saved as it stands
(R361). -/
def sentToSelf (m : Mach) (o : EngOp) : Bool := isCsend o && o.started && o.left.any (·.1 == 1) && m.toSelf (o.vals.getD 0 0)

/-- The followed context can be saved: what has started is complete. -/
def Mach.drained (m : Mach) : Bool :=
  let c := m.core
  c.eng.all (fun e => !e.started || waitsOutside e || sentToSelf m e) && !c.busy && c.tlbinv.isNone && c.binit.isNone

/-- The context as it is saved: its engine operations have not started. -/
def savedCore (c : Core) : Core :=
  let c := keptCore c
  { c with eng := c.eng.map fun o => if waitsOutside o then { o with started := false, left := [], pairs := [] } else o }

/-- Eighths that a PHASE not yet complete marks as pending (R219). -/
def phasePending (c : Core) : List Nat :=
  (c.eng.filter isPhase).flatMap fun o =>
    ((phaseMoves (o.vals.getD 0 0) (o.vals.getD 1 0)).filter (·.2 == 0)).map fun k => c.rank * 128 + k.1

/-- The group has been asked for, and every member of it has halted or retired. -/
def Placed.givenUp (p : Placed) : Bool := p.preempt.isSome && p.stopped

/-- A main group is saved and its cores released (R392). Eighths and array state stay in place. -/
def saveGroup (m : Mach) (p : Placed) : Mach :=
  let here := p.covers m.core.num && p.halted.contains m.core.num
  let ranks := (m.ranks p.base p.size).filter fun r => !p.retired.contains (m.core.num / 4 * 4 + r)
  let splits := ranks.map fun r => (r, m.quad.splitOf r)
  let pending := if here then phasePending m.core else []
  let v : Saved :=
    ⟨p.launch, p.group, p.base, p.retired.map (· - p.base), if here then some (savedCore m.core) else none, none, splits,
      (splits.flatMap fun x => eighthsOf x.1 x.2).filter (!pending.contains ·), [], [], none,
      ((List.range p.size).map (p.base + ·)).filter fun n => n != m.core.num && !p.retired.contains n⟩
  syncPads { m with
    disp := { (m.disp.setLaunch p.launch fun l => { l with unplaced := insertNat p.group l.unplaced }) with
      placed := m.disp.placed.filter (· != p)
      saved := m.disp.saved ++ [v] }
    core := if here then { Core.reset with num := m.core.num } else m.core
    pool := if here then [] else m.pool
    quad := { m.quad with
      split := ranks.foldl (fun x r => spSet 0 x r 0) m.quad.split
      pending := pending.foldl (fun x k => spSet false x k false) m.quad.pending } }

/-- An Oasis group, of another core than the followed one, is saved. -/
def saveOther (m : Mach) (p : Placed) : Mach :=
  { m with disp := { (m.disp.setLaunch p.launch fun l => { l with unplaced := insertNat p.group l.unplaced }) with
      placed := m.disp.placed.filter (· != p)
      saved := m.disp.saved ++ [⟨p.launch, p.group, p.base, [], none, none, [], [], [], [], none, []⟩] } }

/-- GROUP_SAVE, R390 to R392: with every member halted and their started work complete, the group is saved and its cores are
released; the groups of a PKG_GANG launch together. -/
def execGroupSave (launch group : Nat) (s : State) : Out :=
  .next (s.setCur fun m =>
    match m.disp.placed? launch group with
    | some p =>
      let all := m.disp.together p
      let here := all.any fun q => !q.oasis && q.covers m.core.num && q.halted.contains m.core.num
      if all.all (·.givenUp) ∧ (!here ∨ m.drained) ∧ !(p.oasis && p.base == m.oas.num) then
        if p.oasis then saveOther (chargeAll m) p else (m.disp.together p).foldl saveGroup (chargeAll m)
      else m
    | none => m)

/-- What a saved group left in place on a core, where another group now is, has been saved too (R392). -/
def partGroup (m : Mach) (launch group core : Nat) : Mach :=
  if (m.disp.groupOf core false).isSome then
    let part (v : Saved) : Saved := if v.launch = launch ∧ v.group = group then { v with away := v.away.filter (· != core) } else v
    { m with disp := { m.disp with saved := m.disp.saved.map part } }
  else m

/-- OASIS_PREEMPT, R346, R393: at a word boundary, once the interlocked operations have completed; results in flight are
kept with their counts. -/
def execOasisPreempt (s : State) : Out :=
  .next (s.setCur fun m =>
    match m.disp.groupOf m.oas.num true with
    | some p =>
      if m.oas.preempt ∧ m.oas.status = .running ∧ m.oas.ops.isEmpty then
        let m := chargeAll m
        let v : Saved := ⟨p.launch, p.group, p.base, [], none, none, [], [], [], [], some { m.oas with preempt := false, yielded := false }, []⟩
        { m with
          disp := { (m.disp.setLaunch p.launch fun l => { l with unplaced := insertNat p.group l.unplaced }) with
            placed := m.disp.placed.filter (· != p)
            saved := m.disp.saved ++ [v] }
          oas := { Oasis.reset with num := m.oas.num } }
      else m
    | none => m)

/-- A request is withdrawn (R37, R391). -/
def withdraw (m : Mach) (p : Placed) : Mach :=
  let wait := m.ftime + Config.preemptDelay.setWidth 64
  { m with
    disp := m.disp.setPlaced p fun q => { q with preempt := none, halted := [], noAsk := wait }
    core := if !p.oasis ∧ p.halted.contains m.core.num ∧ m.core.status = .halted then { m.core with status := .running } else m.core
    oas := if p.oasis ∧ p.base = m.oas.num then { m.oas with preempt := false, yielded := false } else m.oas }

/-- ABANDON_INTERVAL, R37, R390, R391: some member has not halted; the request is withdrawn and the others go on, in every group
of a PKG_GANG launch. -/
def execAbandonInterval (launch group : Nat) (s : State) : Out :=
  .next (s.setCur fun m =>
    match m.disp.placed? launch group with
    | some p =>
      let all := m.disp.together p
      if p.preempt.isSome ∧ !all.all (·.givenUp) then all.foldl withdraw m else m
    | none => m)

/-- An eighth of a saved group at a place of the quad again: what another group left there is saved, then all of its bytes are
written (R392). `from_` is the place it was saved from. -/
def restoreEighth (v : Saved) (m : Mach) (k : Nat × Nat) : Mach :=
  let (key8, from_) := k
  let m := saveEighth m key8
  let q := m.quad.clearEighth key8
  let lo := from_ * 2 ^ 19
  let put (c : List Host.Cell) (x : Host.Cell) : List Host.Cell :=
    if lo ≤ x.1 ∧ x.1 < lo + 2 ^ 19 then spSet 0 c (x.1 - lo + key8 * 2 ^ 19) x.2 else c
  let mark (c : Sp Bool) (x : Nat × Bool) : Sp Bool :=
    if lo ≤ x.1 * 128 ∧ x.1 * 128 < lo + 2 ^ 19 then spSet false c (x.1 - lo / 128 + key8 * 4096) x.2 else c
  { m with quad := { q with sp := v.sp.foldl put q.sp, spPoison := v.spPoison.foldl mark q.spPoison } }

/-- A rank of the followed quad that a resumed group takes: its SPLIT and its scratchpad are restored where they are known, as
they were left in place or saved; else the packet's SPLIT stands, and the bytes are free (R392; log 6). -/
def resumeRank (v : Saved) (l : Launch) (base : Nat) (s : State) (r : Nat) : State :=
  let old := r + v.base - base
  let pending := match v.core with
    | some c => phasePending c
    | none => []
  match if base ≤ r + v.base then v.splits.find? (·.1 == old) else none with
  | some (_, split) =>
    let moves := ((eighthsOf r split).zip (eighthsOf old split)).filter fun k => !v.left.contains k.2 && !pending.contains k.2
    s.setCur fun m =>
      let m := moves.foldl (restoreEighth v) m
      syncPads { m with quad := { m.quad with split := spSet 0 m.quad.split r split } }
  | none =>
    let s := (eighthsOf r l.split).foldl (joinEighth false) s
    s.setCur fun m => syncPads { m with quad := { m.quad with split := spSet 0 m.quad.split r l.split } }

/-- A restored context finds its array state on its core: as it stands there, left in place, or saved (R256, R392). -/
def resumeArray (s : State) (v : Saved) (c : Core) : State :=
  let m := s.cur
  let me := some (v.launch, c.inst)
  let left := m.arrLeft.filter fun a => a.owner == me
  if m.arr.owner = me then s
  else match left, v.array with
    | some a, _ => { s with cur := { leaveArray { m with arrLeft := none } with arr := a } }
    | none, some a => { s with cur := { leaveArray m with arr := a } }
    | none, none => beginArray s false

/-- The followed core takes up a saved context. What the device's record changes for it takes effect now (R405). -/
def resumeCore (m : Mach) (l : Launch) (c : Core) : Mach :=
  let m := releaseAll m
  { m with
    core := { c with
      status := .running
      thandler := BitVec.ofNat 64 (m.mem.vdev l.vmid 16 8)
      thsize := BitVec.ofNat 64 (m.mem.vdev l.vmid 24 8)
      zeroed := m.mem.vdev l.vmid 0 4 / 2 % 2 == 1 }
    pool := []
    quad := { m.quad with pending := (phasePending c).foldl (fun x k => spSet false x k true) m.quad.pending } }

/-- GROUP_RESUME, R36, R37, R391 to R393: the policy's choice, where it is this saved group. -/
def execGroupResume (launch group : Nat) (s : State) : Out :=
  .next (
    let m := chargeAll s.cur
    match m.choice, m.disp.saved? launch group with
    | some (l, g, base), some v =>
      if l.id = launch ∧ g = group then
        let size := if l.level = 1 then 1 else l.gsize
        let m := notePlaced m l g base size (v.retired.map (base + ·))
        let s := { s with cur := { m with disp := { m.disp with saved := m.disp.saved.filter (· != v) } } }
        if l.level = 1 then
          match v.oasis with
          | some o => if base = m.oas.num then s.setOas fun _ => { o with num := base } else s
          | none => s
        else
          let ranks := (m.ranks base size).filter fun r => !(v.retired.map (base + ·)).contains (m.core.num / 4 * 4 + r)
          let s := ranks.foldl (resumeRank v l base) s
          match v.core with
          | some c =>
            if base ≤ c.num ∧ c.num < base + size then (resumeArray s v c).setCur (resumeCore · l c)
            else s
          | none => s
      else s
    | _, _ => s)

/-! ## Retiring and stopping (R41, R372) -/

/-- An instance counted as retired. -/
def countRetired (m : Mach) (launch : Nat) (fault : Bool) : Mach :=
  { m with disp := m.disp.setLaunch launch fun l =>
      let n := l.retired + 1
      { l with
        retired := n
        engFault := l.engFault || fault
        state := if n = l.instances ∧ !l.killed then .draining else l.state } }

/-- The followed core is vacant: its context's regions are released (R313, R321). -/
def vacate (m : Mach) : Mach :=
  let m := releaseAll m
  { m with core := { Core.reset with num := m.core.num, launch := m.core.launch, inst := m.core.inst, vmid := m.core.vmid }, pool := [] }

/-- END's conditions hold (R41): nothing of the context is under way, a TLBINV neither (R375). -/
def Core.mayRetire (c : Core) : Bool :=
  c.status == .ending && c.eng.isEmpty && !c.busy && c.tlbinv.isNone && c.bank0.isEmpty && c.bank1.isEmpty && c.bank2.isEmpty

/-- The context of a member, as regions and bins know it. -/
def Placed.member (p : Placed) (core : Nat) : Nat × Nat := (p.launch, p.group * p.size + (core - p.base))

/-- INSTANCE_RETIRE, R41: the followed context; another core's, whose regions are released first (R313); or an Oasis instance
(log 18). -/
def execInstRetire (inst : InstRef) (s : State) : Out :=
  .next (
    let m := chargeAll s.cur
    let oasis := decide (144 ≤ inst.core)
    let n := if oasis then inst.core - 144 else inst.core
    match m.disp.groupOf n oasis with
    | some p =>
      let held := match m.disp.launch? p.launch with
        | some l => l.held
        | none => false
      if p.retired.contains n then s
      else if !oasis ∧ n = m.core.num then
        if m.core.mayRetire then
          { s with cur := vacate (countRetired (memberGone m n false) p.launch (m.core.engFault || !m.core.unread.isEmpty)) }
        else s
      else if oasis ∧ n = m.oas.num then
        if m.oas.status = .ending ∧ m.oas.ops.isEmpty then
          { s with cur := { (countRetired (memberGone m n true) p.launch false) with
              oas := { m.oas with status := .idle, jump := none, preempt := false, yielded := false } } }
        else s
      else if held || p.halted.contains n then s
      else
        let m := if oasis then m else releaseHeld m (· == p.member n)
        { s with cur := countRetired (memberGone m n oasis) p.launch (!oasis && inst.fault) }
    | none => s)

/-- INSTANCE_STOP, R372: an instance of a killed launch stops at its next boundary. -/
def execInstStop (core : Nat) (s : State) : Out :=
  .next (s.setCur fun m =>
    let oasis := decide (144 ≤ core)
    let n := if oasis then core - 144 else core
    match m.disp.groupOf n oasis with
    | some p =>
      match m.disp.launch? p.launch with
      | some l =>
        if l.killed then
          let m := memberGone (chargeAll m) n oasis
          if !oasis ∧ n = m.core.num then
            { m with core := stopContext m.core }
          else if oasis ∧ n = m.oas.num then { m with oas := { m.oas with status := .idle, jump := none } }
          else if oasis then m
          else releaseHeld m (· == p.member n)
        else m
      | none => m
    | none => m)

/-- Another core's fatal fault kills its launch: at level 2, at level 0 without a handler, or of an Oasis kernel. What the record
says of the trap CSRs and banks of that core is free (R369, R372, R373; log 6). -/
def otherKill (m : Mach) (core : Nat) (cause epc tval : Word) (idx : Nat) : Mach :=
  let oasis := decide (144 ≤ core)
  let n := if oasis then core - 144 else core
  let level := bits cause.toNat 10 9
  match m.disp.groupOf n oasis with
  | none => m
  | some p =>
    let held := match m.disp.launch? p.launch with
      | some l => l.held
      | none => true
    if held || p.retired.contains n || n == (if oasis then m.oas.num else m.core.num) || (!oasis && level != 0 && level != 2) then m
    else
      let k (i : Nat) : Nat := Config.freeNat (idx + i)
      let none3 : Nat × Nat × Nat := (0, 0, 0)
      let last := (cause.toNat, epc.toNat, tval.toNat)
      let slots := if oasis || level == 0 then [none3, none3, last] else [(k 0, k 1, k 2), (k 3, k 4, k 5), last]
      let record := killRecord (if oasis then 0xFFFF else n) (p.member n).2 (if oasis then 2 else if level = 0 then 1 else 0) slots
        (k 6) (k 7) (k 8) (k 9)
      let m := memberGone (killLaunch (chargeAll m) p.launch (some n) record) n oasis
      if oasis then m else releaseHeld m (· == p.member n)

end Sys2Proof.Machine
end

