-- ==== Sys2Proof/Machine/Sequencer.lean ====
section
/-! DEFINITION. The sequencer's own steps: empty bundles, execution ends, landings, drain cycles and asynchronous faults
(R32, R46, R66, R68, R153, R368). -/

namespace Sys2Proof.Machine

/-- A clock later or the same, by a free amount (R112; log 10). -/
def laterClock (now : Word) (free : Nat) : Word := now + BitVec.ofNat 64 (free % (2 ^ 64 - now.toNat))

/-- The cycle after one; the count stays at its greatest, so that it never falls (R112). -/
def nextCycle (now : Word) : Word := if now = BitVec.allOnes 64 then now else now + 1

/-- A cycle passes, and free numbers of further cycles and of nanoseconds (R109, R112; log 10). -/
def State.passTime (s : State) : State :=
  let f := Config.freeNat s.freeIdx
  let g := Config.freeNat (s.freeIdx + 1)
  s.used.used.setCur fun m => { m with cycle := laterClock (nextCycle m.cycle) g, ftime := laterClock m.ftime f }

/-- An issue cycle begins: every slot will read the machine as it stands, and the counts of the running bank fall (R48,
R63, R68). The barrier operations of quad peers in the same cycle are performed with the bundle's own (log 19). -/
def State.beginIssue (s : State) : State :=
  let t := s.passTime
  { t with snap := some s.cur, cur := tick t.cur, verdict := .go }

/-- EMPTY, R46: no effect besides its issue cycle. -/
def execEmpty (s : State) : Out := .next s

/-- NOP_EMPTY_BUNDLE, R153: it takes an issue index. -/
def execNopEmptyBundle (s : State) : Out :=
  .next (if s.cur.core.empties = 0 then s
    else s.passTime.setCur fun m =>
      let m := barrierRest (tick m)
      { m with core := { m.core with empties := m.core.empties - 1 } })

/-- LOOP_EXECUTION_END, R32, R147 to R149. -/
def execLoopExecutionEnd (s : State) : Out := .next (if s.cur.core.endDue then s.setCore loopEnd else s)

/-- The entry of a bank that is due leaves it and is written. -/
def landSlot (m : Mach) (lvl entry : Nat) : Mach := landSome m lvl fun p => p.slot == entry && p.due

/-- A cycle in which the followed core issues nothing. -/
def State.idleCycle (s : State) : State := s.passTime.setCur coreIdle

/-- PENDING_WRITE_LAND, R68: an entry of the running level whose count has run out and whose value is there. -/
def execPendingWriteLand (entry : Nat) (s : State) : Out := .next (s.setCur fun m => landSlot m m.core.tlevel entry)

/-- OVERDUE_VALUE_ARRIVE, R66, R69: the value of an entry arrives; it is written at once where its level runs. -/
def execOverdueValueArrive (level entry : Nat) (s : State) : Out :=
  .next (s.setCur fun m =>
    let arrive (p : Pending) : Pending := if p.slot = entry then { p with arrived := true } else p
    let m := { m with core := m.core.setBank level ((m.core.bank level).map arrive) }
    if level = m.core.tlevel then landSlot m level entry else m)

/-- BINIT_DEFERRED, R160, R252: performed in a later cycle, once no BINIT of a lower core stands before it. -/
def execBinitDeferred (s : State) : Out :=
  .next (match s.cur.core.binit with
    | some (key, x) =>
      s.passTime.setCur fun m =>
        let m := coreIdle m
        if (m.peersAt key).any fun o => o.2.1 == 0 && decide (o.1 < m.core.rank) then barrierRest m
        else barrierRest (barrierCycle { m with core := { m.core with binit := none } } key [(m.core.rank, 0, x.toNat)])
    | none => s)

/-- DRAIN_CYCLE, R68: a cycle of END's or ERET's wait. -/
def execDrainCycle (s : State) : Out :=
  .next (if s.cur.core.status = .ending ∨ s.cur.core.tlevel ≠ 0 then s.passTime.setCur fun m => barrierRest (tick m) else s)

/-- STORE_LOST_FAULT, R368, R422: taken at the boundary before the next bundle. -/
def execStoreLostFault (pa : Word) (s : State) : Out :=
  .next (s.setCur fun m =>
    if m.core.status = .running ∧ m.core.lost = some pa ∧ m.core.empties = 0 ∧ !m.core.endDue then
      enterTrap { m with core := { m.core with lost := none } } 0x32 pa m.core.pc true
    else m)

end Sys2Proof.Machine
end

