-- ==== Sys2Proof/Machine/Health.lean ====
section
/-! DEFINITION. The fabric and the control window, bring-up, heat, store-layer shutdown, errors, retirement and routine
images (R226, R317, R409 to R411, R418 to R426). -/

namespace Sys2Proof.Machine

/-! ## Accesses of fabric endpoints (R409, R410): the hub's L2 TLB serves them (log 55) -/

/-- A part of a VIRT read within one page: its bytes, and whether any is poisoned. -/
def fabricRead (m : Mach) (vmid va n : Nat) : Mach × Option (List Byte × Bool) :=
  match m.translate vmid va .read (.die 4) with
  | (.ok leaf pa, u) =>
    let m := m.applyUpd u
    let (mem, b, poi) := m.mem.load (effComp (leafComp leaf) (pa / 128)) pa n
    ({ m with mem := mem }, some (b, poi))
  | (.fault _, _) => (m, none)

/-- The place of a part of a VIRT write. -/
def fabricPlace (m : Mach) (vmid va : Nat) : Mach × Option (Nat × Bool) :=
  match m.translate vmid va .token (.die 4) with
  | (.ok leaf pa, u) => (m.applyUpd u, some (pa, effComp (leafComp leaf) (pa / 128)))
  | (.fault _, _) => (m, none)

def Mach.reply (m : Mach) (r : Option (List Byte)) : Mach := { m with replies := m.replies ++ [r] }

/-- The bytes of an access that lie in its first page. -/
def firstPart (va n : Nat) : Nat := min n (65536 - va % 65536)

/-- Bytes of a VIRT read over the pages it touches; none where one of them does not allow it. -/
def virtRead (m : Mach) (vmid va n : Nat) : Mach × Option (List Byte × Bool) :=
  let n1 := firstPart va n
  match fabricRead m vmid va n1 with
  | (m, none) => (m, none)
  | (m, some (b, poi)) =>
    if n1 = n then (m, some (b, poi))
    else match fabricRead m vmid (va + n1) (n - n1) with
      | (m, none) => (m, none)
      | (m, some (c, poi2)) => (m, some (b ++ c, poi || poi2))

/-- The release clock of a sector that an agent outside the dies writes as a release at SYS: every write applied so far (R296,
R300). -/
def Mem.stampAll (m : Mem) (sec : Nat) : Mem := { m with relClk := spSet [] m.relClk sec ((List.range 9).map m.hcOf) }

/-- A write at the home of an agent outside the dies. -/
def virtStore (m : Mach) (release comp : Bool) (pa : Nat) (b : List Byte) : Mach :=
  let mem := m.mem.store comp pa b
  let secs := (List.range ((pa % 128 + b.length + 127) / 128)).map (pa / 128 + ·)
  { m with mem := if release then secs.foldl Mem.stampAll mem else mem, coll := m.coll.afterWrite m.mem mem pa b.length }

/-- A VIRT write, whole or not at all. -/
def virtWrite (m : Mach) (vmid va : Nat) (release : Bool) (b : List Byte) : Mach × Bool :=
  let n1 := firstPart va b.length
  match fabricPlace m vmid va with
  | (m, none) => (m, false)
  | (m, some (pa, comp)) =>
    if n1 = b.length then (virtStore m release comp pa b, true)
    else match fabricPlace m vmid (va + n1) with
      | (m, none) => (m, false)
      | (m, some (pa2, comp2)) => (virtStore (virtStore m release comp pa (b.take n1)) release comp2 pa2 (b.drop n1), true)

/-- A VIRT access: one of an agent at scope SYS, of at most a frame's payload. One that is not admitted, lies in the quad window,
or fails translation returns an error completion. What a poisoned sector reads as is free. -/
def virtAccess (a : FabricAccess) (s : State) : State :=
  let m := s.cur
  let va := a.va.toNat
  let len := match a.write with
    | some b => b.length
    | none => a.len
  let ok := m.admitted a.vmid a.campus a.pkg && decide (a.vmid < 96) && !inWindow va && decide (va + len ≤ 2 ^ 52)
  if 4064 < len ∨ len = 0 then s
    else if !ok then { s with cur := m.reply none }
    else match a.write with
      | none => match virtRead m a.vmid va len with
        | (m, none) => { s with cur := m.reply none }
        | (m, some (b, poi)) =>
          { s.used with cur := m.reply (some (if poi then natBytes (Config.freeNat s.freeIdx) len else b)) }
      | some b => match virtWrite m a.vmid va a.release b with
        | (m, true) => { s with cur := m.reply (some []) }
        | (m, false) => { s with cur := m.reply none }

/-! ## The control window (R409, R411, R420, R425, R426) -/

/-- FEATURE_ACCEPT, R420: written once per bring-up. -/
def acceptFeatures (m : Mach) (mask : BitVec 512) : Mach :=
  if m.info.state = 1 ∧ !m.info.accepted then
    { m with info := { m.info with accept := mask &&& m.info.offer, accepted := true, state := 2 } }
  else m

/-- PENDING cleared by a write of 0 to bit 63. -/
def clearPending (m : Mach) : Mach :=
  { m with info := { m.info with replace := m.info.replace &&& BitVec.ofNat 64 (2 ^ 63 - 1) } }

/-- A write to IMGADDR, ignored while a request is in progress. -/
def askImage (m : Mach) (pa : Word) : Mach :=
  if m.info.imgstat = 0xFF then m else { m with info := { m.info with imgaddr := pa, imgstat := 0xFF } }

/-- FEATURE_ACCEPT, R420. -/
def execFeatureAccept (mask : BitVec 512) (s : State) : Out := .next (s.setCur (acceptFeatures · mask))

/-- REPLACE_CLEAR, R425. -/
def execReplaceClear (s : State) : Out := .next (s.setCur clearPending)

/-- IMGADDR, R426. -/
def execImgaddr (pa : Word) (s : State) : Out := .next (s.setCur (askImage · pa))

/-- DBBASE: offset of the doorbells in the control window (R406, R411). -/
def dbBase : Nat := 0x100000

/-- The device information block (R411); its reserved bytes read as zero (R5). -/
def Info.block (i : Info) : List Byte :=
  natBytes i.offer.toNat 64 ++ natBytes i.accept.toNat 64 ++ natBytes dbBase 8 ++ natBytes i.quadMask.toNat 8 ++
  natBytes i.stackMask.toNat 2 ++ natBytes i.isthMask.toNat 4 ++ natBytes i.portMask.toNat 1 ++ natBytes i.state.toNat 1 ++
  natBytes i.hbmcap.toNat 8 ++ natBytes i.pcret.toNat 128 ++ natBytes i.replace.toNat 8 ++ natBytes i.imgaddr.toNat 8 ++
  natBytes i.imgstat.toNat 8 ++ natBytes i.vbrange.toNat 2 ++ natBytes 0 198

/-- A byte read in the control window: of the block, else free, for nothing says what a doorbell reads as (R409; log 46). -/
def ctlByte (i : Info) (idx off : Nat) : Byte := if off < 512 then i.block.getD off 0 else BitVec.ofNat 8 (Config.freeNat (idx + off))

/-- CTL_WRITE, R406, R409, R411: by an admitted endpoint of device 0, or a privileged context of it; a doorbell by one that
its own device admits. Everything else is ignored. -/
def execCtlWrite (from_ : CtlSource) (off : Nat) (data : List Byte) (s : State) : Out :=
  let m := s.cur
  let v := bytesNat data
  let ok := match from_ with
    | .endpoint campus pkg => m.admitted 0 campus pkg
    | .context => true
  if dbBase ≤ off ∧ data.length = 8 ∧ off % 8 = 0 then
    execDoorbell from_ ((off - dbBase) / 4096) ((off - dbBase) % 4096 / 8) (BitVec.ofNat 64 v) s
  else .next (s.setCur fun m =>
    if !ok then m
    else if off = 64 ∧ data.length = 64 then acceptFeatures m (BitVec.ofNat 512 v)
    else if off = 288 ∧ data.length = 8 ∧ v / 2 ^ 63 = 0 then clearPending m
    else if off = 296 ∧ data.length = 8 then askImage m (BitVec.ofNat 64 v)
    else if off = 312 ∧ data.length = 2 ∧ 1 ≤ v ∧ v ≤ 125 then { m with info := { m.info with vbrange := BitVec.ofNat 16 v } }
    else m)

/-- FABRIC_VIRT_ACCESS, R409, R410: an access of a fabric endpoint to a device's addresses, or to the control window; a module
whose firmware does not run gives no answer (R418). -/
def execFabricVirtAccess (a : FabricAccess) (s : State) : Out :=
  if !s.cur.up then .next s
  else if a.ctl then
    match a.write with
    | some b =>
      match execCtlWrite (.endpoint a.campus a.pkg) a.va.toNat b s with
      | .next s => .next { s with cur := s.cur.reply (some []) }
      | o => o
    | none =>
      .next (if 4064 < a.len then s
        else
          let b := (List.range a.len).map fun k => ctlByte s.cur.info s.freeIdx (a.va.toNat + k)
          { s with cur := s.cur.reply (some b), freeIdx := s.freeIdx + a.va.toNat + a.len })
  else .next (virtAccess a s)

/-! ## Routine images (R426) -/

/-- The result of an image request, with the record's INDEX, IMAGEID and VERSION. The order of the two refusals that can
both hold is free. -/
def imageResult (m : Mach) (pa : Nat) (first : Bool) : Nat × Nat × Nat × Nat :=
  let head := (m.mem.load false pa 16).2.1
  let idx := field head 0 1
  let len := field head 12 4
  let body := (m.mem.load false pa (16 + len)).2.1
  let sig := (m.mem.load false (pa + 16 + len) 64).2.1
  let bad := !edVerify Config.horyelKey (sha512 body) sig
  let named := m.images.any (fun i => i.1 == idx) && m.kernels.any fun k => k.routRefs.any fun r => r.1 == idx
  let st :=
    if pa % 64 ≠ 0 ∨ idx < 32 ∨ 63 < idx ∨ field head 1 3 ≠ 0 ∨ len % 8 ≠ 0 ∨ 65536 < len then 0x03
    else if bad ∧ named then (if first then 0x01 else 0x02)
    else if bad then 0x01
    else if named then 0x02
    else 0x00
  (st, idx, field head 4 4, field head 8 4)

/-- IMGSTAT_WRITE, R288, R426: the image asked for is read, verified and installed on every core. -/
def execImgstatWrite (s : State) : Out :=
  .next (if s.cur.info.imgstat = 0xFF then
      s.used.setCur fun m =>
        let pa := m.info.imgaddr.toNat
        let (st, idx, id, ver) := imageResult m pa (Config.freeBit s.freeIdx)
        { m with
          mem := m.mem.touch pa (80 + bytesNat (m.mem.load false (pa + 12) 4).2.1)
          info := { m.info with imgstat := BitVec.ofNat 64 st }
          images := if st = 0 then m.images.filter (fun i => i.1 != idx) ++ [(idx, id, ver)] else m.images }
    else s)

/-! ## Retirement (R424) -/

/-- A main group placed on the quad. -/
def onQuad (q : Nat) (p : Placed) : Bool := !p.oasis && decide (p.base / 4 ≤ q) && decide (q ≤ (p.base + p.size - 1) / 4)

/-- A context is on the quad, or work of one. -/
def Mach.quadHeld (m : Mach) (q : Nat) : Bool :=
  m.disp.placed.any (onQuad q) ||
    (q == m.core.num / 4 && (m.core.status != .idle || !m.core.eng.isEmpty || m.core.busy))

/-- What pre-empted groups left in place on the followed quad is saved (R392, R424; log 49). -/
def saveInPlace (m : Mach) : Mach :=
  let m := (m.disp.saved.flatMap (·.left)).foldl saveEighth m
  let m := match m.arrLeft with
    | some a => stashArray { m with arrLeft := none } a
    | none => m
  stashArray m m.arr

/-- Of a saved group, nothing is left in place on cores picked by a test. -/
def Saved.gone (v : Saved) (p : Nat → Bool) : Saved := { v with away := v.away.filter (!p ·) }

/-- The quad is retired: nothing of a context is left on it. -/
def clearQuad (m : Mach) (q reason : Nat) : Mach :=
  let m := if q = m.core.num / 4 then saveInPlace m else m
  raiseReplace { m with
    disp := { m.disp with saved := m.disp.saved.map fun v : Saved => v.gone fun n => n / 4 == q }
    retiring := m.retiring.filter (·.1 != q)
    info := { m.info with quadMask := m.info.quadMask &&& ~~~BitVec.ofNat 36 (2 ^ q) }.reoffer } reason

/-- A group that a quad's retirement may ask to leave now (R391). -/
def mayAsk (m : Mach) (q : Nat) (p : Placed) : Bool := onQuad q p && p.preempt.isNone && decide (p.noAsk.toNat ≤ m.ftime.toNat)

/-- Retire a quad; where it holds a group, that is asked to leave first, with the others of a PKG_GANG launch, and the quad is
retired once it has left (R390, R391, R424). -/
def retireQuad (m : Mach) (q reason : Nat) : Mach :=
  if !m.info.quadMask.getLsbD q then m
  else if m.quadHeld q then
    let asked := (m.disp.placed.filter (mayAsk m q)).flatMap m.disp.together
    let ask (p : Placed) : Placed := if asked.contains p ∧ p.preempt.isNone then { p with preempt := some m.ftime } else p
    { m with
      disp := { m.disp with placed := m.disp.placed.map ask }
      retiring := if m.retiring.any (·.1 == q) then m.retiring else m.retiring ++ [(q, reason)] }
  else clearQuad m q reason

/-- A quad that is being retired can go, or has a group to be asked to leave. -/
def Mach.mayLeave (m : Mach) (q : Nat) : Bool := !m.quadHeld q || m.disp.placed.any (mayAsk m q)

/-- The retirement of a quad goes on. -/
def leaveQuad (m : Mach) (q : Nat) : Mach :=
  match m.retiring.find? (·.1 == q) with
  | some r => retireQuad m q r.2
  | none => m

/-- Retire a pseudo-channel: its addresses stay, and HBMCAP falls by its share of its stack. -/
def retireChannel (m : Mach) (stack bit : Nat) : Mach :=
  let k := 64 * stack + bit
  if 1024 ≤ k ∨ 64 ≤ bit ∨ m.info.pcret.getLsbD k then m
  else raiseReplace { m with info := { m.info with
      pcret := m.info.pcret ||| BitVec.ofNat 1024 (2 ^ k)
      hbmcap := m.info.hbmcap - 1500004352 } } 2

/-- Retire a link, or a port, that is idle. -/
def retireIdleLink (m : Mach) (n : Nat) : Mach :=
  let l := m.link n
  if n < 36 ∧ m.linkUsable n ∧ l.unacked = [] ∧ l.queue = [] then (retireLink m n).offerNow else m

/-- RESOURCE_RETIRE, R424, R425. -/
def execResourceRetire (r : Resource) (s : State) : Out :=
  .next (s.setCur fun m =>
    match r with
    | .core n => retireQuad m (n / 4) 1
    | .quad q => retireQuad m q 1
    | .channel stack bit => retireChannel m stack bit
    | .link n => if n < 32 then retireIdleLink m n else m
    | .port n => retireIdleLink m (32 + n))

/-! ## Bring-up (R418, R419) -/

/-- Device 0's record, and its signers from the configuration record (R97, R403, R404). -/
def writeDevice0 (mem : Mem) (record : List Byte) (signers : List (List Byte)) : Mem :=
  let record := padTo 128 (record.take 128)
  let mem := mem.homeStore false Config.vdevTable record
  let a := field record 88 8
  if a = 0 then mem
  else mem.homeStore false a (natBytes (min 16 signers.length) 8 ++ (signers.take 16).flatMap (padTo 32))

def freshDie (t : Int) (spares : Nat) : Die := ⟨t, t, false, false, spares, false, false, []⟩

/-- The module as bring-up finds it, before retirements. FTIME never falls (R112); the followed cores stay the same, and so do
the counts of training attempts, for no key or nonce comes twice (R416, R417). -/
def rebuilt (m : Mach) : Mach :=
  { Mach.reset with
    core := { Core.reset with num := m.core.num }
    oas := { Oasis.reset with num := m.oas.num }
    ftime := m.ftime
    links := m.links.map fun e => (e.1, e.2.map fun l => { Link.fresh with attempt := l.attempt })
    inbox := m.inbox
    replies := m.replies
    info := { Mach.reset.info with mctp := m.info.mctp } }

/-- BRING_UP, R17, R411, R418 to R420, R424: everything is rebuilt, and the retry buffers of the ports in Strait mode are taken
from HBM; what fails a test is retired; the module offers its features once the links that are left have trained. Firmware that
fails verification leaves it in BRINGUP. -/
def execBringUp (r : BringUp) (s : State) : Out :=
  let m := rebuilt s.cur
  .next { s with cur :=
    if !r.firmwareOk then m
    else
      let m := { m with
        dies := (List.range 9).foldl (fun d k => spSet none d k (some (freshDie (r.temps.getD k 0) (r.spares.getD k 0)))) m.dies
        info := { m.info with
          quadMask := BitVec.allOnes 36, stackMask := r.stackMask, isthMask := BitVec.allOnes 32, portMask := BitVec.allOnes 4
          hbmcap := BitVec.ofNat 64 (r.hbmcap.toNat - bufferBytes 32 * (bitsOf r.strait.toNat 4).length)
          campus := r.campus, pkg := r.pkg, strait := r.strait, cxl := r.cxl } }
      let m := if r.recordOk then m else raiseReplace m 6
      let m := ((r.badCores.map (· / 4)).eraseDups).foldl (fun m q => retireQuad m q 1) m
      let m := ((r.badBuses).eraseDups).foldl (fun m q => retireQuad m q 4) m
      let m := r.badChannels.foldl (fun m c => retireChannel m c.1 c.2) m
      let m := (r.badLinks.filter (· < 32)).foldl retireIdleLink m
      let m := ((r.badPorts.filter (· < 4)).map (32 + ·)).foldl retireIdleLink m
      { m with mem := writeDevice0 m.mem r.device0 (if r.recordOk then r.signers else []) }.offerNow }

/-! ## Heat and vertical buses (R421) -/

def Mach.health (m : Mach) (d : Nat) : Die := (spGet none m.dies d).getD (freshDie 0 0)
def Mach.setDie (m : Mach) (d : Nat) (f : Die → Die) : Mach := { m with dies := spSet none m.dies d (some (f (m.health d))) }

/-- No group is placed on the die. -/
def Mach.dieEmpty (m : Mach) (d : Nat) : Bool :=
  m.disp.placed.all fun p => p.oasis || (!(decide (p.base / 16 ≤ d) && decide (d ≤ (p.base + p.size - 1) / 16)))

/-- TEMPERATURE_SWING, R421: a difference above VBRANGE from the recorded temperature marks the die's vertical buses. -/
def execTemperatureSwing (die : Nat) (temp : Int) (s : State) : Out :=
  .next (if 9 ≤ die then s else s.setCur fun m => m.setDie die fun d =>
    { d with now := temp, retest := d.retest || decide (m.info.vbrange.toNat < (temp - d.temp).natAbs) })

/-- VBUS_RETEST, R421: at the die's next idle window; nothing is placed on it meanwhile. -/
def execVbusRetest (die : Nat) (s : State) : Out :=
  .next (s.setCur fun m =>
    if die < 9 ∧ (m.health die).retest ∧ !(m.health die).testing ∧ m.dieEmpty die then m.setDie die fun d => { d with testing := true }
    else m)

/-- VBUS_RETEST_DONE, R421: failing lanes take spares; without enough, the quads that lack a lane are retired. -/
def execVbusRetestDone (die lost : Nat) (quads : List Nat) (s : State) : Out :=
  .next (s.setCur fun m =>
    let d := m.health die
    if die < 9 ∧ d.testing then
      let m := m.setDie die fun d => { d with temp := d.now, retest := false, testing := false, spares := d.spares - lost }
      if lost ≤ d.spares then m else (quads.filter (· / 4 == die)).foldl (fun m q => retireQuad m q 4) m
    else m)

/-! ## Store-layer shutdown (R422) -/

/-- STORE_LAYER_TRIP, R422 step 1: the home function moves to the memory side. The third trip within 24 hours asks for
replacement (R425). -/
def execStoreLayerTrip (die : Nat) (s : State) : Out :=
  .next (s.setCur fun m =>
    if 9 ≤ die ∨ (m.health die).tripped then m
    else
      let recent := ((m.health die).trips.filter fun t => decide (m.ftime.toNat < t.toNat + 86400 * 10 ^ 9)) ++ [m.ftime]
      let m := m.setDie die fun d => { d with tripped := true, lost := false, trips := recent }
      let m := { m with mem := { m.mem with down := m.mem.down ++ [die] } }
      if 3 ≤ recent.length then raiseReplace m 5 else m)

/-- The fast poison command on a sector of the memory side (R226, R422). -/
def sidePoison (m : Mem) (key : Nat) : Mem :=
  { m with l2 := spSet none m.l2 key none }.setPoison (key % 2 == 1) (key / 2)

/-- A saved group after the loss of the die with the followed quad: what it left in place there is lost, and the SPLIT of a rank
that left something reads 0 (R422; log 49). -/
def Saved.loses (v : Saved) : Saved :=
  { v with
    left := []
    splits := v.splits.map fun x => if v.left.any (· / 128 == x.1) then (x.1, 0) else x }

/-- Steps 4 and 5 on the followed core's die. What the array state then holds is free. -/
def loseStore (m : Mach) (first idx : Nat) : Mach :=
  let c := m.core
  let lost (owner : Option (Nat × Nat)) : ArrState := { freshArray false idx (0, 0) with owner := owner }
  let end_ (o : EngOp) : EngOp := if isM o ∧ o.started then { o with status := worse o.status 0x06, info := 0 } else o
  let dead := (c.eng.filter fun o => isM o && o.started).map end_
  let c := dead.foldl (fun c o => completeOp c o o.status 0) c
  { m with
    quad := ⟨[], [], [], []⟩
    arr := lost m.arr.owner
    arrLeft := m.arrLeft.map fun a => lost a.owner
    mem := { m.mem with rdc := [] }
    core := { c with lost := if c.status = .idle then c.lost else some (BitVec.ofNat 64 first) }
    disp := { m.disp with saved := m.disp.saved.map Saved.loses } }

/-- STORE_LAYER_DEADLINE, R422 steps 3 to 5. -/
def execStoreLayerDeadline (die : Nat) (s : State) : Out :=
  .next (({ s with freeIdx := s.freeIdx + 2 * planeSize + gradSize }).setCur fun m =>
    let d := m.health die
    if die < 9 ∧ d.tripped ∧ !d.lost then
      let dirty := (m.mem.l2.filter (dirtyIn die)).map Prod.fst
      let first := match dirty.map fun k => k / 2 * 128 with
        | [] => 0
        | a :: t => t.foldl min a
      let mem := dirty.foldl sidePoison m.mem
      let mem := { mem with l2 := mem.l2.filter fun e => homeDie (e.1 / 2 * 128) != die }
      let m := { m.setDie die (fun d => { d with lost := true }) with
        mem := mem
        disp := { m.disp with saved := m.disp.saved.map fun v : Saved => v.gone fun n => n / 16 == die } }
      if m.core.die = die then loseStore m first s.freeIdx else m
    else m)

/-- STORE_LAYER_RESTART, R422: once the die is 10 °C below the trip point the store layer restarts, empty. -/
def execStoreLayerRestart (die : Nat) (s : State) : Out :=
  .next (s.setCur fun m =>
    if (m.health die).lost ∧ (m.health die).now ≤ Config.tripPoint - 10 then
      let m := m.setDie die fun d => { d with tripped := false, lost := false }
      { m with mem := { m.mem with down := m.mem.down.filter (· != die) } }
    else m)

/-! ## Power and errors (R226, R257, R317, R423) -/

/-- POWER_CAP, R423: idle cycles; no result changes, only time. -/
def execPowerCap (s : State) : Out := .next s.passTime

/-- The array state whose bytes the core stores: that of a pre-empted context until another takes the array (R256, R257). -/
def setStored (m : Mach) (f : ArrState → ArrState) : Mach := match m.arrLeft with
  | some a => { m with arrLeft := some (f a) }
  | none => { m with arr := f m.arr }

/-- Poison where an uncorrectable error fell. -/
def errorAt (m : Mach) : ErrorPlace → Mach
  | .sector n =>
    let held (c : Sp (Option Sector)) : Bool := (spGet none c (ckey true n)).isSome
    { m with mem := m.mem.setPoison (held m.mem.l2 || held m.mem.msc) n }
  | .bin line =>
    let secs := (((m.mem.bins.filter fun b => b.line == line).flatMap fun b => b.entries.map fun e => e.1 / 128).eraseDups)
    { m with mem := secs.foldl (fun mem k => mem.setPoison false k) m.mem }
  | .cell plane cell =>
    if 16384 ≤ cell then m
    else setStored m fun a =>
      if plane then { a with poi1 := spSet false a.poi1 cell true } else { a with poi0 := spSet false a.poi0 cell true }
  | .gradient cell => if 16384 ≤ cell then m else setStored m fun a => { a with poiG := spSet false a.poiG cell true }
  | .record plane row =>
    if 128 ≤ row then m
    else setStored m fun a =>
      if plane then { a with poi1 := spSet false a.poi1 (16384 + row) true } else { a with poi0 := spSet false a.poi0 (16384 + row) true }
  | .scratch rank sector =>
    if 4 ≤ rank ∨ 2 ^ 19 ≤ sector then m else { m with quad := m.quad.poison (rank * 2 ^ 26 + sector * 128) }
  | .buffer slot sector =>
    if 64 ≤ slot ∨ 8 ≤ sector then m else { m with oas := { m.oas with bufPoison := spSet false m.oas.bufPoison (slot * 8 + sector) true } }

/-- UNCORRECTABLE_ERROR, R226, R257, R317. -/
def execUncorrectableError (loc : ErrorPlace) (s : State) : Out := .next (s.setCur (errorAt · loc))

end Sys2Proof.Machine
end

