-- ==== Sys2Proof/Machine/Real.lean ====
section
/-! DEFINITION. The real functions of the X slot to far more digits than their bounds need, in integers scaled by 2¹⁶⁰,
and the bounds themselves (R191, R196). They serve only to keep a free result inside its bound (log 12). -/

namespace Sys2Proof.Machine

/-- Scale of the fixed-point numbers. -/
def fxOne : Int := 2 ^ 160
def fxMul (a b : Int) : Int := a * b / fxOne
def fxDiv (a b : Int) : Int := a * fxOne / b

/-- ln 2, π/2, 2/√π and 1/√2, scaled. -/
def fxLn2 : Int := 1013035739299659071135698605846798551586536899366
def fxPi2 : Int := 2295721403524109460692402599871655564227077512209
def fxErf : Int := 1649128000240172121335468122222580532118151184855
def fxRt2 : Int := 1033437718471923706666374484006904511252097097914

/-- A finite value scaled, rounded down. -/
def fxOf (v : Val) : Int :=
  match v with
  | .fin s n d => sgn s n * fxOne / d
  | _ => 0

/-- A scaled number as a value. -/
def fxVal (x : Int) : Val := .fin (decide (x < 0)) x.natAbs (2 ^ 160)

/-- Σ termₖ with termₖ₊₁ = termₖ · r / (k + 1): the exponential series; the fuel is how many terms. -/
def expSeries (r : Int) : Nat → Nat → Int → Int
  | 0, _, _ => 0
  | n + 1, k, t => t + expSeries r n (k + 1) (fxMul t r / (k + 1))

/-- A scaled number held within ±700: beyond that every power is past what FP32 tells apart. -/
def fxClamp (x : Int) : Int := max (-(700 * fxOne)) (min (700 * fxOne) x)

/-- e^x for a scaled x, as a value. -/
def expVal (x : Int) : Val :=
  let x := fxClamp x
  let k := x / fxLn2
  (fxVal (expSeries (x - k * fxLn2) 45 0 fxOne)).scale k

/-- Σ z^(2k+1) / (2k+1): the series of atanh. -/
def atanhSeries (z2 : Int) : Nat → Nat → Int → Int
  | 0, _, _ => 0
  | n + 1, k, t => t / (2 * k + 1) + atanhSeries z2 n (k + 1) (fxMul t z2)

/-- ln m for a scaled m between 1 and 2. -/
def lnUnit (m : Int) : Int :=
  let z := fxDiv (m - fxOne) (m + fxOne)
  2 * atanhSeries (fxMul z z) 60 0 z

/-- ln v and log₂ v for a positive v, scaled. -/
def lnFx (v : Val) : Int :=
  match v with
  | .fin _ n d => if n = 0 then 0 else
    let e := ratLog n d
    lnUnit (fxOf ((Val.fin false n d).scale (-e))) + e * fxLn2
  | _ => 0
def log2Fx (v : Val) : Int :=
  match v with
  | .fin _ n d => if n = 0 then 0 else
    let e := ratLog n d
    fxDiv (lnUnit (fxOf ((Val.fin false n d).scale (-e)))) fxLn2 + e * fxOne
  | _ => 0

/-- Σ over k of termₖ / (2k+1) with termₖ₊₁ = −termₖ · z / (k + 1): erf x = (2/√π) · x · this at z = x². -/
def erfSeries (z : Int) : Nat → Nat → Int → Int
  | 0, _, _ => 0
  | n + 1, k, t => t / (2 * k + 1) + erfSeries z n (k + 1) (-(fxMul t z) / (k + 1))

/-- erf of a value; where it is nearer to ±1 than a scaled number shows, the last number short of that. -/
def erfVal (v : Val) : Val :=
  let x := fxOf v
  if 6 * fxOne ≤ x then fxVal (fxOne - 1)
  else if x ≤ -(6 * fxOne) then fxVal (1 - fxOne)
  else (fxVal (fxMul fxErf (erfSeries (fxMul x x) 160 0 fxOne))).mul v

/-- Σ termₖ with termₖ₊₁ = −termₖ · (2k + 1) · r: the series of erfc z in r = 1/(2z²). -/
def erfcSeries (r : Int) : Nat → Nat → Int → Int
  | 0, _, _ => 0
  | n + 1, k, t => t + erfcSeries r n (k + 1) (-(fxMul t r) * (2 * k + 1))

/-- erfc z for a scaled z of 6 and more. -/
def erfcVal (z : Int) : Val :=
  let z2 := fxMul z z
  ((expVal (-z2)).mul (fxVal (erfcSeries (fxDiv fxOne (2 * z2)) 30 0 fxOne))).mul (fxVal (fxDiv (fxErf / 2) z))

/-- x · Φ(x). -/
def geluVal (v : Val) : Val :=
  let z := fxOf (v.abs.mul (fxVal fxRt2))
  if z < 6 * fxOne then (v.mul ((Val.fin false 1 1).add 0 (erfVal (v.mul (fxVal fxRt2))))).scale (-1)
  else
    let tail := (v.abs.mul (erfcVal z)).scale (-1)
    if v.sign then (Val.fin false 0 1).sub 0 tail else v.sub 0 tail

/-- sin and cos of a reduced scaled angle, by their series. -/
def trigSeries (r2 : Int) : Nat → Nat → Int → Int
  | 0, _, _ => 0
  | n + 1, k, t => t + trigSeries r2 n (k + 2) (-(fxMul t r2) / ((k + 1) * (k + 2)))

/-- sin (q = 0) or cos (q = 1) of a scaled angle. -/
def trigVal (q : Int) (x : Int) : Val :=
  let k := x / fxPi2
  let r := x - k * fxPi2
  let sn := trigSeries (fxMul r r) 40 1 r
  let cs := trigSeries (fxMul r r) 40 0 fxOne
  let v := match (k + q) % 4 with
    | 0 => sn
    | 1 => cs
    | 2 => -sn
    | _ => -cs
  fxVal v

/-- 1 + v, 1 − v. -/
def onePlus (v : Val) : Val := (Val.fin false 1 1).add 0 v

/-- 1 / (1 + e^−x). -/
def sigmVal (v : Val) : Val := (Val.fin false 1 1).div (onePlus (expVal (-(fxOf v))))

/-- tanh x. -/
def tanhVal (v : Val) : Val :=
  let x := fxOf v
  if x.natAbs < 2 ^ 140 then v.sub 0 ((v.mul (v.mul v)).mul (.fin false 1 3))
  else if 40 * fxOne ≤ x then fxVal (fxOne - 1)
  else if x ≤ -(40 * fxOne) then fxVal (1 - fxOne)
  else
    let e := expVal (2 * x)
    (e.sub 0 (.fin false 1 1)).div (onePlus e)

/-- ln(1 + w) for a w of at most e^−20. -/
def lnSmall (w : Val) : Val := (w.sub 0 ((w.mul w).scale (-1))).add 0 ((w.mul (w.mul w)).mul (.fin false 1 3))

/-- ln(1 + e^x); for a large x, x + ln(1 + e^−x). -/
def softplusVal (v : Val) : Val :=
  let x := fxOf v
  if x ≤ -(20 * fxOne) then lnSmall (expVal x)
  else if 20 * fxOne ≤ x then v.add 0 (lnSmall (expVal (-x)))
  else fxVal (lnFx (onePlus (expVal x)))

/-- f(x) of index idx to many digits, for a finite x that no special value covers (R191). -/
def realFn (idx : Nat) (v : Val) : Val :=
  match idx with
  | 0 => let x := fxClamp (fxOf v); let k := x / fxOne; (fxVal (expSeries (fxMul (x - k * fxOne) fxLn2) 45 0 fxOne)).scale k
  | 1 => fxVal (log2Fx v)
  | 5 => tanhVal v
  | 6 => sigmVal v
  | 7 => geluVal v
  | 8 => erfVal v
  | 9 => trigVal 0 (fxOf v)
  | 10 => trigVal 1 (fxOf v)
  | 11 => expVal (fxOf v)
  | 12 => v.mul (sigmVal v)
  | _ => softplusVal v

/-- |v|, and a power of two. -/
def pow2 (k : Int) : Val := (Val.fin false 1 1).scale k

/-- FP32 spacing at a value. -/
def ulpOf (v : Val) : Val :=
  match v with
  | .fin _ n d => if n = 0 then pow2 (-149) else pow2 (max (ratLog n d) (-126) - 23)
  | _ => pow2 (-149)

/-- The bound of R196 for index idx at x, where f(x) = y. -/
def errBound (idx : Nat) (x y : Val) : Val :=
  let u := ulpOf y
  match idx with
  | 0 | 3 => u
  | 1 =>
    if !(x.lt (.fin false 1 2)) && !((Val.fin false 2 1).lt x) then u.max (pow2 (-23)) else u
  | 7 | 12 => if y.abs.lt (pow2 (-6)) then pow2 (-30) else u.mul (.fin false 3 1)
  | 9 | 10 => if (pow2 10).lt x.abs then ((x.abs.mul (pow2 (-24))).add 0 (pow2 (-22))) else pow2 (-22)
  | _ => u.mul (.fin false 2 1)

def Val.isFin : Val → Bool
  | .fin _ _ _ => true
  | _ => false

/-- A code keeps the bound: finite, near enough, and for sine and cosine within [−1, 1]. -/
def keepsBound (idx : Nat) (x y : Val) (c : Nat) : Bool :=
  let v := decF 0 c
  v.isFin && !((errBound idx x y).lt ((v.sub 0 y).abs)) && !((idx == 9 || idx == 10) && (Val.fin false 1 1).lt v.abs)

end Sys2Proof.Machine
end

