-- ==== Sys2Proof/Machine/Special.lean ====
section
/-! DEFINITION. The X slot: special functions, user micro-programs and XMOV (R190 to R205). -/

namespace Sys2Proof.Machine

/-! ## Architected functions (R191 to R198) -/

/-- The special values and exact cases of R196 on an FP32 code that is no NaN; none where only the bound holds. -/
def exactFn (idx c : Nat) : Option Nat :=
  let v := decF 0 c
  let pz := 0
  let nz := 0x80000000
  let one := 0x3F800000
  let inf := 0x7F800000
  let ninf := 0xFF800000
  let nan := 0x7FC00000
  let neg := v.sign
  match v with
  | .nan => some nan
  | .inf s =>
    match idx with
    | 0 | 11 => some (if s then pz else inf)
    | 1 => some (if s then nan else inf)
    | 2 => some (if s then nz else pz)
    | 3 => some (if s then nan else pz)
    | 4 => some (if s then nan else inf)
    | 5 | 8 => some (if s then 0xBF800000 else one)
    | 6 => some (if s then pz else one)
    | 7 | 12 => some (if s then nz else inf)
    | 9 | 10 => some nan
    | _ => some (if s then pz else inf)
  | .fin _ n d =>
    if idx = 2 then some (roundF 0 0 ((Val.fin false 1 1).div v))
    else if idx = 4 then some (roundF 0 0 v.sqrt)
    else if n = 0 then
      match idx with
      | 0 | 11 | 10 => some one
      | 1 => some ninf
      | 3 => some (if neg then ninf else inf)
      | 6 => some 0x3F000000
      | 13 => none
      | _ => some (if neg then nz else pz)
    else
      match idx with
      | 0 =>
        if !(v.lt (.fin false 128 1)) then some inf
        else if n % d = 0 ∧ !(v.lt (.fin true 149 1)) then some (roundF 0 0 (pow2 (sgn neg (n / d))))
        else none
      | 11 => if (Val.fin false 887228 10000).lt v then some inf else none
      | 1 => if neg then some nan
        else
          let e := ratLog n d
          if (Val.scale v (-e)).eq (.fin false 1 1) then some (roundF 0 0 (Val.ofInt e)) else none
      | 3 => if neg then some nan
        else
          let e := ratLog n d
          if (Val.scale v (-e)).eq (.fin false 1 1) ∧ e % 2 = 0 then some (roundF 0 0 (pow2 (-(e / 2)))) else none
      | _ => none

/-- f(x) for an FP32 code, to many digits. -/
def xfnReal (idx c : Nat) : Val := if idx = 3 then invSqrt (decF 0 c) else realFn idx (decF 0 c)

/-- The codes of a function's monotone range, and whether it falls there (R196, R197). -/
def xfnRange (idx c : Nat) : Bool :=
  match idx with
  | 0 | 5 | 6 | 8 | 11 | 13 => true
  | 1 | 4 | 7 | 12 => decide (c < 2 ^ 31)
  | 3 => (Val.fin false 0 1).lt (decF 0 c)
  | _ => false
def xfnFalls (idx : Nat) : Bool := idx == 3

/-- The free function as a whole, with the exact cases of R196. -/
def xfnFree (idx : Nat) (c : BitVec 32) : Nat := (exactFn idx c.toNat).getD (Config.xfn idx 0 c).toNat

/-- Two inputs and their results stand in the order of R197. -/
def xfnOrder (idx : Nat) (a b : BitVec 32) : Bool :=
  let v (c : Nat) : Val := decF 0 c
  !(xfnRange idx a.toNat && xfnRange idx b.toNat && (v a.toNat).lt (v b.toNat)) ||
    !(if xfnFalls idx then (v (xfnFree idx a)).lt (v (xfnFree idx b)) else (v (xfnFree idx b)).lt (v (xfnFree idx a)))

/-- The free function conforms: it keeps the bound of R196 at every input, and the order of R197 (log 12). -/
def xfnConforms (idx : Nat) : Bool :=
  decide (∀ a : BitVec 32, (decF 0 a.toNat).isNaN ∨ exactFn idx a.toNat ≠ none ∨
    keepsBound idx (decF 0 a.toNat) (xfnReal idx a.toNat) (xfnFree idx a)) &&
  decide (∀ a b : BitVec 32, (decF 0 a.toNat).isNaN ∨ (decF 0 b.toNat).isNaN ∨ xfnOrder idx a b)

/-- An architected function on an FP32 code: exact where R196 says so, else the free function's result where that conforms,
and the nearest code where it does not (R196 to R198; log 12). -/
def archFn (idx c : Nat) : Nat :=
  match exactFn idx c with
  | some x => x
  | none => if xfnConforms idx then xfnFree idx (BitVec.ofNat 32 c) else roundF 0 0 (xfnReal idx c)

/-! ## Micro-programs (R199 to R203) -/

/-- The state of one element: W0 to W7 as FP32 codes, K, SI. -/
structure XElem where
  w : List Nat
  k : Int
  si : Nat
  deriving DecidableEq, Repr

def XElem.reg (e : XElem) (n : Nat) : Nat := e.w.getD n 0
def XElem.val (e : XElem) (n : Nat) : Val := decF 0 (e.reg n)
def XElem.set (e : XElem) (n : Nat) (c : Nat) : XElem := { e with w := e.w.set n c }

/-- Fields of a step word (R200). -/
structure XStep where
  kind : Nat
  d : Nat
  s : Nat
  a : Nat
  b : Nat
  mode : Nat
  n : Nat
  p8 : Nat
  imm : Nat
  word : Word
  deriving DecidableEq, Repr

def decStep (w : Word) : XStep :=
  let x := w.toNat
  ⟨bits x 63 60, bits x 59 57, bits x 56 54, bits x 53 51, bits x 50 48, bits x 47 44, bits x 43 40, bits x 39 32, bits x 31 0, w⟩

def clampK (i : Int) : Int := max (-(2 ^ 24)) (min (2 ^ 24) i)

/-- RANGE (R202). The K of a NaN is a free function of the step word (R198; log 28). -/
def stepRange (t : XStep) (e : XElem) : XElem :=
  let v := e.val t.s
  if t.mode ≤ 1 then
    let c := decF 0 t.imm
    match v with
    | .nan => { (e.set t.d 0x7FC00000) with k := clampK (Config.nanK t.word) }
    | .inf s => { (e.set t.d 0x7FC00000) with k := if s != c.sign then -(2 ^ 24) else 2 ^ 24 }
    | .fin _ _ _ =>
      match v.div c with
      | .fin s n d =>
        let q := if t.mode = 0 then sgn s (roundNat 0 s n d) else sgn s n / d
        let k := clampK q
        { (e.set t.d (roundF 0 0 (v.sub 0 ((Val.ofInt k).mul c)))) with k := k }
      | _ => e
  else
    match v with
    | .nan => { (e.set t.d 0x7FC00000) with k := clampK (Config.nanK t.word) }
    | .inf _ => { (e.set t.d (e.reg t.s)) with k := 0 }
    | .fin _ n d =>
      if n = 0 then { (e.set t.d (e.reg t.s)) with k := 0 }
      else
        let l := ratLog n d
        let k := if t.mode = 3 then l - l % 2 else l
        { (e.set t.d (roundF 0 0 (v.scale (-k)))) with k := k }

/-- SEG (R203). -/
def segIndex (t : XStep) (c : Nat) : Nat :=
  let x := c % 2 ^ 31 / 2 ^ 23
  let nb := t.n + 1
  let h := c % 2 ^ 23 / 2 ^ (23 - t.mode)
  if x < t.p8 then 0
  else if t.p8 + nb ≤ x then nb * 2 ^ t.mode - 1
  else (x - t.p8) * 2 ^ t.mode + h

/-- TAB: n words of the table. -/
def tabFrom (table : List Byte) (t : XStep) (e : XElem) : Nat → XElem
  | 0 => e
  | k + 1 => (tabFrom table t e k).set (t.d + k) (field table (t.imm + (e.si * t.n + k) * 4) 4)

/-- HORNER: fused steps from the top coefficient down. -/
def hornerFrom (t : XStep) (e : XElem) : Nat → Val → Val
  | 0, acc => acc
  | k + 1, acc => hornerFrom t e k (rne32 ((acc.mul (e.val t.s)).add 0 (e.val (t.a + k))))

/-- SCALE's exponent; beyond ±600 every result is the same as at ±600. MODE 3 halves K and then negates it, which for an odd K is
not what halving −K gives: the spec does not say which (DESIGN CHOICE, log 62). -/
def scaleBy (t : XStep) (k : Int) : Int :=
  let h := match t.mode with
    | 0 => k
    | 1 => -k
    | 2 => k / 2
    | _ => -(k / 2)
  max (-600) (min 600 (signed 32 (wrap 32 (h + signed 32 t.imm))))

/-- The condition of SEL. -/
def selCond (t : XStep) (e : XElem) : Bool :=
  let c := e.reg t.s
  let m := c % 2 ^ 31
  match t.mode with
  | 0 => decide (2 ^ 31 ≤ c)
  | 1 => m == 0
  | 2 => m == 0x7F800000
  | 3 => (decF 0 t.imm).lt (e.val t.s).abs
  | 4 => (e.val t.s).abs.lt (decF 0 t.imm)
  | 5 => e.k % 2 == 1
  | _ => e.k / 2 % 2 == 1

/-- 12 significant bits of a number in (1/2, 1], rounded toward zero: x = p/q given ⌊4096·x⌋ for x < 1. -/
def rz12 (floor4096 : Nat) (one : Bool) : Val := if one then .fin false 1 1 else .fin false floor4096 4096

/-- RECIP-SEED (R202). -/
def recipSeed (mode : Nat) (v : Val) : Nat :=
  match v with
  | .nan => 0x7FC00000
  | .inf s => if mode = 0 then (if s then 0x80000000 else 0) else if s then 0x7FC00000 else 0
  | .fin s n d =>
    if n = 0 then (if s then 0xFF800000 else 0x7F800000)
    else if mode = 0 then
      let e := ratLog n d
      match (Val.fin false n d).scale (-e) with
      | .fin _ a b =>
        match (rz12 (4096 * b / a) (a == b)).scale (-e) with
        | .fin _ x y => roundF 0 0 (.fin s x y)
        | _ => 0
      | _ => 0
    else if s then 0x7FC00000
    else
      let l := ratLog n d
      let e := l - l % 2
      match (Val.fin false n d).scale (-e) with
      | .fin _ a b => roundF 0 0 ((rz12 (isqrt (2 ^ 24 * b / a)) (a == b)).scale (-(e / 2)))
      | _ => 0

/-- One step of a micro-program but DONE (R202). -/
def xStep (table : List Byte) (t : XStep) (e : XElem) : XElem :=
  match t.kind with
  | 0 => stepRange t e
  | 1 => { e with si := segIndex t (e.reg t.s) }
  | 2 => tabFrom table t e t.n
  | 3 => e.set t.d (roundF 0 0 (hornerFrom t e t.n (e.val (t.a + t.n))))
  | 4 => e.set t.d (roundF 0 0 ((e.val t.s).scale (scaleBy t e.k)))
  | 5 => e.set t.d (if selCond t e then e.reg t.a else e.reg t.b)
  | 6 => e.set t.d (roundF 0 0 (((e.val t.s).max (e.val t.a)).min (e.val t.b)))
  | 7 => e.set t.d t.imm
  | 8 => e.set t.d (recipSeed t.mode (e.val t.s))
  | _ => e

/-- A whole micro-program on an FP32 code: the value that DONE rounds (R201). -/
def userFn (r : XRec) (c : Nat) : Val :=
  let steps := r.steps.map decStep
  let e := (steps.filter (·.kind != 9)).foldl (fun e t => xStep r.table t e) ⟨c :: List.replicate 7 0, 0, 0⟩
  match steps.find? (·.kind == 9) with
  | some t => e.val t.s
  | none => .nan

/-! ## XFN -/

/-- F(x) of an element in FMT (R192, R193, R198). -/
def xfnElem (rec_ : Option XRec) (idx fmt rnd c : Nat) : Nat :=
  if (decF fmt c).isNaN then canonNaN fmt
  else
    let x := convert fmt 0 0 false c
    match rec_ with
    | some r => roundF fmt rnd (userFn r x)
    | none => roundF fmt 0 (decF 0 (archFn idx x))

/-- A user function of the kernel (R95, R199). -/
def Core.userX (c : Core) (idx : Nat) : Option XRec :=
  match c.kernel with
  | some k => if k.xfnMask.getLsbD (idx - 16) then k.xfns.find? (·.index == idx - 16) else none
  | none => none

/-- XFN at any index (R190, R192, R194). -/
def xfnOp (i : Instr) (f : FV) (s : State) : Out :=
  gated i s fun s =>
    let m := s.rd
    let idx := f.aux.toNat % 32
    let user := m.core.userX idx
    if 16 ≤ idx ∧ user = none then s.raise 0x08 (BitVec.ofNat 64 idx)
    else
      let fm := f.fmt.toNat
      let b := fmtBits fm
      let n := f.elems
      let x := if f.sa.toNat < 128 then (m.xRows f (f.sa.toNat % 16)).map (rowElems b n) else m.elems false f f.sa b
      let rows := rowsOut b n (enabled m.core false f)
        (build n fun j k => xfnElem (if 16 ≤ idx then user else none) idx fm f.rnd.toNat (at2 x j k))
      let d := f.dst.toNat % 16
      s.expose clsXF 3 d
        (((List.range 8).zip rows).map fun x => ⟨.x d x.1 x.2.2, x.2.1⟩)

/-- XFN, R190: a user micro-program. -/
def execXfn (f : FV) (s : State) : Out := xfnOp (.xfn f) f s

/-- XEXP2, R191. -/
def execXexp2 (f : FV) (s : State) : Out := xfnOp (.xexp2 f) f s

/-- XLOG2, R191. -/
def execXlog2 (f : FV) (s : State) : Out := xfnOp (.xlog2 f) f s

/-- XRCP, R191. -/
def execXrcp (f : FV) (s : State) : Out := xfnOp (.xrcp f) f s

/-- XRSQRT, R191. -/
def execXrsqrt (f : FV) (s : State) : Out := xfnOp (.xrsqrt f) f s

/-- XSQRT, R191. -/
def execXsqrt (f : FV) (s : State) : Out := xfnOp (.xsqrt f) f s

/-- XTANH, R191. -/
def execXtanh (f : FV) (s : State) : Out := xfnOp (.xtanh f) f s

/-- XSIGM, R191. -/
def execXsigm (f : FV) (s : State) : Out := xfnOp (.xsigm f) f s

/-- XGELU, R191. -/
def execXgelu (f : FV) (s : State) : Out := xfnOp (.xgelu f) f s

/-- XERF, R191. -/
def execXerf (f : FV) (s : State) : Out := xfnOp (.xerf f) f s

/-- XSIN, R191. -/
def execXsin (f : FV) (s : State) : Out := xfnOp (.xsin f) f s

/-- XCOS, R191. -/
def execXcos (f : FV) (s : State) : Out := xfnOp (.xcos f) f s

/-- XEXP, R191. -/
def execXexp (f : FV) (s : State) : Out := xfnOp (.xexp f) f s

/-- XSILU, R191. -/
def execXsilu (f : FV) (s : State) : Out := xfnOp (.xsilu f) f s

/-- XSOFTPLUS, R191. -/
def execXsoftplus (f : FV) (s : State) : Out := xfnOp (.xsoftplus f) f s

/-! ## XMOV (R195) -/

/-- XMOV, R113, R195: bits move unchanged and no mask applies. -/
def execXmov (f : FV) (s : State) : Out :=
  gated (.xmov f) s fun s =>
    let m := s.rd
    let c := m.core
    let dir := f.aux.toNat % 4
    let w := decide (2 ≤ dir)
    let t := bits f.aux.toNat 9 4
    let p := c.physTile w t
    let mask := widMask f.wid
    if dir % 2 = 0 then
      let d := f.dst.toNat % 16
      s.expose clsXC 3 d ((List.range 8).map fun j => ⟨.x d j mask, c.tileRow w p (c.rowCtr w + j)⟩)
    else
      let a := f.sa.toNat % 16
      s.expose clsXC (if w then 2 else 1) p
        ((List.range 8).map fun j => ⟨.tile w p ((c.rowCtr w + j) % 256) mask, c.xRow a j⟩)

end Sys2Proof.Machine
end

