-- ==== Sys2Proof/Machine/Loader.lean ====
section
/-! DEFINITION. The loader of Fliken objects (R65, R92 to R98, R205, R324). An object is the bytes of its file. -/

namespace Sys2Proof.Machine

/-! ## The file (R92) -/

/-- A section of an object: type, alignment, flags, file offset, size, INFO, and its reserved word. -/
structure Sect where
  type : Nat
  align : Nat
  flags : Nat
  offset : Nat
  size : Nat
  info : Nat
  res : Nat
  deriving DecidableEq, Repr

def sectAt (img : List Byte) (k : Nat) : Sect :=
  let o := field img 24 4 + 32 * k
  ⟨field img (o + 4) 1, field img (o + 5) 1, field img (o + 6) 2, field img (o + 8) 8, field img (o + 16) 8, field img (o + 24) 4,
    field img (o + 28) 4⟩

def sects (img : List Byte) : List Sect := (List.range (field img 28 2)).map (sectAt img)

def Sect.zero (s : Sect) : Bool := s.flags / 16 % 2 == 1

/-- A section's bytes in the file. -/
def Sect.bytes (img : List Byte) (s : Sect) : List Byte := if s.zero then [] else (img.drop s.offset).take s.size

/-- The first section of a type. -/
def ofType (img : List Byte) (t : Nat) : Option Sect := (sects img).find? (·.type == t)
def bytesOfType (img : List Byte) (t : Nat) : List Byte := match ofType img t with
  | some s => s.bytes img
  | none => []

def objPriv (img : List Byte) : Bool := field img 12 4 % 2 == 1

/-- Every byte from one offset up to another is zero. -/
def zeros (l : List Byte) (off n : Nat) : Bool := field l off n == 0

/-- Runs of the file do not overlap. -/
def disjoint : List (Nat × Nat) → Bool
  | [] => true
  | r :: t => (t.all fun q => decide (r.1 + r.2 ≤ q.1) || decide (q.1 + q.2 ≤ r.1)) && disjoint t

/-- Check 3 of R98: the layout. The model's choices (log 48): a FLAGS.PRIV that the sections' p flags belie breaks it; a z flag
on a section of a TYPE other than 3 breaks it, and so does a TYPE 3 without z; no other mix of access flags does; no NAME, and no
INFO of a SYMTAB, is looked up. -/
def badLayout (img : List Byte) : Bool :=
  let n := field img 28 2
  let tab := field img 24 4
  let l := sects img
  let held := l.filter fun s => !s.zero
  let count (t : Nat) : Nat := (l.filter (·.type == t)).length
  let okSect (s : Sect) : Bool :=
    decide (1 ≤ s.type) && decide (s.type ≤ 11) && decide (s.align ≤ 16) && decide (s.flags < 32) && s.res == 0 &&
    (if s.zero then s.offset == 0 && s.type == 3 else decide (s.offset + s.size ≤ img.length) && s.type != 3) &&
    (s.type == 5 || s.type == 6 || s.info == 0)
  decide (img.length < 128) || field img 8 4 != 128 || decide (1 < field img 12 4) || !zeros img 30 2 || !zeros img 32 32 ||
  tab % 8 != 0 || decide (n < 5) || decide (4096 < n) || decide (img.length < tab + 32 * n) || !l.all okSect ||
  !disjoint ((0, 128) :: (tab, 32 * n) :: (held.filter (·.size != 0)).map fun s => (s.offset, s.size)) ||
  count 7 != 1 || count 8 != 1 || count 11 != 1 || count 1 == 0 || (sectAt img 0).type != 4 ||
  (bytesOfType img 11).length != 96 || objPriv img != l.any fun s => s.flags / 8 % 2 == 1

/-! ## Latencies (R65) -/

def objLat (img : List Byte) : List Nat := (List.range 8).map fun k => field img (16 + k) 1

/-- C of R65: the most entries that a bank can hold. -/
def capacity (lat : List Nat) : Nat :=
  let e (k : Nat) : Nat := max (lat.getD k 1) (kilbinLat.getD k 1)
  2 * (max (e clsSM) (e clsXC) - 1) + 2 * (max (e clsVA) (max (e clsVR) (e clsXC)) - 1) + (max (e clsXF) (e clsXC) - 1) +
  (e clsLS - 1) + 2 * (e clsMP - 1)

def badLatency (lat : List Nat) : Bool :=
  lat.getD 0 0 != 1 || lat.any (fun x => decide (x < 1) || decide (32 < x)) || decide (lat.getD clsLS 0 < 6) ||
  decide (48 < capacity lat)

/-! ## Signature (R97) -/

/-- Keys of a device's signer list (R404). -/
def signers (m : Mem) (vmid : Nat) : List (List Byte) :=
  let a := m.vdev vmid 88 8
  if a = 0 then [] else (List.range (min 16 (m.num a 8))).map fun k => (m.load false (a + 8 + 32 * k) 32).2.1

/-- Check 5 of R98: the status of a signature that will not do; VFLAGS.SIGNED is the one in force (R405). -/
def badSignature (m : Mach) (vmid : Nat) (img : List Byte) : Option Nat :=
  let sig := bytesOfType img 11
  if bytesNat sig = 0 then
    if objPriv img || m.vflags vmid / 4 % 2 == 1 then some 0x09 else none
  else
    let key := sig.take 32
    let off := match ofType img 11 with
      | some s => s.offset
      | none => 0
    let digest := sha512 (patch img off (List.replicate 96 0))
    if (signers m.mem (if objPriv img then 0 else vmid)).contains key && edVerify key digest (sig.drop 32) then none
    else some 0x08

/-! ## Descriptors and loops (R21, R22, R93, R324) -/

/-- The descriptors. What a section holds beyond its last whole entry is no entry, here and in the other tables (log 48). -/
def kdescs (img : List Byte) : List (List Byte) :=
  let b := bytesOfType img 7
  (List.range (b.length / 64)).map fun k => (b.drop (64 * k)).take 64

def loopBytes (img : List Byte) (k : Nat) : List Byte := ((bytesOfType img 8).drop (40 * k)).take 40

/-- The bytes of a descriptor's CODE section. -/
def codeOf (img d : List Byte) : List Byte := (sectAt img (field d 4 2)).bytes img

/-- The kernel's entry bundle is the stub of R324, with an Oasis word after it. -/
def isOasis (img d : List Byte) : Bool :=
  let e := field d 16 4
  field ((codeOf img d).drop e) 0 16 == 0x8E00000080008000 && decide (e + 32 ≤ field d 8 4 + field d 12 4)

/-- A descriptor breaks R93. Its NAME is not looked up (DESIGN CHOICE, log 48). -/
def badKernel (img d : List Byte) : Bool :=
  let sec := field d 4 2
  let off := field d 8 4
  let len := field d 12 4
  let e := field d 16 4
  decide (field img 28 2 ≤ sec) || (sectAt img sec).type != 1 || decide (6 < field d 6 1) || !zeros d 7 1 || off % 4 != 0 ||
  len % 4 != 0 || decide (len < 4) || decide ((sectAt img sec).size < off + len) || e % 4 != 0 || decide (e < off) ||
  decide (off + len ≤ e) || decide (4096 < field d 20 4) || field d 20 4 % 8 != 0 || decide (16 < field d 24 1) ||
  decide (16 < field d 25 1) || decide (16 < field d 24 1 + field d 25 1) ||
  decide ((bytesOfType img 8).length / 40 < field d 28 4 + field d 6 1) || !zeros d 52 12 ||
  !(decHeader (BitVec.ofNat 32 (field (codeOf img d) e 4))).tgt || (isOasis img d && decide (16400 < len))

def loopRec (b : List Byte) : LoopRec :=
  ⟨field b 0 1, field b 1 1, field b 2 1, field b 3 1, field b 4 4, field b 8 2, field b 10 1, field b 11 1, field b 12 1,
    field b 13 1, field b 14 1, field b 16 4, BitVec.ofNat 64 (field b 24 8), BitVec.ofNat 64 (field b 32 8)⟩

/-- The loop records of a descriptor. -/
def kernelLoops (img d : List Byte) : List (List Byte) :=
  (List.range (field d 6 1)).map fun k => loopBytes img (field d 28 4 + k)

/-- A loop record at a position breaks R21 or R93. A TRIPVAL of KARG at or beyond ARGSIZE does not (DESIGN CHOICE, log 48). -/
def badLoop (pos : Nat) (b : List Byte) : Bool :=
  let r := loopRec b
  r.level != pos || decide (2 < r.kind) ||
  (if r.kind = 0 then
    decide (2 < r.tripSrc) || (r.tripSrc == 1 && (decide (r.tripVal < 1) || decide (63 < r.tripVal))) ||
    (r.tripSrc == 2 && r.tripVal % 4 != 0) || decide (r.stages < 1) || decide (7 < r.stages) || r.bodyLen == 0 ||
    decide (31 < r.rstepS) || decide (31 < r.rstepV) || decide (31 < r.rstepW) || !zeros b 15 1 || !zeros b 20 4 ||
    (List.range 8).any fun k => decide (5 < bits r.pdelta (4 * k + 2) (4 * k))
  else r.tripSrc != 3 || r.tripVal != 0 || !zeros b 3 1 || !zeros b 8 16)

/-- The order of R22: SPATIAL_DIE, SPATIAL_CORE, TEMPORAL. -/
def loopsOrdered : List Nat → Bool
  | a :: b :: t => decide (b ≤ a) && loopsOrdered (b :: t)
  | _ => true

def badLoops (img d : List Byte) : Bool :=
  let l := kernelLoops img d
  ((List.range l.length).any fun k => badLoop k (l.getD k [])) || !loopsOrdered (l.map fun b => field b 1 1)

/-- A record of LOOPTAB breaks R21 or R93, whatever its position in a kernel. -/
def badRecord (b : List Byte) : Bool := decide (5 < field b 0 1) || badLoop (field b 0 1) b

def badLooptab (img : List Byte) : Bool :=
  (List.range ((bytesOfType img 8).length / 40)).any fun k => badRecord (loopBytes img k)

/-! ## X records (R95, R202, R205) -/

/-- A step word keeps R202 and R205. -/
def stepOk (w : Word) : Bool :=
  let t := decStep w
  let a := bits w.toNat 53 51
  let b := bits w.toNat 50 48
  let d := bits w.toNat 59 57
  let s := bits w.toNat 56 54
  let mode := bits w.toNat 47 44
  let n := bits w.toNat 43 40
  let p8 := bits w.toNat 39 32
  let imm := bits w.toNat 31 0
  match t.kind with
  | 0 => a == 0 && b == 0 && n == 0 && p8 == 0 && decide (mode ≤ 3) &&
    (if mode ≤ 1 then imm % 2 ^ 31 != 0 && imm / 2 ^ 23 % 256 != 255 else imm == 0)
  | 1 => d == 0 && a == 0 && b == 0 && imm == 0 && decide (1 ≤ p8) && decide (p8 ≤ 254) && decide (mode ≤ 6)
  | 2 => s == 0 && a == 0 && b == 0 && mode == 0 && p8 == 0 && decide (1 ≤ n) && decide (n ≤ 4) && imm % 4 == 0 &&
    decide (imm < 4096) && decide (d + n ≤ 8)
  | 3 => b == 0 && mode == 0 && p8 == 0 && imm == 0 && decide (1 ≤ n) && decide (n ≤ 3) && decide (a + n ≤ 7)
  | 4 => a == 0 && b == 0 && n == 0 && p8 == 0 && decide (mode ≤ 3)
  | 5 => n == 0 && p8 == 0 && decide (mode ≤ 6)
  | 6 => mode == 0 && n == 0 && p8 == 0 && imm == 0
  | 7 => s == 0 && a == 0 && b == 0 && mode == 0 && n == 0 && p8 == 0
  | 8 => a == 0 && b == 0 && n == 0 && p8 == 0 && imm == 0 && decide (mode ≤ 1)
  | 9 => d == 0 && a == 0 && b == 0 && mode == 0 && n == 0 && p8 == 0 && imm == 0
  | _ => false

/-- X records, in order: each with its INDEX less 16; none where a record does not keep R95. The fuel bounds their number. -/
def xrecs : Nat → List Byte → Option (List XRec)
  | 0, _ => none
  | fuel + 1, b =>
    if b.isEmpty then some []
    else
      let idx := field b 0 1
      let n := field b 1 1
      let tab := field b 4 4
      let size := 8 + 8 * n + (tab + 7) / 8 * 8
      let steps := (List.range n).map fun k => BitVec.ofNat 64 (field b (8 + 8 * k) 8)
      let done := steps.map fun w => (decStep w).kind == 9
      if idx < 16 ∨ 31 < idx ∨ n < 1 ∨ 32 < n ∨ !zeros b 2 2 ∨ 4096 < tab ∨ b.length < 8 + 8 * n + tab ∨ !steps.all stepOk ∨
          done.getLast? ≠ some true ∨ (done.filter id).length ≠ 1 then none
      else (xrecs fuel (b.drop size)).map fun t => ⟨idx - 16, steps, (b.drop (8 + 8 * n)).take tab⟩ :: t

def objXrecs (img : List Byte) : Option (List XRec) :=
  let l := (((sects img).filter (·.type == 9)).map fun s => xrecs (s.size / 16 + 2) (s.bytes img))
  if l.any (·.isNone) then none
  else
    let all := (l.map fun x => x.getD []).flatten
    if (all.map (·.index)).eraseDups.length = all.length then some all else none

def badXfn (img : List Byte) : Bool :=
  match objXrecs img with
  | none => true
  | some l => (kdescs img).any fun d => (List.range 16).any fun k => field d 26 2 / 2 ^ k % 2 == 1 && !l.any (·.index == k)

/-! ## Routine references (R96) -/

def routRefs (img : List Byte) : List (List Byte) :=
  ((sects img).filter (·.type == 10)).flatMap fun s => (List.range (s.size / 16)).map fun k => ((s.bytes img).drop (16 * k)).take 16

/-- A reference that a resident image satisfies. -/
def refOk (images : List (Nat × Nat × Nat)) (r : List Byte) : Bool :=
  let idx := field r 0 1
  decide (32 ≤ idx) && decide (idx ≤ 63) && zeros r 1 3 && zeros r 12 4 &&
  images.any fun i => i.1 == idx && i.2.1 == field r 4 4 && decide (field r 8 4 ≤ i.2.2)

/-- Check 9 of R98: a reference without its image, or a ROUTMASK bit without a reference (R96). -/
def missingRoutine (images : List (Nat × Nat × Nat)) (img : List Byte) : Bool :=
  (routRefs img).any (fun r => !refOk images r) || (kdescs img).any fun d => (List.range 32).any fun k =>
    field d 48 4 / 2 ^ k % 2 == 1 && !(routRefs img).any fun r => field r 0 1 == 32 + k

/-! ## Placement and relocations (R94) -/

def alignUp (a k : Nat) : Nat := (a + 2 ^ k - 1) / 2 ^ k * 2 ^ k

/-- Sections stand one after another from a base, each at its alignment. -/
def placeFrom (a : Nat) : List Sect → List Nat
  | [] => []
  | s :: t => let p := alignUp a s.align; p :: placeFrom (p + s.size) t

/-- Offsets, in a code range, of the words that headers mark as literals; the fuel bounds the bundles. -/
def litWords (code : List Byte) (stop : Nat) : Nat → Nat → List Nat
  | 0, _ => []
  | fuel + 1, at_ =>
    if stop ≤ at_ then []
    else
      let h := decHeader (BitVec.ofNat 32 (field code at_ 4))
      let step (s : Nat × List Nat) (k : Slot) : Nat × List Nat :=
        let o := s.1 + (if h.has k then (if k.narrow then 4 else 8) else 0)
        if h.hasLit k then (o + 4, s.2 ++ [o]) else (o, s.2)
      (allSlots.foldl step (at_ + 4, [])).2 ++ litWords code stop fuel (at_ + h.len)

/-- Code ranges of a CODE section's kernels, and whether each is an Oasis kernel's. -/
def codeRanges (img : List Byte) (sec : Nat) : List (Nat × Nat × Bool) :=
  ((kdescs img).filter fun d => field d 4 2 == sec).map fun d => (field d 8 4, field d 12 4, isOasis img d)

/-- Literal words of a CODE section: bundles stand in its kernels' ranges, but for Oasis words, and from its start and the end
of each kernel to the next (R80, R92, R324). -/
def sectLits (img : List Byte) (sec : Nat) : List Nat :=
  let code := (sectAt img sec).bytes img
  let ranges := codeRanges img sec
  let walk (a stop : Nat) : List Nat := litWords code stop ((stop - a) / 4 + 1) a
  let inKernel (a : Nat) : Bool := ranges.any fun r => decide (r.1 ≤ a) && decide (a < r.1 + r.2.1)
  let next (a : Nat) : Nat := ((ranges.map (·.1)).filter fun x => decide (a ≤ x)).foldl min code.length
  ranges.flatMap (fun r => walk r.1 (r.1 + if r.2.2 then 16 else r.2.1)) ++
    ((0 :: ranges.map fun r => r.1 + r.2.1).filter (!inKernel ·)).flatMap fun a => walk a (next a)

/-- A relocation: section patched, offset, size, and the value modulo 2⁶⁴; none where R94 is broken. Its symbol is one of the
first SYMTAB section, whose NAME, BIND and KIND are not read (DESIGN CHOICE, log 48). -/
def reloc (img : List Byte) (addrs : List Nat) (sec : Nat) (r : List Byte) : Option (Nat × Nat × Nat × Nat) :=
  let off := field r 0 8
  let sym := ((bytesOfType img 5).drop (24 * field r 8 4)).take 24
  let type := field r 12 2
  let sect := field sym 4 2
  let size := if type = 1 then 8 else 4
  let addr := if sect = 0xFFFF then 0 else addrs.getD sect 0
  let v := (((addr + field sym 8 8 : Nat) : Int) + signed 64 (field r 16 8)) % 2 ^ 64
  let isLit := (sectAt img sec).type == 1 && (sectLits img sec).contains off
  if sym.length < 24 ∨ !zeros r 14 2 ∨ type < 1 ∨ 4 < type ∨ field img 28 2 ≤ sec ∨ (sectAt img sec).size < off + size ∨
      (sect ≠ 0xFFFF ∧ field img 28 2 ≤ sect) ∨ (type = 2 ∧ 2 ^ 32 ≤ v) ∨ (3 ≤ type ∧ !isLit) then none
  else some (sec, off, size, if type = 4 then v.toNat / 2 ^ 32 else v.toNat)

def relocs (img : List Byte) (addrs : List Nat) : List (Option (Nat × Nat × Nat × Nat)) :=
  ((sects img).filter (·.type == 6)).flatMap fun s =>
    (List.range (s.size / 24)).map fun k => reloc img addrs s.info (((s.bytes img).drop (24 * k)).take 24)

/-- A section's contents once loaded. -/
def loaded (img : List Byte) (rs : List (Nat × Nat × Nat × Nat)) (sec : Nat) : List Byte :=
  let s := sectAt img sec
  let b := if s.zero then List.replicate s.size 0 else s.bytes img
  (rs.filter (·.1 == sec)).foldl (fun b r => patch b r.2.1 (natBytes r.2.2.2 r.2.2.1)) b

/-- The file with its relocations applied to the contents of its sections (R94). -/
def patched (img : List Byte) (rs : List (Nat × Nat × Nat × Nat)) : List Byte :=
  (rs.filter fun r => !(sectAt img r.1).zero).foldl (fun b r => patch b ((sectAt img r.1).offset + r.2.1) (natBytes r.2.2.2 r.2.2.1)) img

/-- Bytes placed at a device's virtual address, page by page; those of a page that is not mapped are placed nowhere (log 48). -/
def placeBytesAt (vmid : Nat) : Nat → Nat → List Byte → Mach → Mach
  | 0, _, _, m => m
  | fuel + 1, va, b, m =>
    if b.isEmpty then m
    else
      let n := 65536 - va % 65536
      let m := (m.vwrite1 vmid va (b.take n) .range).1
      placeBytesAt vmid fuel (va + n) (b.drop n) m

/-- The status of an object, 0 where it loads (R98). -/
def loadStatus (m : Mach) (vmid : Nat) (img : List Byte) (addrs : List Nat) : Nat :=
  let ds := kdescs img
  ((firstCause [
    (field img 0 4 != 0x4F4B4C46, 0x01),
    (field img 4 2 != 1 || field img 6 2 != 0, 0x02),
    (badLayout img, 0x03),
    (badLatency (objLat img), 0x04),
    ((badSignature m vmid img).isSome, (badSignature m vmid img).getD 0),
    (ds.any (badKernel img), 0x05),
    (badLooptab img || ds.any (badLoops img), 0x06),
    (badXfn img, 0x0A),
    (missingRoutine m.images img, 0x0B),
    ((relocs img addrs).any (·.isNone), 0x07)]).getD 0)

/-- A loaded kernel, as the relocated object has it (R93, R94, R363). -/
def kernelOf (vmid : Nat) (img : List Byte) (addrs : List Nat) (k : Nat) (d : List Byte) : Kernel :=
  let sec := addrs.getD (field d 4 2) 0
  let kd := addrs.getD (((sects img).findIdx? (·.type == 7)).getD 0) 0
  ⟨vmid, BitVec.ofNat 64 (kd + 64 * k), BitVec.ofNat 64 (sec + field d 8 4), field d 12 4, BitVec.ofNat 64 (sec + field d 16 4),
    objLat img, (kernelLoops img d).map loopRec, BitVec.ofNat 64 (field d 32 8), BitVec.ofNat 64 (field d 40 8), field d 20 4,
    field d 24 1, field d 25 1, BitVec.ofNat 16 (field d 26 2), (objXrecs img).getD [], BitVec.ofNat 32 (field d 48 4),
    (routRefs img).map (fun r => (field r 0 1, field r 4 4, field r 8 4)), BitVec.ofNat 512 (field img 64 64), objPriv img,
    isOasis img d⟩

/-- OBJECT_LOAD, R94, R98: the sections stand from `base` on; a rejected object loads nothing. -/
def execObjectLoad (vmid : Nat) (image : List Byte) (base : Word) (s : State) : Out :=
  .next (s.setCur fun m =>
    let addrs := placeFrom base.toNat (sects image)
    let st := loadStatus m vmid image addrs
    let m := { m with loadStatus := some st }
    if st ≠ 0 then m
    else
      let rs := (relocs image addrs).filterMap id
      let put (m : Mach) (k : Nat) : Mach :=
        let b := loaded image rs k
        placeBytesAt vmid (b.length / 65536 + 2) (addrs.getD k 0) b m
      let m := (List.range (sects image).length).foldl put m
      let image := patched image rs
      let ds := kdescs image
      let ks := (List.range ds.length).map fun k => kernelOf vmid image addrs k (ds.getD k [])
      { m with kernels := (m.kernels.filter fun k => !ks.any fun n => n.vmid == k.vmid && n.kdesc == k.kdesc) ++ ks })

end Sys2Proof.Machine
end

