-- ==== Sys2Proof/Machine/Scalar.lean ====
section
/-! DEFINITION. The common block of the scalar slots: integer arithmetic and logic, division, scalar floating point
(R135 to R144). -/

namespace Sys2Proof.Machine

/-- Trailing zeros of a nonzero number, of n bits at most. -/
def ctzFrom : Nat → Nat → Nat
  | 0, _ => 0
  | n + 1, a => if a % 2 = 1 then 0 else ctzFrom n (a / 2) + 1

/-- One bits among the low n bits. -/
def popcount : Nat → Nat → Nat
  | 0, _ => 0
  | n + 1, a => a % 2 + popcount n (a / 2)

/-- The low n bytes in reverse order. -/
def swapBytes (n a : Nat) : Nat := bytesNat (natBytes a n).reverse

/-- An integer operation of the R subformat at its width: `fn` gets the width n and the low n bits of each operand,
and its result is taken modulo 2ⁿ and written sign-extended (R135, R138). -/
def intR (i : Instr) (f : FR) (cls : Nat) (fn : Nat → Nat → Nat → Nat) (s : State) : Out :=
  gated i s fun s =>
    let n := opWidth f.w
    s.writeS cls f.rd (fitW f.w (fn n ((s.reg f.ra).toNat % 2 ^ n) ((s.opB f).toNat % 2 ^ n)))

/-- ADD, R138. -/
def execAdd (f : FR) (s : State) : Out := intR (.add f) f clsA1 (fun _ a b => a + b) s

/-- SUB, R138. -/
def execSub (f : FR) (s : State) : Out := intR (.sub f) f clsA1 (fun n a b => a + (2 ^ n - b)) s

/-- MUL, R138. -/
def execMul (f : FR) (s : State) : Out := intR (.mul f) f clsSM (fun _ a b => a * b) s

/-- MULH, R138. -/
def execMulh (f : FR) (s : State) : Out := intR (.mulh f) f clsSM (fun n a b => wrap (2 * n) (signed n a * signed n b) / 2 ^ n) s

/-- MULHU, R138. -/
def execMulhu (f : FR) (s : State) : Out := intR (.mulhu f) f clsSM (fun n a b => a * b / 2 ^ n) s

/-- AND, R138. -/
def execAnd (f : FR) (s : State) : Out := intR (.and f) f clsA1 (fun _ a b => a &&& b) s

/-- OR, R138. -/
def execOr (f : FR) (s : State) : Out := intR (.or f) f clsA1 (fun _ a b => a ||| b) s

/-- XOR, R138. -/
def execXor (f : FR) (s : State) : Out := intR (.xor f) f clsA1 (fun _ a b => a ^^^ b) s

/-- ANDN, R138. -/
def execAndn (f : FR) (s : State) : Out := intR (.andn f) f clsA1 (fun n a b => a &&& (b ^^^ (2 ^ n - 1))) s

/-- ORN, R138. -/
def execOrn (f : FR) (s : State) : Out := intR (.orn f) f clsA1 (fun n a b => a ||| (b ^^^ (2 ^ n - 1))) s

/-- SHL, R138. -/
def execShl (f : FR) (s : State) : Out := intR (.shl f) f clsA1 (fun n a b => a * 2 ^ (b % n)) s

/-- SHR, R138. -/
def execShr (f : FR) (s : State) : Out := intR (.shr f) f clsA1 (fun n a b => a / 2 ^ (b % n)) s

/-- SAR, R138. -/
def execSar (f : FR) (s : State) : Out := intR (.sar f) f clsA1 (fun n a b => wrap n (signed n a / 2 ^ (b % n))) s

/-- ROL, R138. -/
def execRol (f : FR) (s : State) : Out := intR (.rol f) f clsA1 (fun n a b => a * 2 ^ (b % n) % 2 ^ n + a / 2 ^ (n - b % n)) s

/-- ROR, R138. -/
def execRor (f : FR) (s : State) : Out := intR (.ror f) f clsA1 (fun n a b => a / 2 ^ (b % n) + a * 2 ^ (n - b % n) % 2 ^ n) s

/-- MIN, R138. -/
def execMin (f : FR) (s : State) : Out := intR (.min f) f clsA1 (fun n a b => if signed n a ≤ signed n b then a else b) s

/-- MAX, R138. -/
def execMax (f : FR) (s : State) : Out := intR (.max f) f clsA1 (fun n a b => if signed n a ≤ signed n b then b else a) s

/-- MINU, R138. -/
def execMinu (f : FR) (s : State) : Out := intR (.minu f) f clsA1 (fun _ a b => if a ≤ b then a else b) s

/-- MAXU, R138. -/
def execMaxu (f : FR) (s : State) : Out := intR (.maxu f) f clsA1 (fun _ a b => if a ≤ b then b else a) s

/-- ABS, R138: the most negative value gives itself. -/
def execAbs (f : FR) (s : State) : Out := intR (.abs f) f clsA1 (fun n a _ => (signed n a).natAbs) s

/-- CMPEQ, R138. -/
def execCmpeq (f : FR) (s : State) : Out := intR (.cmpeq f) f clsA1 (fun _ a b => if a = b then 1 else 0) s

/-- CMPNE, R138. -/
def execCmpne (f : FR) (s : State) : Out := intR (.cmpne f) f clsA1 (fun _ a b => if a = b then 0 else 1) s

/-- CMPLT, R138. -/
def execCmplt (f : FR) (s : State) : Out := intR (.cmplt f) f clsA1 (fun n a b => if signed n a < signed n b then 1 else 0) s

/-- CMPLTU, R138. -/
def execCmpltu (f : FR) (s : State) : Out := intR (.cmpltu f) f clsA1 (fun _ a b => if a < b then 1 else 0) s

/-- CMPLE, R138. -/
def execCmple (f : FR) (s : State) : Out := intR (.cmple f) f clsA1 (fun n a b => if signed n a ≤ signed n b then 1 else 0) s

/-- CMPLEU, R138. -/
def execCmpleu (f : FR) (s : State) : Out := intR (.cmpleu f) f clsA1 (fun _ a b => if a ≤ b then 1 else 0) s

/-- CLZ, R138. -/
def execClz (f : FR) (s : State) : Out := intR (.clz f) f clsA1 (fun n a _ => if a = 0 then n else n - 1 - a.log2) s

/-- CTZ, R138. -/
def execCtz (f : FR) (s : State) : Out := intR (.ctz f) f clsA1 (fun n a _ => if a = 0 then n else ctzFrom n a) s

/-- POPC, R138. -/
def execPopc (f : FR) (s : State) : Out := intR (.popc f) f clsA1 (fun n a _ => popcount n a) s

/-- BSWAP, R138. -/
def execBswap (f : FR) (s : State) : Out := intR (.bswap f) f clsA1 (fun n a _ => swapBytes (n / 8) a) s

/-- SEL, R139: the old destination is the condition. -/
def execSel (f : FR) (s : State) : Out :=
  gated (.sel f) s fun s => s.writeS clsA1 f.rd (if s.reg f.rd = 0 then s.opB f else s.reg f.ra)

/-- Width that FN names in SEXT and ZEXT (R139). -/
def extWidth (f : FR) : Nat := 8 * 2 ^ f.fn.toNat

/-- SEXT, R139. -/
def execSext (f : FR) (s : State) : Out :=
  gated (.sext f) s fun s => s.writeS clsA1 f.rd (BitVec.ofInt 64 (signed (extWidth f) (s.reg f.ra).toNat))

/-- ZEXT, R139. -/
def execZext (f : FR) (s : State) : Out :=
  gated (.zext f) s fun s => s.writeS clsA1 f.rd (BitVec.ofNat 64 ((s.reg f.ra).toNat % 2 ^ extWidth f))

/-- An operation of the I subformat: always 64 bits, class A1 (R140). -/
def intI (i : Instr) (f : FI) (fn : Word → Word → Word) (s : State) : Out :=
  gated i s fun s => s.writeS clsA1 f.rd (fn (s.reg f.ra) f.val)

/-- ADDI, R140. -/
def execAddi (f : FI) (s : State) : Out := intI (.addi f) f (· + ·) s

/-- ANDI, R140. -/
def execAndi (f : FI) (s : State) : Out := intI (.andi f) f (· &&& ·) s

/-- ORI, R140. -/
def execOri (f : FI) (s : State) : Out := intI (.ori f) f (· ||| ·) s

/-- XORI, R140. -/
def execXori (f : FI) (s : State) : Out := intI (.xori f) f (· ^^^ ·) s

/-- SHLI, R140. -/
def execShli (f : FI) (s : State) : Out := intI (.shli f) f (fun a i => a <<< i.toNat) s

/-- SHRI, R140. -/
def execShri (f : FI) (s : State) : Out := intI (.shri f) f (fun a i => a >>> i.toNat) s

/-- SARI, R140. -/
def execSari (f : FI) (s : State) : Out := intI (.sari f) f (fun a i => a.sshiftRight i.toNat) s

/-- CMPEQI, R140. -/
def execCmpeqi (f : FI) (s : State) : Out := intI (.cmpeqi f) f (fun a i => if a = i then 1 else 0) s

/-- CMPLTI, R140. -/
def execCmplti (f : FI) (s : State) : Out := intI (.cmplti f) f (fun a i => if a.slt i then 1 else 0) s

/-- CMPLTUI, R140. -/
def execCmpltui (f : FI) (s : State) : Out := intI (.cmpltui f) f (fun a i => if a.ult i then 1 else 0) s

/-- LI, R141. -/
def execLi (f : FLI) (s : State) : Out :=
  gated (.li f) s fun s => s.writeS clsA1 f.rd ((FLIval f).signExtend 64)

/-- LIH, R141: the low half of the old destination stays. -/
def execLih (f : FLI) (s : State) : Out :=
  gated (.lih f) s fun s => s.writeS clsA1 f.rd (FLIval f ++ (s.reg f.rd).setWidth 32)

/-! ## Division (R142) -/

/-- A division: cause 0x10 with the dividend in TVAL where the low n bits of the divisor are 0 (log 24); else a
scoreboarded result. -/
def divR (i : Instr) (f : FR) (fn : Nat → Nat → Nat → Nat) (s : State) : Out :=
  gated i s fun s =>
    let n := opWidth f.w
    let a := (s.reg f.ra).toNat % 2 ^ n
    let b := (s.opB f).toNat % 2 ^ n
    if b = 0 then s.raise 0x10 (s.reg f.ra) else s.later f.rd (some (fitW f.w (fn n a b))) none

/-- DIV, R142. -/
def execDiv (f : FR) (s : State) : Out := divR (.div f) f (fun n a b => wrap n ((signed n a).tdiv (signed n b))) s

/-- DIVU, R142. -/
def execDivu (f : FR) (s : State) : Out := divR (.divu f) f (fun _ a b => a / b) s

/-- REM, R142: the sign of the dividend. -/
def execRem (f : FR) (s : State) : Out := divR (.rem f) f (fun n a b => wrap n ((signed n a).tmod (signed n b))) s

/-- REMU, R142. -/
def execRemu (f : FR) (s : State) : Out := divR (.remu f) f (fun _ a b => a % b) s

/-! ## Scalar floating point (R143, R144): FP32 in bits 31:0, results with bits 63:32 zero. -/

/-- The FP32 operands of an R form. -/
def State.fa (s : State) (f : FR) : Val := decF 0 ((s.reg f.ra).toNat % 2 ^ 32)
def State.fb (s : State) (f : FR) : Val := decF 0 ((s.opB f).toNat % 2 ^ 32)

/-- Rounding mode in FN[1:0]. -/
def fnRnd (f : FR) : Nat := f.fn.toNat % 4

/-- A float operation of class SM. -/
def floatR (i : Instr) (f : FR) (fn : Val → Val → Nat) (s : State) : Out :=
  gated i s fun s => s.writeS clsSM f.rd (BitVec.ofNat 64 (fn (s.fa f) (s.fb f)))

/-- FADD, R143. -/
def execFadd (f : FR) (s : State) : Out := floatR (.fadd f) f (fun a b => roundF 0 (fnRnd f) (a.add (fnRnd f) b)) s

/-- FSUB, R143. -/
def execFsub (f : FR) (s : State) : Out := floatR (.fsub f) f (fun a b => roundF 0 (fnRnd f) (a.sub (fnRnd f) b)) s

/-- FMUL, R143. -/
def execFmul (f : FR) (s : State) : Out := floatR (.fmul f) f (fun a b => roundF 0 (fnRnd f) (a.mul b)) s

/-- FDIV, R143: scoreboarded; x/±0 gives ±∞ and nothing traps. -/
def execFdiv (f : FR) (s : State) : Out :=
  gated (.fdiv f) s fun s =>
    s.later f.rd (some (BitVec.ofNat 64 (roundF 0 (fnRnd f) ((s.fa f).div (s.fb f))))) none

/-- FMIN, R143. -/
def execFmin (f : FR) (s : State) : Out := floatR (.fmin f) f (fun a b => roundF 0 0 (a.min b)) s

/-- FMAX, R143. -/
def execFmax (f : FR) (s : State) : Out := floatR (.fmax f) f (fun a b => roundF 0 0 (a.max b)) s

/-- FCMPEQ, R143: unordered compares give 0. -/
def execFcmpeq (f : FR) (s : State) : Out := floatR (.fcmpeq f) f (fun a b => if a.eq b then 1 else 0) s

/-- FCMPLT, R143. -/
def execFcmplt (f : FR) (s : State) : Out := floatR (.fcmplt f) f (fun a b => if a.lt b then 1 else 0) s

/-- FCMPLE, R143. -/
def execFcmple (f : FR) (s : State) : Out := floatR (.fcmple f) f (fun a b => if a.lt b || a.eq b then 1 else 0) s

/-- A scalar conversion: CV in the RB position, SAT in FN[2], the mode in FN[1:0] (R125, R126, R144). -/
def fcvt (cv mode : Nat) (sat : Bool) (x : Word) : Word :=
  let lo := x.toNat % 2 ^ 32
  match cv with
  | 0 => (BitVec.ofNat 32 (wrap 32 (toIntClamp 9 mode (decF 0 lo)))).signExtend 64
  | 1 => BitVec.ofNat 64 (wrap 32 (toIntClamp 10 mode (decF 0 lo)))
  | 2 => BitVec.ofNat 64 (wrap 64 (toIntClamp 11 mode (decF 0 lo)))
  | 3 => BitVec.ofNat 64 (roundF 0 mode (Val.ofInt (signed 32 lo)))
  | 4 => BitVec.ofNat 64 (roundF 0 mode (Val.ofInt lo))
  | 5 => BitVec.ofNat 64 (roundF 0 mode (Val.ofInt x.toInt))
  | 6 => BitVec.ofNat 64 (convert 0 1 mode sat lo)
  | 7 => BitVec.ofNat 64 (convert 1 0 mode false (lo % 2 ^ 16))
  | 8 => BitVec.ofNat 64 (convert 0 2 mode sat lo)
  | _ => BitVec.ofNat 64 (convert 2 0 mode false (lo % 2 ^ 16))

/-- FCVT, R144. -/
def execFcvt (f : FR) (s : State) : Out :=
  gated (.fcvt f) s fun s => s.writeS clsSM f.rd (fcvt f.rb.toNat (fnRnd f) (f.fn.getLsbD 2) (s.reg f.ra))

/-- FCLASS, R144. -/
def execFclass (f : FR) (s : State) : Out :=
  gated (.fclass f) s fun s => s.writeS clsSM f.rd (BitVec.ofNat 64 (fclass ((s.reg f.ra).toNat % 2 ^ 32)))

end Sys2Proof.Machine
end

