-- ==== Sys2Proof/Machine/Dispatch.lean ====
section
/-! DEFINITION. One arm for each instruction and event of the opcode table, each a direct call of its meaning. -/

namespace Sys2Proof.Machine

def exec (i : Instr) (s : State) : Host.Outcome State Fault Refusal :=
  match i with
  | .add f => Sys2Proof.Machine.execAdd f s
  | .sub f => Sys2Proof.Machine.execSub f s
  | .mul f => Sys2Proof.Machine.execMul f s
  | .mulh f => Sys2Proof.Machine.execMulh f s
  | .mulhu f => Sys2Proof.Machine.execMulhu f s
  | .div f => Sys2Proof.Machine.execDiv f s
  | .divu f => Sys2Proof.Machine.execDivu f s
  | .rem f => Sys2Proof.Machine.execRem f s
  | .remu f => Sys2Proof.Machine.execRemu f s
  | .and f => Sys2Proof.Machine.execAnd f s
  | .or f => Sys2Proof.Machine.execOr f s
  | .xor f => Sys2Proof.Machine.execXor f s
  | .andn f => Sys2Proof.Machine.execAndn f s
  | .orn f => Sys2Proof.Machine.execOrn f s
  | .shl f => Sys2Proof.Machine.execShl f s
  | .shr f => Sys2Proof.Machine.execShr f s
  | .sar f => Sys2Proof.Machine.execSar f s
  | .rol f => Sys2Proof.Machine.execRol f s
  | .ror f => Sys2Proof.Machine.execRor f s
  | .min f => Sys2Proof.Machine.execMin f s
  | .max f => Sys2Proof.Machine.execMax f s
  | .minu f => Sys2Proof.Machine.execMinu f s
  | .maxu f => Sys2Proof.Machine.execMaxu f s
  | .abs f => Sys2Proof.Machine.execAbs f s
  | .cmpeq f => Sys2Proof.Machine.execCmpeq f s
  | .cmpne f => Sys2Proof.Machine.execCmpne f s
  | .cmplt f => Sys2Proof.Machine.execCmplt f s
  | .cmpltu f => Sys2Proof.Machine.execCmpltu f s
  | .cmple f => Sys2Proof.Machine.execCmple f s
  | .cmpleu f => Sys2Proof.Machine.execCmpleu f s
  | .sel f => Sys2Proof.Machine.execSel f s
  | .clz f => Sys2Proof.Machine.execClz f s
  | .ctz f => Sys2Proof.Machine.execCtz f s
  | .popc f => Sys2Proof.Machine.execPopc f s
  | .bswap f => Sys2Proof.Machine.execBswap f s
  | .sext f => Sys2Proof.Machine.execSext f s
  | .zext f => Sys2Proof.Machine.execZext f s
  | .addi f => Sys2Proof.Machine.execAddi f s
  | .andi f => Sys2Proof.Machine.execAndi f s
  | .ori f => Sys2Proof.Machine.execOri f s
  | .xori f => Sys2Proof.Machine.execXori f s
  | .shli f => Sys2Proof.Machine.execShli f s
  | .shri f => Sys2Proof.Machine.execShri f s
  | .sari f => Sys2Proof.Machine.execSari f s
  | .cmpeqi f => Sys2Proof.Machine.execCmpeqi f s
  | .cmplti f => Sys2Proof.Machine.execCmplti f s
  | .cmpltui f => Sys2Proof.Machine.execCmpltui f s
  | .li f => Sys2Proof.Machine.execLi f s
  | .lih f => Sys2Proof.Machine.execLih f s
  | .fadd f => Sys2Proof.Machine.execFadd f s
  | .fsub f => Sys2Proof.Machine.execFsub f s
  | .fmul f => Sys2Proof.Machine.execFmul f s
  | .fdiv f => Sys2Proof.Machine.execFdiv f s
  | .fmin f => Sys2Proof.Machine.execFmin f s
  | .fmax f => Sys2Proof.Machine.execFmax f s
  | .fcmpeq f => Sys2Proof.Machine.execFcmpeq f s
  | .fcmplt f => Sys2Proof.Machine.execFcmplt f s
  | .fcmple f => Sys2Proof.Machine.execFcmple f s
  | .fcvt f => Sys2Proof.Machine.execFcvt f s
  | .fclass f => Sys2Proof.Machine.execFclass f s
  | .csrr f => Sys2Proof.Machine.execCsrr f s
  | .csrw f => Sys2Proof.Machine.execCsrw f s
  | .br f => Sys2Proof.Machine.execBr f s
  | .call f => Sys2Proof.Machine.execCall f s
  | .jr f => Sys2Proof.Machine.execJr f s
  | .callr f => Sys2Proof.Machine.execCallr f s
  | .ret f => Sys2Proof.Machine.execRet f s
  | .loop f => Sys2Proof.Machine.execLoop f s
  | .lexit f => Sys2Proof.Machine.execLexit f s
  | .endk f => Sys2Proof.Machine.execEndk f s
  | .trap f => Sys2Proof.Machine.execTrap f s
  | .twait f => Sys2Proof.Machine.execTwait f s
  | .qsetf f => Sys2Proof.Machine.execQsetf f s
  | .pcfg f => Sys2Proof.Machine.execPcfg f s
  | .xfer f => Sys2Proof.Machine.execXfer f s
  | .nop f => Sys2Proof.Machine.execNop f s
  | .eret f => Sys2Proof.Machine.execEret f s
  | .pcsrr f => Sys2Proof.Machine.execPcsrr f s
  | .pcsrw f => Sys2Proof.Machine.execPcsrw f s
  | .tlbinv f => Sys2Proof.Machine.execTlbinv f s
  | .ldb f => Sys2Proof.Machine.execLdb f s
  | .ldbu f => Sys2Proof.Machine.execLdbu f s
  | .ldh f => Sys2Proof.Machine.execLdh f s
  | .ldhu f => Sys2Proof.Machine.execLdhu f s
  | .ldw f => Sys2Proof.Machine.execLdw f s
  | .ldwu f => Sys2Proof.Machine.execLdwu f s
  | .ldd f => Sys2Proof.Machine.execLdd f s
  | .stb f => Sys2Proof.Machine.execStb f s
  | .sth f => Sys2Proof.Machine.execSth f s
  | .stw f => Sys2Proof.Machine.execStw f s
  | .std f => Sys2Proof.Machine.execStd f s
  | .ld f => Sys2Proof.Machine.execLd f s
  | .st f => Sys2Proof.Machine.execSt f s
  | .fence f => Sys2Proof.Machine.execFence f s
  | .amoadd f => Sys2Proof.Machine.execAmoadd f s
  | .amoand f => Sys2Proof.Machine.execAmoand f s
  | .amoor f => Sys2Proof.Machine.execAmoor f s
  | .amoxor f => Sys2Proof.Machine.execAmoxor f s
  | .amomin f => Sys2Proof.Machine.execAmomin f s
  | .amomax f => Sys2Proof.Machine.execAmomax f s
  | .amominu f => Sys2Proof.Machine.execAmominu f s
  | .amomaxu f => Sys2Proof.Machine.execAmomaxu f s
  | .amoswp f => Sys2Proof.Machine.execAmoswp f s
  | .amocas f => Sys2Proof.Machine.execAmocas f s
  | .binit f => Sys2Proof.Machine.execBinit f s
  | .barr f => Sys2Proof.Machine.execBarr f s
  | .bdrop f => Sys2Proof.Machine.execBdrop f s
  | .bwait f => Sys2Proof.Machine.execBwait f s
  | .qpush f => Sys2Proof.Machine.execQpush f s
  | .ldsc f => Sys2Proof.Machine.execLdsc f s
  | .ldscb f => Sys2Proof.Machine.execLdscb f s
  | .empty => Sys2Proof.Machine.execEmpty s
  | .vadd u f => Sys2Proof.Machine.execVadd u f s
  | .vsub u f => Sys2Proof.Machine.execVsub u f s
  | .vmul u f => Sys2Proof.Machine.execVmul u f s
  | .vmulh u f => Sys2Proof.Machine.execVmulh u f s
  | .vfma u f => Sys2Proof.Machine.execVfma u f s
  | .vfms u f => Sys2Proof.Machine.execVfms u f s
  | .vfnma u f => Sys2Proof.Machine.execVfnma u f s
  | .vfnms u f => Sys2Proof.Machine.execVfnms u f s
  | .vmin u f => Sys2Proof.Machine.execVmin u f s
  | .vmax u f => Sys2Proof.Machine.execVmax u f s
  | .vabs u f => Sys2Proof.Machine.execVabs u f s
  | .vneg u f => Sys2Proof.Machine.execVneg u f s
  | .vadds u f => Sys2Proof.Machine.execVadds u f s
  | .vsubs u f => Sys2Proof.Machine.execVsubs u f s
  | .vavg u f => Sys2Proof.Machine.execVavg u f s
  | .vclamp u f => Sys2Proof.Machine.execVclamp u f s
  | .vcmpeq u f => Sys2Proof.Machine.execVcmpeq u f s
  | .vcmpne u f => Sys2Proof.Machine.execVcmpne u f s
  | .vcmplt u f => Sys2Proof.Machine.execVcmplt u f s
  | .vcmple u f => Sys2Proof.Machine.execVcmple u f s
  | .vcmpgt u f => Sys2Proof.Machine.execVcmpgt u f s
  | .vcmpge u f => Sys2Proof.Machine.execVcmpge u f s
  | .vsel u f => Sys2Proof.Machine.execVsel u f s
  | .vmov u f => Sys2Proof.Machine.execVmov u f s
  | .vand u f => Sys2Proof.Machine.execVand u f s
  | .vor u f => Sys2Proof.Machine.execVor u f s
  | .vxor u f => Sys2Proof.Machine.execVxor u f s
  | .vandn u f => Sys2Proof.Machine.execVandn u f s
  | .vnot u f => Sys2Proof.Machine.execVnot u f s
  | .vshl u f => Sys2Proof.Machine.execVshl u f s
  | .vshr u f => Sys2Proof.Machine.execVshr u f s
  | .vsar u f => Sys2Proof.Machine.execVsar u f s
  | .vclz u f => Sys2Proof.Machine.execVclz u f s
  | .vpopc u f => Sys2Proof.Machine.execVpopc u f s
  | .vmacw u f => Sys2Proof.Machine.execVmacw u f s
  | .vcvt u f => Sys2Proof.Machine.execVcvt u f s
  | .vqnt u f => Sys2Proof.Machine.execVqnt u f s
  | .vdqn u f => Sys2Proof.Machine.execVdqn u f s
  | .vbcast u f => Sys2Proof.Machine.execVbcast u f s
  | .vperm u f => Sys2Proof.Machine.execVperm u f s
  | .vshuf u f => Sys2Proof.Machine.execVshuf u f s
  | .vrot u f => Sys2Proof.Machine.execVrot u f s
  | .viota u f => Sys2Proof.Machine.execViota u f s
  | .vlut u f => Sys2Proof.Machine.execVlut u f s
  | .vpack u f => Sys2Proof.Machine.execVpack u f s
  | .vunpk u f => Sys2Proof.Machine.execVunpk u f s
  | .vrsum u f => Sys2Proof.Machine.execVrsum u f s
  | .vrmax u f => Sys2Proof.Machine.execVrmax u f s
  | .vrmin u f => Sys2Proof.Machine.execVrmin u f s
  | .vstat u f => Sys2Proof.Machine.execVstat u f s
  | .vnorm u f => Sys2Proof.Machine.execVnorm u f s
  | .vtopk u f => Sys2Proof.Machine.execVtopk u f s
  | .vsort u f => Sys2Proof.Machine.execVsort u f s
  | .vsegsum u f => Sys2Proof.Machine.execVsegsum u f s
  | .vmand u f => Sys2Proof.Machine.execVmand u f s
  | .vmor u f => Sys2Proof.Machine.execVmor u f s
  | .vmxor u f => Sys2Proof.Machine.execVmxor u f s
  | .vmnot u f => Sys2Proof.Machine.execVmnot u f s
  | .vmset u f => Sys2Proof.Machine.execVmset u f s
  | .vmpop u f => Sys2Proof.Machine.execVmpop u f s
  | .vxfer u f => Sys2Proof.Machine.execVxfer u f s
  | .vsetrow u f => Sys2Proof.Machine.execVsetrow u f s
  | .xfn f => Sys2Proof.Machine.execXfn f s
  | .xexp2 f => Sys2Proof.Machine.execXexp2 f s
  | .xlog2 f => Sys2Proof.Machine.execXlog2 f s
  | .xrcp f => Sys2Proof.Machine.execXrcp f s
  | .xrsqrt f => Sys2Proof.Machine.execXrsqrt f s
  | .xsqrt f => Sys2Proof.Machine.execXsqrt f s
  | .xtanh f => Sys2Proof.Machine.execXtanh f s
  | .xsigm f => Sys2Proof.Machine.execXsigm f s
  | .xgelu f => Sys2Proof.Machine.execXgelu f s
  | .xerf f => Sys2Proof.Machine.execXerf f s
  | .xsin f => Sys2Proof.Machine.execXsin f s
  | .xcos f => Sys2Proof.Machine.execXcos f s
  | .xexp f => Sys2Proof.Machine.execXexp f s
  | .xsilu f => Sys2Proof.Machine.execXsilu f s
  | .xsoftplus f => Sys2Proof.Machine.execXsoftplus f s
  | .xmov f => Sys2Proof.Machine.execXmov f s
  | .fmat f => Sys2Proof.Machine.execFmat f s
  | .fmata f => Sys2Proof.Machine.execFmata f s
  | .fgradx f => Sys2Proof.Machine.execFgradx f s
  | .fgradc f => Sys2Proof.Machine.execFgradc f s
  | .fupd f => Sys2Proof.Machine.execFupd f s
  | .refine f => Sys2Proof.Machine.execRefine f s
  | .clearg f => Sys2Proof.Machine.execClearg f s
  | .gemm f => Sys2Proof.Machine.execGemm f s
  | .gemmq f => Sys2Proof.Machine.execGemmq f s
  | .gemms f => Sys2Proof.Machine.execGemms f s
  | .gemmt f => Sys2Proof.Machine.execGemmt f s
  | .fgrad f => Sys2Proof.Machine.execFgrad f s
  | .mcall f => Sys2Proof.Machine.execMcall f s
  | .mplane f => Sys2Proof.Machine.execMplane f s
  | .mldc f => Sys2Proof.Machine.execMldc f s
  | .mstc f => Sys2Proof.Machine.execMstc f s
  | .mgrid f => Sys2Proof.Machine.execMgrid f s
  | .mwload f => Sys2Proof.Machine.execMwload f s
  | .mstat f => Sys2Proof.Machine.execMstat f s
  | .dcpy f => Sys2Proof.Machine.execDcpy f s
  | .dmc f => Sys2Proof.Machine.execDmc f s
  | .dgat f => Sys2Proof.Machine.execDgat f s
  | .dsct f => Sys2Proof.Machine.execDsct f s
  | .dzero f => Sys2Proof.Machine.execDzero f s
  | .dfill f => Sys2Proof.Machine.execDfill f s
  | .dpref f => Sys2Proof.Machine.execDpref f s
  | .dflush f => Sys2Proof.Machine.execDflush f s
  | .dinv f => Sys2Proof.Machine.execDinv f s
  | .phase f => Sys2Proof.Machine.execPhase f s
  | .djoin f => Sys2Proof.Machine.execDjoin f s
  | .tmovOpr f => Sys2Proof.Machine.execTmovOpr f s
  | .tmovQnt f => Sys2Proof.Machine.execTmovQnt f s
  | .tmovDqn f => Sys2Proof.Machine.execTmovDqn f s
  | .tmovLzc f => Sys2Proof.Machine.execTmovLzc f s
  | .tmovLzd f => Sys2Proof.Machine.execTmovLzd f s
  | .tmovCrc f => Sys2Proof.Machine.execTmovCrc f s
  | .tmovRes f => Sys2Proof.Machine.execTmovRes f s
  | .ureg f => Sys2Proof.Machine.execUreg f s
  | .urel f => Sys2Proof.Machine.execUrel f s
  | .upd f => Sys2Proof.Machine.execUpd f s
  | .ufence f => Sys2Proof.Machine.execUfence f s
  | .csend f => Sys2Proof.Machine.execCsend f s
  | .crecvStore f => Sys2Proof.Machine.execCrecvStore f s
  | .crecvAddw f => Sys2Proof.Machine.execCrecvAddw f s
  | .crecvAddq f => Sys2Proof.Machine.execCrecvAddq f s
  | .mv f => Sys2Proof.Machine.execMv f s
  | .ialuAdd f => Sys2Proof.Machine.execIaluAdd f s
  | .ialuSub f => Sys2Proof.Machine.execIaluSub f s
  | .ialuMul f => Sys2Proof.Machine.execIaluMul f s
  | .ialuAnd f => Sys2Proof.Machine.execIaluAnd f s
  | .ialuOr f => Sys2Proof.Machine.execIaluOr f s
  | .ialuXor f => Sys2Proof.Machine.execIaluXor f s
  | .ialuShl f => Sys2Proof.Machine.execIaluShl f s
  | .ialuShr f => Sys2Proof.Machine.execIaluShr f s
  | .ialuSar f => Sys2Proof.Machine.execIaluSar f s
  | .ialuMinu f => Sys2Proof.Machine.execIaluMinu f s
  | .ialuMaxu f => Sys2Proof.Machine.execIaluMaxu f s
  | .ialuCeq f => Sys2Proof.Machine.execIaluCeq f s
  | .ialuCne f => Sys2Proof.Machine.execIaluCne f s
  | .ialuClt f => Sys2Proof.Machine.execIaluClt f s
  | .ialuCltu f => Sys2Proof.Machine.execIaluCltu f s
  | .ialuCle f => Sys2Proof.Machine.execIaluCle f s
  | .valuFadd f => Sys2Proof.Machine.execValuFadd f s
  | .valuFsub f => Sys2Proof.Machine.execValuFsub f s
  | .valuFmul f => Sys2Proof.Machine.execValuFmul f s
  | .valuFma f => Sys2Proof.Machine.execValuFma f s
  | .valuFmax f => Sys2Proof.Machine.execValuFmax f s
  | .valuFmin f => Sys2Proof.Machine.execValuFmin f s
  | .valuIadd f => Sys2Proof.Machine.execValuIadd f s
  | .valuBfwide f => Sys2Proof.Machine.execValuBfwide f s
  | .valuBfnarrow f => Sys2Proof.Machine.execValuBfnarrow f s
  | .valuAnd f => Sys2Proof.Machine.execValuAnd f s
  | .valuOr f => Sys2Proof.Machine.execValuOr f s
  | .valuXor f => Sys2Proof.Machine.execValuXor f s
  | .lsuLdd f => Sys2Proof.Machine.execLsuLdd f s
  | .lsuLdw f => Sys2Proof.Machine.execLsuLdw f s
  | .lsuLdy f => Sys2Proof.Machine.execLsuLdy f s
  | .lsuStd f => Sys2Proof.Machine.execLsuStd f s
  | .lsuStw f => Sys2Proof.Machine.execLsuStw f s
  | .lsuSty f => Sys2Proof.Machine.execLsuSty f s
  | .lsuMdrd f => Sys2Proof.Machine.execLsuMdrd f s
  | .lsuMdwr f => Sys2Proof.Machine.execLsuMdwr f s
  | .rowCpy f => Sys2Proof.Machine.execRowCpy f s
  | .rowZero f => Sys2Proof.Machine.execRowZero f s
  | .rowTobuf f => Sys2Proof.Machine.execRowTobuf f s
  | .rowFrombuf f => Sys2Proof.Machine.execRowFrombuf f s
  | .cvsApply f => Sys2Proof.Machine.execCvsApply f s
  | .cvsCount f => Sys2Proof.Machine.execCvsCount f s
  | .syncInv f => Sys2Proof.Machine.execSyncInv f s
  | .syncWbinv f => Sys2Proof.Machine.execSyncWbinv f s
  | .syncFence f => Sys2Proof.Machine.execSyncFence f s
  | .syncSignal f => Sys2Proof.Machine.execSyncSignal f s
  | .pcJump f => Sys2Proof.Machine.execPcJump f s
  | .pcCall f => Sys2Proof.Machine.execPcCall f s
  | .pcRet f => Sys2Proof.Machine.execPcRet f s
  | .pcHalt f => Sys2Proof.Machine.execPcHalt f s
  | .pcYield f => Sys2Proof.Machine.execPcYield f s
  | .oasisResultLand unit => Sys2Proof.Machine.execOasisResultLand unit s
  | .oasisOpComplete unit => Sys2Proof.Machine.execOasisOpComplete unit s
  | .dramRefreshDue bank => Sys2Proof.Machine.execDramRefreshDue bank s
  | .oasisPreempt => Sys2Proof.Machine.execOasisPreempt s
  | .nopEmptyBundle => Sys2Proof.Machine.execNopEmptyBundle s
  | .loopExecutionEnd => Sys2Proof.Machine.execLoopExecutionEnd s
  | .pendingWriteLand entry => Sys2Proof.Machine.execPendingWriteLand entry s
  | .overdueValueArrive level entry => Sys2Proof.Machine.execOverdueValueArrive level entry s
  | .scoreboardResultWrite reg => Sys2Proof.Machine.execScoreboardResultWrite reg s
  | .drainCycle => Sys2Proof.Machine.execDrainCycle s
  | .instRetire core => Sys2Proof.Machine.execInstRetire core s
  | .instStop core => Sys2Proof.Machine.execInstStop core s
  | .storeLostFault pa => Sys2Proof.Machine.execStoreLostFault pa s
  | .binitDeferred => Sys2Proof.Machine.execBinitDeferred s
  | .engineOpStart op => Sys2Proof.Machine.execEngineOpStart op s
  | .tokenComplete op => Sys2Proof.Machine.execTokenComplete op s
  | .dmcLanding op rank => Sys2Proof.Machine.execDmcLanding op rank s
  | .phaseCacheEighthDrained op bank => Sys2Proof.Machine.execPhaseCacheEighthDrained op bank s
  | .phaseScratchEighthReleased op bank => Sys2Proof.Machine.execPhaseScratchEighthReleased op bank s
  | .storeAcknowledge => Sys2Proof.Machine.execStoreAcknowledge s
  | .releaseStorePerform => Sys2Proof.Machine.execReleaseStorePerform s
  | .acquireFenceRefresh => Sys2Proof.Machine.execAcquireFenceRefresh s
  | .homeWriteApply w => Sys2Proof.Machine.execHomeWriteApply w s
  | .lineFill level sector => Sys2Proof.Machine.execLineFill level sector s
  | .l2Eviction sector => Sys2Proof.Machine.execL2Eviction sector s
  | .mscEviction sector => Sys2Proof.Machine.execMscEviction sector s
  | .amoPerform => Sys2Proof.Machine.execAmoPerform s
  | .tableWalk vmid va acc => Sys2Proof.Machine.execTableWalk vmid va acc s
  | .tlbinvComplete => Sys2Proof.Machine.execTlbinvComplete s
  | .pairAccept index => Sys2Proof.Machine.execPairAccept index s
  | .csendTransmit op => Sys2Proof.Machine.execCsendTransmit op s
  | .messageAccept msg => Sys2Proof.Machine.execMessageAccept msg s
  | .crecvMatch op => Sys2Proof.Machine.execCrecvMatch op s
  | .frameDataReceive link f => Sys2Proof.Machine.execFrameDataReceive link f s
  | .frameAckReceive link f => Sys2Proof.Machine.execFrameAckReceive link f s
  | .frameNackReceive link f => Sys2Proof.Machine.execFrameNackReceive link f s
  | .frameIdleReceive link f => Sys2Proof.Machine.execFrameIdleReceive link f s
  | .ackTimer link => Sys2Proof.Machine.execAckTimer link s
  | .retransmitTimeout link => Sys2Proof.Machine.execRetransmitTimeout link s
  | .linkFail link => Sys2Proof.Machine.execLinkFail link s
  | .epochEnd link => Sys2Proof.Machine.execEpochEnd link s
  | .linkTrain link passed => Sys2Proof.Machine.execLinkTrain link passed s
  | .hello link m => Sys2Proof.Machine.execHello link m s
  | .proof link sig clean => Sys2Proof.Machine.execProof link sig clean s
  | .ready link rbuf ft clean => Sys2Proof.Machine.execReady link rbuf ft clean s
  | .abort link step reason clean => Sys2Proof.Machine.execAbort link step reason clean s
  | .fabricVirtAccess a => Sys2Proof.Machine.execFabricVirtAccess a s
  | .ctlWrite from_ off data => Sys2Proof.Machine.execCtlWrite from_ off data s
  | .doorbell from_ vmid queue value => Sys2Proof.Machine.execDoorbell from_ vmid queue value s
  | .featureAccept mask => Sys2Proof.Machine.execFeatureAccept mask s
  | .replaceClear => Sys2Proof.Machine.execReplaceClear s
  | .imgaddr pa => Sys2Proof.Machine.execImgaddr pa s
  | .imgstatWrite => Sys2Proof.Machine.execImgstatWrite s
  | .bringUp r => Sys2Proof.Machine.execBringUp r s
  | .temperatureSwing die temp => Sys2Proof.Machine.execTemperatureSwing die temp s
  | .vbusRetest die => Sys2Proof.Machine.execVbusRetest die s
  | .storeLayerTrip die => Sys2Proof.Machine.execStoreLayerTrip die s
  | .storeLayerDeadline die => Sys2Proof.Machine.execStoreLayerDeadline die s
  | .storeLayerRestart die => Sys2Proof.Machine.execStoreLayerRestart die s
  | .powerCap => Sys2Proof.Machine.execPowerCap s
  | .uncorrectableError loc => Sys2Proof.Machine.execUncorrectableError loc s
  | .resourceRetire r => Sys2Proof.Machine.execResourceRetire r s
  | .launchAccept vmid dev queue => Sys2Proof.Machine.execLaunchAccept vmid dev queue s
  | .controlKill launch => Sys2Proof.Machine.execControlKill launch s
  | .launchReady launch => Sys2Proof.Machine.execLaunchReady launch s
  | .groupPlace launch => Sys2Proof.Machine.execGroupPlace launch s
  | .oasisInstPlace launch => Sys2Proof.Machine.execOasisInstPlace launch s
  | .drrRound => Sys2Proof.Machine.execDrrRound s
  | .ageingInterval => Sys2Proof.Machine.execAgeingInterval s
  | .priorityPreempt launch => Sys2Proof.Machine.execPriorityPreempt launch s
  | .timeSlicePreempt launch => Sys2Proof.Machine.execTimeSlicePreempt launch s
  | .memberHalt core => Sys2Proof.Machine.execMemberHalt core s
  | .groupSave launch group => Sys2Proof.Machine.execGroupSave launch group s
  | .abandonInterval launch group => Sys2Proof.Machine.execAbandonInterval launch group s
  | .groupResume launch group => Sys2Proof.Machine.execGroupResume launch group s
  | .launchComplete launch => Sys2Proof.Machine.execLaunchComplete launch s
  | .objectLoad vmid image base => Sys2Proof.Machine.execObjectLoad vmid image base s
  | .vbusRetestDone die lost quads => Sys2Proof.Machine.execVbusRetestDone die lost quads s

end Sys2Proof.Machine
end

