-- ==== Sys2Proof/Machine/Issue.lean ====
section
/-! DEFINITION. How a bundle issues: fetch, the checks of R61, its slots, and what follows (R45 to R48, R57, R58, R61 to
R63, R397); and how an Oasis word does (R327, R331 to R333, R343, R346, R347). -/

namespace Sys2Proof.Machine

/-- The end of a step: every slot has issued, and nothing is left of the issue. -/
def State.close (s : State) : State := { s with snap := none, verdict := .go }

/-- A fault at the fetch or in the checks of the bundle at the PC. -/
def State.refuse (s : State) (cause : Nat) (tval : Word) : State := (s.raise cause tval).close

/-! ## Fetch (R47, R61, R397) -/

/-- A word of code, through the instruction cache, or the cause that its fetch raises, 0 for a wait for a walk (R10, R401). -/
def State.fetchWord (s : State) (va : Nat) : State × Except Nat (BitVec 32) :=
  match s.cur.ownXlate va .fetch with
  | (.fault c, u) => (s.applyUpd u, .error c)
  | (.ok leaf pa, u) =>
    let s := s.applyUpd u
    let f := s.cur.find true leaf pa 4 none (Config.freeBit s.freeIdx)
    let s := (if f.usedFree then s.used else s).setCur fun m => noteLoad m true leaf pa 4 none f
    (s, if f.poison then .error 0x33 else .ok (BitVec.ofNat 32 (bytesNat f.bytes)))

/-- Consecutive words of code; with a cause, the address at which the fetch fails. -/
def State.fetch (s : State) : Nat → Nat → State × Except (Nat × Word) (List (BitVec 32))
  | 0, _ => (s, .ok [])
  | n + 1, va =>
    match s.fetchWord va with
    | (s, .error c) => (s, .error (c, BitVec.ofNat 64 va))
    | (s, .ok w) =>
      match s.fetch n (va + 4) with
      | (t, .error e) => (t, .error e)
      | (t, .ok ws) => (t, .ok (w :: ws))

/-! ## The checks (R57, R58, R61, R62) -/

/-- TVAL of a slot's encoding fault (R62). -/
def slotTval (w : SlotWord) : Word :=
  BitVec.ofNat 64 (w.slot.index * 2 ^ 60 + (if w.slot.narrow then w.word.toNat % 2 ^ 32 else w.word.toNat / 2 ^ 32))

/-- Step 2 of R61 for one slot. -/
def slotFault (c : Core) (w : SlotWord) : Option (Nat × Word) :=
  match w.ins with
  | none => some (0x03, slotTval w)
  | some i => (c.checks i).map fun cause => (cause, slotTval w)

/-- Slots as a mask in PRES order. -/
def slotMask (l : List SlotWord) : Nat := ((l.map fun w => 2 ^ (7 - w.slot.index)).eraseDups).foldl (· + ·) 0

/-- Step 3: the lane budget (R57). -/
def laneFault (l : List SlotWord) : Option (Nat × Word) :=
  let wide (w : SlotWord) : Bool := w.slot == .v0 || w.slot == .v1 || w.slot == .x
  let sum := (l.map fun w => match w.ins with
    | some i => laneBits i
    | none => 0).foldl (· + ·) 0
  if 2048 < sum then some (0x05, BitVec.ofNat 64 (9 * 2 ^ 60 + slotMask (l.filter wide) * 2 ^ 32 + sum)) else none

/-- The locations a slot writes, by name after rotation. -/
def slotWrites (c : Core) (w : SlotWord) : List Ref := match w.ins with
  | some i => (writesOf i).map c.physRef
  | none => []

/-- Step 4: a location that two slots write (R58). Where a bundle duplicates several, the one that stands first in slot
order is reported (DESIGN CHOICE, log 51). -/
def dupFault (c : Core) (l : List SlotWord) : Option (Nat × Word) :=
  let writers (r : Ref) : List SlotWord := l.filter fun w => (slotWrites c w).contains r
  match (l.flatMap (slotWrites c)).find? fun r => decide (2 ≤ (writers r).length) with
  | some r => some (0x04, BitVec.ofNat 64 (9 * 2 ^ 60 + slotMask (writers r) * 2 ^ 32))
  | none => none

/-- Steps 2 to 4 of R61. -/
def bundleFault (c : Core) (l : List SlotWord) : Option (Nat × Word) :=
  match l.findSome? (slotFault c) with
  | some x => some x
  | none => match laneFault l with
    | some x => some x
    | none => dupFault c l

/-- A present, unsquashed slot names a register that is not ready (R61). -/
def slotWaits (c : Core) (w : SlotWord) : Bool := match w.ins with
  | some i => c.pred (predOf i) && (c.reads i ++ writesOf i).any c.unready
  | none => false

/-! ## Issue (R48, R61) -/

/-- TRAP, and ERET of a handler, follow the bundle's other slots. -/
def endsBundle (c : Core) (w : SlotWord) : Bool := match w.ins with
  | some (.trap _) => true
  | some (.eret _) => c.tlevel != 0
  | _ => false

/-- The slot that the next meaning stands in. -/
def State.inSlot (s : State) (k : Slot) : State :=
  let put (m : Mach) : Mach := { m with core := { m.core with slot := k.index } }
  { s with cur := put s.cur, snap := s.snap.map put }

/-- The slots have their effects, one after the other. -/
def runSlots : List SlotWord → State → Out
  | [], s => .next s
  | w :: t, s =>
    match w.ins with
    | none => runSlots t s
    | some i =>
      match exec i (s.inSlot w.slot) with
      | .next s' => runSlots t s'
      | .fault r => .fault r
      | .refused r => .refused r

/-- A cycle in which the bundle does not issue. -/
def State.stallCycle (s : State) (f : Mach → Mach) : State := ({ s with cur := s.rd }.passTime.setCur fun m => barrierRest (f m)).close

/-- A fetch has failed, or waits for its walk (R401). -/
def State.fetchFails (s : State) (cause : Nat) (va : Word) : State := if cause = 0 then s.stallCycle coreIdle else s.refuse cause va

/-- After the slots: the next bundle, which what the walk pool answered this one is not kept for (R401); a stall; a drain cycle of ERET; or the transfer that a slot has made. -/
def State.finish (s : State) : State :=
  match s.verdict with
  | .go => (s.setCur fun m => barrierRest { m with pool := m.pool.filter (!·.walked), core := finishCore s.rd.core m.core }).close
  | .stall | .walk => s.stallCycle coreIdle
  | .drain => s.stallCycle tick
  | .done => s.close

/-- Issue the slots of a bundle that has passed its checks. -/
def State.issueSlots (s : State) (h : Header) (l : List SlotWord) : Out :=
  let s := (s.setCore fun c => { c with blen := h.len, safe := h.safe, xfer := none }).beginIssue
  let c := s.rd.core
  let order := l.filter (fun w => !endsBundle c w) ++ l.filter (endsBundle c)
  match (if l.isEmpty then exec .empty s else runSlots order s) with
  | .next t => .next t.finish
  | .fault r => .fault r
  | .refused r => .refused r

/-- Steps 2 to 5 of R61 for a bundle that has been fetched. A transfer's target needs TGT (R47). -/
def State.checkSlots (s : State) (h : Header) (l : List SlotWord) : Out :=
  let c := s.cur.core
  match bundleFault c l with
  | some (cause, tval) => .next (s.refuse cause tval)
  | none =>
    if l.any (slotWaits c) then .next (s.stallCycle coreIdle)
    else
      match c.xfer with
      | some from_ => if h.tgt then s.issueSlots h l else .next (s.refuse 0x07 from_)
      | none => s.issueSlots h l

/-- TVAL of a header fault (R62). -/
def headerTval (w : Nat) : Word := BitVec.ofNat 64 (8 * 2 ^ 60 + w % 2 ^ 32)

/-- The bundle at the PC: fetch, step 1 of R61, then the rest. A PC outside the code range, or misaligned, is the fault of
the transfer that led there, or of the flow (R47, R61). -/
def State.issueBundle (s : State) : Out :=
  let c := s.cur.core
  let pc := c.pc.toNat
  let (base, len) := c.range
  let (t, first) := s.fetch 1 pc
  if pc % 4 ≠ 0 ∨ pc < base ∨ base + len < pc + 4 then
    .next (match c.xfer, first with
      | some from_, _ => s.refuse 0x07 from_
      | none, .ok ws => t.refuse 0x01 (headerTval (ws.headD 0).toNat)
      | none, .error (cause, va) => if cause = 0 then t.fetchFails cause va else t.used.refuse 0x01 (headerTval (Config.freeNat t.freeIdx)))
  else
    match first with
    | .error (cause, va) => .next (t.fetchFails cause va)
    | .ok ws =>
      let w := ws.headD 0
      let h := decHeader w
      if !h.ok ∨ base + len < pc + h.len then .next (t.refuse 0x01 (headerTval w.toNat))
      else
        match t.fetch (h.len / 4 - 1) (pc + 4) with
        | (t, .error (cause, va)) => .next (t.fetchFails cause va)
        | (t, .ok ws) => t.checkSlots h (decSlots h allSlots ws)

/-! ## What the main core does next (R32, R35, R37, R41, R153, R160, R372) -/

/-- The launch of the followed context has been killed. -/
def Mach.killedHere (m : Mach) : Bool := match m.launchOf with
  | some l => l.killed
  | none => false

/-- The followed context halts here for a request (R35, R37). -/
def Mach.haltsHere (m : Mach) : Bool :=
  m.core.atHalt && match m.disp.groupOf m.core.num false with
    | some p => p.preempt.isSome && !p.halted.contains m.core.num
    | none => false

/-- One step of the followed context. -/
def State.mainStep (s : State) : Out :=
  let m := s.cur
  let c := m.core
  if m.killedHere then execInstStop c.num s
  else if c.binit.isSome then execBinitDeferred s
  else if c.empties ≠ 0 then execNopEmptyBundle s
  else if c.endDue then execLoopExecutionEnd s
  else if c.status = .ending then (if c.mayRetire then execInstRetire ⟨c.num, false⟩ s else execDrainCycle s)
  else if c.status ≠ .running then .next s.idleCycle
  else if m.haltsHere then execMemberHalt c.num s
  else
    match c.lost with
    | some pa => execStoreLostFault pa s
    | none => s.issueBundle

/-! ## Oasis words (R327, R331 to R333, R343, R346, R347) -/

/-- The meaning of a move, by its destination port (R328). -/
def moveMeaning (port : Nat) (f : FMv) (s : State) : Out :=
  match port with
  | 320 => execIaluAdd f s
  | 576 => execIaluAdd f s
  | 321 => execIaluSub f s
  | 577 => execIaluSub f s
  | 322 => execIaluMul f s
  | 578 => execIaluMul f s
  | 323 => execIaluAnd f s
  | 579 => execIaluAnd f s
  | 324 => execIaluOr f s
  | 580 => execIaluOr f s
  | 325 => execIaluXor f s
  | 581 => execIaluXor f s
  | 326 => execIaluShl f s
  | 582 => execIaluShl f s
  | 327 => execIaluShr f s
  | 583 => execIaluShr f s
  | 328 => execIaluSar f s
  | 584 => execIaluSar f s
  | 329 => execIaluMinu f s
  | 585 => execIaluMinu f s
  | 330 => execIaluMaxu f s
  | 586 => execIaluMaxu f s
  | 331 => execIaluCeq f s
  | 587 => execIaluCeq f s
  | 332 => execIaluCne f s
  | 588 => execIaluCne f s
  | 333 => execIaluClt f s
  | 589 => execIaluClt f s
  | 334 => execIaluCltu f s
  | 590 => execIaluCltu f s
  | 335 => execIaluCle f s
  | 591 => execIaluCle f s
  | 832 => execValuFadd f s
  | 833 => execValuFsub f s
  | 834 => execValuFmul f s
  | 835 => execValuFma f s
  | 836 => execValuFmax f s
  | 837 => execValuFmin f s
  | 838 => execValuIadd f s
  | 839 => execValuBfwide f s
  | 840 => execValuBfnarrow f s
  | 841 => execValuAnd f s
  | 842 => execValuOr f s
  | 843 => execValuXor f s
  | 1088 => execLsuLdd f s
  | 1089 => execLsuLdw f s
  | 1090 => execLsuLdy f s
  | 1091 => execLsuStd f s
  | 1092 => execLsuStw f s
  | 1093 => execLsuSty f s
  | 1094 => execLsuMdrd f s
  | 1095 => execLsuMdwr f s
  | 1344 => execRowCpy f s
  | 1345 => execRowZero f s
  | 1346 => execRowTobuf f s
  | 1347 => execRowFrombuf f s
  | 1600 => execCvsApply f s
  | 1601 => execCvsCount f s
  | 1856 => execSyncInv f s
  | 1857 => execSyncWbinv f s
  | 1858 => execSyncFence f s
  | 1859 => execSyncSignal f s
  | 2112 => execPcJump f s
  | 2113 => execPcCall f s
  | 2114 => execPcRet f s
  | 2115 => execPcHalt f s
  | 2116 => execPcYield f s
  | _ => execMv f s

/-- The moves of a word with their slots; a literal takes the slot after its move (R327). -/
def wordMoves : Nat → List (BitVec 32) → List (Nat × FMv)
  | _, [] => []
  | k, [w] => [(k, decMv w none)]
  | k, w :: l :: t =>
    let f := decMv w none
    if f.src = 0x1EFF then (k, { f with lit := some l }) :: wordMoves (k + 2) t else (k, f) :: wordMoves (k + 1) (l :: t)

/-- The first three rows of R332. -/
def moveFault (x : Nat × FMv) : Option (Nat × Word) := (checkMove x.2).map fun cause => (cause, moveTval x.1 x.2)

/-- What a passing move occupies in its word: a register, guard or operand register, or a unit (R332). -/
def occupies (f : FMv) : List Nat :=
  let p := f.dst.toNat
  if p = 0 then [] else if triggerPorts.contains p then [8192 + portUnit p] else [p]

/-- The fourth row of R332. -/
def clashFault (o : Oasis) (l : List (Nat × FMv)) : Option (Nat × Word) :=
  let l := l.filter fun x => o.passes x.2
  let users (r : Nat) : List (Nat × FMv) := l.filter fun x => (occupies x.2).contains r
  match (l.flatMap fun x => occupies x.2).find? fun r => decide (2 ≤ (users r).length) with
  | some r => some (0x04, BitVec.ofNat 64 (9 * 2 ^ 60 + ((users r).map fun x => 2 ^ x.1).foldl (· + ·) 0 * 2 ^ 32))
  | none => none

def wordFault (o : Oasis) (l : List (Nat × FMv)) : Option (Nat × Word) :=
  match l.findSome? moveFault with
  | some x => some x
  | none => clashFault o l

/-- The moves have their effects. -/
def runMoves : List (Nat × FMv) → State → Out
  | [], s => .next s
  | x :: t, s =>
    let put (m : Mach) : Mach := { m with oas := { m.oas with slot := x.1 } }
    match moveMeaning x.2.dst.toNat x.2 { s with cur := put s.cur, snap := s.snap.map put } with
    | .next s' => runMoves t s'
    | .fault r => .fault r
    | .refused r => .refused r

/-- After a word: the next one, the one that a PC operation names, and a word less for the results in flight. A word that
a PC operation led to keeps the address it came from until its own fetch. -/
def finishWord (o : Oasis) : Oasis :=
  { o with
    pc := o.jump.getD (o.pc + 16)
    jump := o.jump.map fun _ => o.pc
    flight := o.flight.map fun r => { r with left := r.left - 1 } }

def State.finishWord (s : State) : State :=
  match s.verdict with
  | .go => (s.setOas Sys2Proof.Machine.finishWord).close
  | .done => s.close
  | _ => { s with cur := s.rd }.passTime.close

/-- A passing move of the word that reads the R of a poisoned load (R336). -/
def Oasis.readsPoison (o : Oasis) (f : FMv) : Bool := o.passes f && f.src.toNat == 0x410 && o.poisonR.isSome

/-- The moves of a word in the order in which they have their effects: those that trigger nothing write first, then triggers
start in slot order (R331). Where a move reads a poisoned result, only the triggers before it come first: the first fault in
slot order is raised (R332). -/
def moveOrder (o : Oasis) (l : List (Nat × FMv)) : List (Nat × FMv) :=
  let starts (x : Nat × FMv) : Bool := triggerPorts.contains x.2.dst.toNat
  let writes := l.filter fun x => !starts x && !o.readsPoison x.2
  match l.find? fun x => o.readsPoison x.2 with
  | none => writes ++ l.filter starts
  | some p => writes ++ l.filter (fun x => starts x && decide (x.1 < p.1)) ++ [p]

/-- What the poisoned moves of a word would write, for the checks of the triggers before them. -/
def Oasis.prewrite (o : Oasis) (l : List (Nat × FMv)) : Oasis :=
  l.foldl (fun k x => if o.readsPoison x.2 && !triggerPorts.contains x.2.dst.toNat then k.write x.2.dst.toNat (o.source x.2) else k) o

/-- Issue a word that has been fetched. -/
def State.issueWord (s : State) (ws : List (BitVec 32)) : Out :=
  let l := wordMoves 0 ws
  let o := s.cur.oas
  match wordFault o l with
  | some (cause, tval) => .next (s.oasFault cause tval).close
  | none =>
    if l.any fun x => o.passes x.2 && o.waits x.2 then .next s.passTime
    else
      let t := s.passTime
      let t := { t with snap := some t.cur, verdict := .go }.setOas fun o => { o.prewrite l with jump := none, wrote := 0 }
      match runMoves (moveOrder o l) t with
      | .next t => .next t.finishWord
      | .fault r => .fault r
      | .refused r => .refused r

/-- The word at the PC (R343). -/
def State.fetchIssueWord (s : State) : Out :=
  let o := s.cur.oas
  let off := (o.pc - o.base).toNat
  let fetched := s.issueWord (spGets 0 o.code (off / 4) 4)
  match o.jump with
  | some from_ => if o.pc.toNat % 16 ≠ 0 ∨ 16 * o.words < off + 16 then .next (s.oasFault 0x07 from_).close else fetched
  | none => if 16 * o.words < off + 16 then .next (s.oasFault 0x01 o.pc).close else fetched

/-- Results whose words have passed. -/
def Oasis.landing (o : Oasis) : List Nat := (o.flight.filter fun r => r.left == 0).map (·.unit)

def Mach.killedOas (m : Mach) : Bool := match m.disp.launch? m.oas.launch with
  | some l => l.killed
  | none => false

/-- One step of the followed Oasis core. -/
def State.oasisStep (s : State) : Out :=
  let o := s.cur.oas
  match o.landing with
  | u :: t => execOasisResultLand ((u :: t).getD (Config.freeNat s.freeIdx % (t.length + 1)) u) s.used
  | [] =>
    if o.status = .ending then (if o.ops.isEmpty then execInstRetire ⟨144 + o.num, false⟩ s else .next s.passTime)
    else if o.status ≠ .running then .next s.passTime
    else if s.cur.killedOas then execInstStop (144 + o.num) s
    else if o.yielded then (if o.ops.isEmpty then execOasisPreempt s else .next s.passTime)
    else s.fetchIssueWord

end Sys2Proof.Machine
end

