-- ==== Sys2Proof/Machine/Placement.lean ====
section
/-! DEFINITION. Putting an instruction where the next step fetches it (log 5). -/

namespace Sys2Proof.Machine

/-- The slot that a table row's bare word stands in. -/
noncomputable def placeSlot (nbits w : Nat) : Slot :=
  match (decodeTableWord nbits w).bind slotOf with
  | some k => k
  | none => if nbits ≤ 32 then .s0 else .v0

/-- A bundle that holds one slot, with TGT set: header, word, and zeros up to the longest bundle. -/
def bundleBytes (k : Slot) (w : Nat) : List Byte :=
  let header := 2 ^ (31 - k.index) + 2 ^ 15
  natBytes header 4 ++ natBytes w 68

/-- A leaf of a 64 KiB page with every permission of a plain page (R395). -/
def openLeaf (pa : Nat) : Word := BitVec.ofNat 64 (0xC0F + pa)

/-- Bytes placed in the DRAM, uncompressed and without poison; cached copies of their sectors go. -/
def putCode (m : Mem) (pa : Nat) (b : List Byte) : Mem :=
  let secs := (List.range (b.length / 128 + 2)).map (pa / 128 + ·)
  let gone (c : Sp (Option Sector)) : Sp (Option Sector) := c.filter fun e => !secs.contains (e.1 / 2)
  { m with
    dram := cellsWrite m.dram pa b
    poison := secs.foldl (fun p k => spSet false p k false) m.poison
    icache := gone m.icache
    l2 := gone m.l2
    rdc := gone m.rdc
    msc := gone m.msc
    bins := m.bins.filter fun b => !(List.range 4).any fun i => secs.contains (4 * b.line + i) }

/-- The followed context stands before a bundle with the one slot: it runs, its code range holds the bundle, and the page
of the PC is mapped to the lowest page of HBM. -/
def State.placeBundle (s : State) (k : Slot) (w : Nat) : State :=
  let c := s.cur.core
  let page := c.pc.toNat / 65536
  let map (n : Nat) : TlbEnt := ⟨some c.vmid.toNat, page + n, 0, openLeaf (n * 65536)⟩
  let kern : Kernel := match c.kernel with
    | some k => k
    | none => ⟨c.vmid.toNat, 0, 0, 0, 0, kilbinLat, [], 0, 0, 0, 0, 0, 0, [], 0, [], 0, false, false⟩
  { s with
    cur := { s.cur with
      tlb := [map 0, map 1]
      mem := putCode s.cur.mem (c.pc.toNat % 65536) (bundleBytes k w)
      core := { c with
        status := .running
        kernel := some { kern with base := c.pc, len := 72 }
        thandler := if c.tlevel = 0 then c.thandler else c.pc
        thsize := if c.tlevel = 0 then c.thsize else 72
        xfer := none, jump := none, skipTo := none, empties := 0, endDue := false, binit := none, lost := none, atPoint := false } }
    snap := none
    verdict := .go
    turn := .main }

/-- The followed Oasis core stands before a word whose first slot holds the move. -/
def State.placeWord (s : State) (w : Nat) : State :=
  let o := s.cur.oas
  { s with
    cur := { s.cur with oas := { o with
      status := .running
      base := o.pc
      words := 1
      code := spSets 0 o.code 0 [BitVec.ofNat 32 w, 0, 0, 0]
      jump := none
      flight := o.flight.map fun r => { r with left := r.left + 1 }
      yielded := false } }
    snap := none
    verdict := .go
    turn := .oasis }

end Sys2Proof.Machine
end

