-- ==== Sys2Proof/Machine/Sched.lean ====
section
/-! DEFINITION. What can happen next. Cores, engines, memory and the dispatcher work on their own; which of the things that
may happen does happen is Config.schedule's to say, whose values nothing knows (R43, R229, R294; log 7). -/

namespace Sys2Proof.Machine

/-- One pick where a condition holds. -/
def pickIf (b : Bool) (p : Pick) : List Pick := if b then [p] else []

/-- The followed core has something to do: its context runs, and where it is of a PKG_GANG launch every group of that has
been placed (R26); or it has been killed, and stops (R372). -/
def Mach.mainReady (m : Mach) : Bool :=
  (m.core.status == .running || m.core.status == .ending) && (m.killedHere || match m.launchOf with
    | some l => !l.held
    | none => true)

/-- Values of a bank that have not arrived. -/
def arrivals (c : Core) : List Pick :=
  (List.range 3).flatMap fun lvl => ((c.bank lvl).filter fun p => !p.arrived).map fun p => .arrive lvl p.slot

/-- What an operation of the engine queue may do. -/
def enginePicks (m : Mach) (o : EngOp) : List Pick :=
  let dmc := match o.ins with
    | .dmc _ => o.left.map fun k => Pick.dmc o.id k.1
    | _ => []
  let phase := o.left.map fun k => if k.2 = 0 then Pick.drained o.id (k.1 / 8) else Pick.released o.id (k.1 / 8)
  pickIf (mayStart m o) (.start o.id) ++ pickIf (mayComplete m o || (m.core.status == .idle && o.started && !isPhase o)) (.complete o.id) ++ dmc ++ (if isPhase o then phase else []) ++
    pickIf (match o.ins with
      | .csend f => maySend m o f || mayRoute m o
      | _ => false) (.transmit o.id) ++
    pickIf ((crecvFE o.ins).isSome && o.left == [(0, 0)] && (m.messageFor o).isSome) (.take o.id)

/-- The followed core, its engines and its memory operations. -/
def corePicks (m : Mach) : List Pick :=
  let c := m.core
  pickIf m.mainReady .main ++ arrivals c ++ (c.sb.filter fun r => r.val.isSome).map (fun r => Pick.result r.reg) ++
    (c.sb.filter fun r => r.again.isSome).map (fun r => Pick.reload r.reg) ++
    c.eng.flatMap (enginePicks m) ++ pickIf (!c.unacked.isEmpty) .ack ++ pickIf c.refresh .refresh ++
    pickIf (!c.transit.isEmpty) .homeWrite ++
    (match c.memq with
      | [] => []
      | o :: t => (match o.kind with
        | .store => [.homeWrite, .send]
        | .release => [.release]
        | .amo => [.amo]) ++ (List.range t.length).map fun k => Pick.reorder (k + 1)) ++
    pickIf ((c.tlbinv.isSome || !m.peerInvs.isEmpty) && !m.boundWork) .tlbinv ++ (List.range c.pairsOut.length).map Pick.pair ++
    (List.range m.coll.out.length).map Pick.accept ++
    ((List.range m.coll.store.length).filter fun k => (m.coll.store[k]?).any m.heldElsewhere).map Pick.taken

/-- Walks that run at once in a die's pool (R400, R401). -/
def walkers : Nat := 64

/-- Caches and TLBs. -/
def cachePicks (m : Mach) : List Pick :=
  let c := m.mem
  c.fills.map (fun f => Pick.fill f.level f.key) ++ (c.l1.map fun e => Pick.evictL1 e.1) ++ (c.icache.map fun e => Pick.evictIcache e.1) ++
    (c.rdc.map fun e => Pick.evictRdc e.1) ++ (c.l2.map fun e => Pick.evictL2 e.1) ++ (c.msc.map fun e => Pick.evictMsc e.1) ++
    (((List.range walkers).filter fun k => (m.pool[k]?).any fun x => !x.walked).map Pick.walk) ++
    (List.range m.tlb.length).map Pick.evictTlb ++ (List.range m.l2tlb.length).map Pick.evictL2tlb ++
    (List.range m.ptrs.length).map Pick.evictPtr

/-- The followed Oasis core. -/
def oasisPicks (m : Mach) : List Pick :=
  let o := m.oas
  pickIf (o.status == .running || o.status == .ending) .oasis ++
    ([3, 4, 5, 6].filter fun u => (o.ready u).isSome).map Pick.oasisOp ++
    pickIf (o.preempt && o.status == .running && o.ops.isEmpty) .oasisPreempt

/-- Cores of a placed group other than the followed ones, as the events number them. -/
def otherMembers (m : Mach) (p : Placed) : List Nat :=
  let n (r : Nat) : Nat := p.base + r
  ((List.range p.size).filter fun r => !p.retired.contains (n r) && n r != (if p.oasis then m.oas.num else m.core.num)).map fun r =>
    if p.oasis then 144 + n r else n r

/-- A group that is placed. -/
def groupPicks (m : Mach) (p : Placed) : List Pick :=
  let others := otherMembers m p
  let killed := match m.disp.launch? p.launch with
    | some l => l.killed
    | none => false
  let asked := p.preempt.isSome
  let together := (m.disp.together p).all (·.givenUp)
  let late := match p.preempt with
    | some t => decide (Config.abandon.toNat ≤ (m.ftime - t).toNat)
    | none => false
  (if killed then others.map Pick.stop else others.map Pick.retire) ++
    (if asked then (others.filter fun c => !p.halted.contains (if p.oasis then c - 144 else c)).map Pick.halt else []) ++
    pickIf together (.save p.launch p.group) ++ pickIf (late && !together) (.abandon p.launch p.group)

/-- The dispatcher. -/
def dispPicks (m : Mach) : List Pick :=
  let d := m.disp
  let past (t : Word) (n : Nat) : Bool := decide (n ≤ (m.ftime - t).toNat)
  pickIf m.nextBell.isSome .launch ++ pickIf m.choice.isSome .place ++
    pickIf (past d.roundAt Config.round.toNat && !d.launches.isEmpty) .round ++
    pickIf (d.launches.any fun l => l.state == .ready && past l.readyAt ((l.aged + 1) * Config.ageing.toNat)) .ageing ++
    (d.launches.filter fun l => l.state == .accepted).map (fun l => Pick.ready l.id) ++
    (d.launches.filter fun l => l.level == 2 && l.state == .ready).map (fun l => Pick.kill l.id) ++
    (d.launches.filter fun l => d.waiting l).flatMap (fun l => [Pick.priority l.id, Pick.slice l.id]) ++
    (d.launches.filter fun l => (m.completion l).isSome).map (fun l => Pick.done l.id) ++ d.placed.flatMap (groupPicks m) ++
    (d.saved.flatMap fun v => (v.away.filter fun c => (d.groupOf c false).isSome).map (Pick.parted v.launch v.group)) ++
    ((m.retiring.map Prod.fst).filter m.mayLeave).map Pick.leave

/-- What a trained link does on its own (R361, R413 to R415). -/
def linkPicks (now : Nat) (e : Nat × Option Link) : List Pick :=
  let n := e.1
  match e.2 with
  | some l =>
    if l.step ≠ 6 then []
    else
      pickIf (decide (0 < l.win.sinceAck) || decide (0 < l.next.sinceAck)) (.ackTimer n) ++
        pickIf (!l.unacked.isEmpty) (.resend n) ++
        pickIf (l.epochOver (BitVec.ofNat 64 now)) (.epochEnd n) ++
        pickIf (!l.unacked.isEmpty && decide (l.ackedAt.toNat + linkLimit n ≤ now)) (.linkFail n)
  | none => []

/-- What a die does on its own (R421, R422). -/
def diePicks (m : Mach) (e : Nat × Option Die) : List Pick :=
  match e.2 with
  | some d =>
    pickIf (d.retest && !d.testing && m.dieEmpty e.1) (.retest e.1) ++
      pickIf (d.tripped && !d.lost) (.deadline e.1)
  | none => []

/-- Links, dies and the security controller (R426). -/
def modulePicks (m : Mach) : List Pick :=
  m.links.flatMap (linkPicks m.ftime.toNat) ++ m.dies.flatMap (diePicks m) ++ pickIf (m.info.imgstat == 0xFF) .image

/-- Everything that may happen next. -/
def Mach.picks (m : Mach) : List Pick :=
  .time :: corePicks m ++ oasisPicks m ++ cachePicks m ++ dispPicks m ++ modulePicks m ++ pickIf (!m.inbox.isEmpty) .inbox

/-- The oldest thing from outside happens: an event, what is no event being nothing that the outside can cause; a quad peer's
barrier operation, in this cycle (R160); another core's TLBINV (R375) or fatal fault (R372); a read of the device information
block over MCTP (R411); or the end of a peer's epoch (R413). -/
def State.takeInbox (s : State) : Out :=
  match s.cur.inbox with
  | [] => .next s
  | x :: t =>
    let s := s.setCur fun m => { m with inbox := t }
    match x with
    | .event i => match view i with
      | .event => exec i s
      | _ => .next s
    | .barrier rank key kind operand => .next (s.setCur fun m =>
        if rank < 4 ∧ rank ≠ m.core.rank ∧ m.peerThere rank then { m with peerOps := m.peerOps ++ [(rank, key, kind, operand)] } else m)
    | .invalidate mode va vmid => .next (s.setCur fun m => { m with peerInvs := m.peerInvs ++ [(mode, va, vmid)] })
    | .fatal core cause epc tval => .next { s with cur := otherKill s.cur core cause epc tval s.freeIdx, freeIdx := s.freeIdx + 10 }
    | .mctp off len => .next (s.setCur fun m => m.reply (some ((m.info.block.drop off).take len)))
    | .epochDone link => .next (s.setCur (endPeerEpoch · link))

/-- The group that the policy chooses: placed afresh, or resumed (R388, R391). -/
def State.placeNext (s : State) : Out :=
  match s.cur.choice with
  | none => .next s
  | some (l, g, _) =>
    if (s.cur.disp.saved? l.id g).isSome then execGroupResume l.id g s
    else if l.level = 1 then execOasisInstPlace l.id s
    else execGroupPlace l.id s

/-- The packet that arrived first is accepted. -/
def State.acceptNext (s : State) : Out :=
  match s.cur.nextBell with
  | some b => execLaunchAccept b.vmid (if 64 ≤ b.queue then .device else .host) (b.queue % 64) s
  | none => .next s

/-- An own message is accepted by the module it is for. -/
def State.acceptOut (s : State) (k : Nat) : Out :=
  match s.cur.coll.out[k]? with
  | some x => execMessageAccept x.2 s
  | none => .next s

/-- The miss at a place of the pool is walked for (R401). -/
def State.walkFor (s : State) (k : Nat) : Out :=
  match s.cur.pool[k]? with
  | some x => execTableWalk x.vmid (BitVec.ofNat 64 (x.page * 65536)) x.acc s
  | none => .next s

def runPick (p : Pick) (s : State) : Out :=
  match p with
  | .time => .next (s.stallCycle coreIdle)
  | .main => s.mainStep
  | .oasis => s.oasisStep
  | .inbox => s.takeInbox
  | .arrive level entry => execOverdueValueArrive level entry s
  | .result reg => execScoreboardResultWrite reg s
  | .reload reg => .next (s.reload reg)
  | .start op => execEngineOpStart op s
  | .complete op => execTokenComplete (.own op) s
  | .dmc op rank => execDmcLanding op rank s
  | .drained op bank => execPhaseCacheEighthDrained op bank s
  | .released op bank => execPhaseScratchEighthReleased op bank s
  | .send => .next (s.setCur sendStore)
  | .reorder k => .next (s.setCur (overtake · k))
  | .ack => execStoreAcknowledge s
  | .release => execReleaseStorePerform s
  | .refresh => execAcquireFenceRefresh s
  | .homeWrite => execHomeWriteApply .own s
  | .fill level key => execLineFill level key s
  | .evictL1 key => .next (s.setMem fun m => { m with l1 := spSet none m.l1 key none })
  | .evictIcache key => .next (s.setMem fun m => { m with icache := spSet none m.icache key none })
  | .evictRdc key => .next (s.setMem fun m => { m with rdc := spSet none m.rdc key none })
  | .evictL2 key => execL2Eviction key s
  | .evictMsc key => execMscEviction key s
  | .walk k => s.walkFor k
  | .evictTlb k => .next (s.setCur fun m => { m with tlb := m.tlb.eraseIdx k })
  | .evictL2tlb k => .next (s.setCur fun m => { m with l2tlb := m.l2tlb.eraseIdx k })
  | .evictPtr k => .next (s.setCur fun m => { m with ptrs := m.ptrs.eraseIdx k })
  | .amo => execAmoPerform s
  | .tlbinv => execTlbinvComplete s
  | .pair index => execPairAccept (.own index) s
  | .transmit op => execCsendTransmit op s
  | .accept k => s.acceptOut k
  | .take op => execCrecvMatch op s
  | .taken k => .next (s.setCur (takeHeld · k))
  | .oasisOp unit => execOasisOpComplete unit s
  | .oasisPreempt => execOasisPreempt s
  | .launch => s.acceptNext
  | .ready id => execLaunchReady id s
  | .kill id => execControlKill id s
  | .place => s.placeNext
  | .round => execDrrRound s
  | .ageing => execAgeingInterval s
  | .priority id => execPriorityPreempt id s
  | .slice id => execTimeSlicePreempt id s
  | .halt core => execMemberHalt core s
  | .save id group => execGroupSave id group s
  | .abandon id group => execAbandonInterval id group s
  | .parted id group core => .next (s.setCur (partGroup · id group core))
  | .leave quad => .next (s.setCur (leaveQuad · quad))
  | .ackTimer link => execAckTimer link s
  | .resend link => execRetransmitTimeout link s
  | .epochEnd link => execEpochEnd link s
  | .linkFail link => execLinkFail link s
  | .retest die => execVbusRetest die s
  | .deadline die => execStoreLayerDeadline die s
  | .image => execImgstatWrite s
  | .retire core => execInstRetire ⟨core, false⟩ s
  | .stop core => execInstStop core s
  | .done id => execLaunchComplete id s

/-- What must happen in the end where it stays possible (R43, R293): all but what only a cache, another core's instance or the
outside decides. -/
def Pick.promised : Pick → Bool
  | .fill _ _ | .evictL1 _ | .evictIcache _ | .evictRdc _ | .evictL2 _ | .evictMsc _ | .evictTlb _ | .evictL2tlb _ | .evictPtr _
  | .reorder _ | .reload _ | .send | .taken _ | .parted _ _ _ | .halt _ | .retire _ | .resend _ => false
  | _ => true

/-- How long a pick has been passed over. -/
def waited (l : List (Pick × Nat)) (p : Pick) : Nat := match l.find? fun x => x.1 == p with
  | some x => x.2
  | none => 0

/-- The pick that has waited longest, where one has waited too long. -/
def State.overdue (s : State) (l : List Pick) : Option Pick :=
  let late := l.filter fun p => p.promised && decide (Config.patience ≤ waited s.waits p)
  late.find? fun p => late.all fun q => decide (waited s.waits q ≤ waited s.waits p)

/-- One of the things that may happen: the one that has waited too long, else the schedule's choice (log 7). -/
def State.anyStep (s : State) : Out :=
  let l := s.cur.picks
  let p := (s.overdue l).getD (l.getD (Config.schedule s.freeIdx % l.length) .time)
  runPick p { s.used with waits := ((l.filter fun q => q.promised && q != p).eraseDups).map fun q => (q, waited s.waits q + 1) }

end Sys2Proof.Machine
end

