-- ==== Sys2Proof/Machine/Step.lean ====
section
/-! DEFINITION. One step of the machine. -/

namespace Sys2Proof.Machine

/-- One step: what `turn` asks for, or one of the things that may happen. -/
def step (s : State) : Host.Outcome State Fault Refusal :=
  let t := { s with turn := .any }
  match s.turn with
  | .main => t.mainStep
  | .oasis => t.oasisStep
  | .any => t.anyStep

/-- The instruction of a table row's word, placed where the next step fetches it (log 5). -/
noncomputable def State.withFetchWord (s : State) (nbits w : Nat) : State :=
  match (decodeTableWord nbits w).map view with
  | some (.move _) => s.placeWord w
  | _ => s.placeBundle (placeSlot nbits w) w

end Sys2Proof.Machine
end

