-- ==== Sys2Proof/Safety.lean ====
section
/-! DEFINITION. What claims call a sound state, and when an instruction has its own effect. -/

namespace Sys2Proof.Machine

/-- Nothing of a bundle or word is half issued (R48, R61, R331). -/
def State.idle (s : State) : Prop := s.snap = none ∧ s.verdict = .go

/-- The DRAM and the quad's scratchpads are in canonical form: equal contents are equal data. -/
def Mach.memWf (m : Mach) : Prop := Memory.wf m.mem.dram = true ∧ Memory.wf m.quad.sp = true

/-- The register files of a context are in canonical form (R99). -/
def Core.filesWf (c : Core) : Prop :=
  spWf 0 c.s = true ∧ spWf 0 c.v = true ∧ spWf 0 c.w = true ∧ spWf 0 c.x = true ∧ spWf 0 c.m = true ∧ spWf 0 c.c = true ∧
    spWf 0 c.shape = true ∧ spWf laneOnes c.vm = true ∧ spWf laneOnes c.wm = true

/-- A context at a trap level that R363 knows, with its files in canonical form. -/
def Core.ok (c : Core) : Prop := c.tlevel ≤ 2 ∧ c.filesWf

/-- The followed context is sound, and so is every saved one that may take its place. -/
def Mach.coresOk (m : Mach) : Prop := m.core.ok ∧ ∀ v ∈ m.disp.saved, ∀ c, v.core = some c → c.ok

/-- A sound state. -/
def State.Inv (s : State) : Prop := s.idle ∧ s.cur.memWf ∧ s.cur.coresOk

/-- The bundle's earlier slots leave this slot to be looked at: none has finished the bundle or waits for its table walk
(R61, R401). -/
abbrev State.reached (s : State) : Prop := s.verdict ≠ .done ∧ s.verdict ≠ .walk

/-- Nothing stands in the way of a slot instruction (R31, R61, R66, R100, R156, R231): the slot is reached, its
encoding is accepted in the context's mode with the directions of its ports, its predicate holds, no register it names is awaited or overdue, and no fault
mark bars it. -/
def Runs (i : Instr) (s : State) : Prop :=
  s.reached ∧ s.rd.core.checks i = none ∧ s.rd.core.pred (predOf i) = true ∧
    ((s.rd.core.reads i ++ writesOf i).any s.rd.core.unready) = false ∧ s.rd.core.markOn i = none

/-- Nothing stands in the way of an Oasis move (R331 to R333, R347). -/
def Moves (f : FMv) (s : State) : Prop :=
  s.verdict ≠ .done ∧ checkMove f = none ∧ s.rd.oas.passes f = true ∧ s.rd.oas.waits f = false ∧
    ¬(f.src.toNat = 0x410 ∧ s.rd.oas.poisonR.isSome)

end Sys2Proof.Machine
end

