-- ==== Sys2Proof/WellFormed.lean ====
section
/-! DEFINITION. Well-formed instructions: the term is of the row it says, and a privileged context would accept its
word (R61 step 2, R332). -/

namespace Sys2Proof

/-- The instruction is of its row and passes every encoding check. -/
def Instr.wf (i : Instr) : Bool := named i && (Machine.check true i).isNone

end Sys2Proof
end

