-- ==== Sys2Proof/Certificates/Slice0/Obligations.lean ====
section
/-! DEFINITION. Statements for the provers. Each docstring names the rules of spec/ that the statement follows, or says
that a clause is the model's own choice and names the log entry. -/

open Sys2Proof Sys2Proof.Machine

namespace Sys2Proof.Claim

/-! ## Words shared by the statements -/

/-- A binary operation at each width (R135). -/
abbrev WidthOp := (n : Nat) → BitVec n → BitVec n → BitVec n

/-- The operation at the width that W selects, written sign-extended (R135). -/
def atWidth (w : BitVec 1) (g : WidthOp) (a b : Word) : Word :=
  if w = 1 then (g 32 (a.setWidth 32) (b.setWidth 32)).signExtend 64 else g 64 a b

def truth (n : Nat) (b : Bool) : BitVec n := BitVec.ofNat n b.toNat

/-- The bytes of a word in reverse order. -/
def reverseBytes (n : Nat) (a : BitVec n) : BitVec n :=
  (List.range (n / 8)).foldl (fun r k => r ||| ((a >>> (8 * k)) &&& BitVec.ofNat n 255) <<< (n - 8 - 8 * k)) 0

/-- The table of R138, with the class of each operation. -/
def integerOps : List ((FR → Instr) × Nat × WidthOp) := [
  (.add, clsA1, fun _ a b => a + b),
  (.sub, clsA1, fun _ a b => a - b),
  (.mul, clsSM, fun _ a b => a * b),
  (.mulh, clsSM, fun n a b => (a.signExtend (2 * n) * b.signExtend (2 * n)).extractLsb' n n),
  (.mulhu, clsSM, fun n a b => (a.setWidth (2 * n) * b.setWidth (2 * n)).extractLsb' n n),
  (.and, clsA1, fun _ a b => a &&& b),
  (.or, clsA1, fun _ a b => a ||| b),
  (.xor, clsA1, fun _ a b => a ^^^ b),
  (.andn, clsA1, fun _ a b => a &&& ~~~b),
  (.orn, clsA1, fun _ a b => a ||| ~~~b),
  (.shl, clsA1, fun n a b => a <<< (b.toNat % n)),
  (.shr, clsA1, fun n a b => a >>> (b.toNat % n)),
  (.sar, clsA1, fun n a b => a.sshiftRight (b.toNat % n)),
  (.rol, clsA1, fun n a b => a.rotateLeft (b.toNat % n)),
  (.ror, clsA1, fun n a b => a.rotateRight (b.toNat % n)),
  (.min, clsA1, fun _ a b => if a.sle b then a else b),
  (.max, clsA1, fun _ a b => if a.sle b then b else a),
  (.minu, clsA1, fun _ a b => if a.ule b then a else b),
  (.maxu, clsA1, fun _ a b => if a.ule b then b else a),
  (.abs, clsA1, fun _ a _ => if a.msb then -a else a),
  (.cmpeq, clsA1, fun n a b => truth n (a == b)),
  (.cmpne, clsA1, fun n a b => truth n (a != b)),
  (.cmplt, clsA1, fun n a b => truth n (a.slt b)),
  (.cmpltu, clsA1, fun n a b => truth n (a.ult b)),
  (.cmple, clsA1, fun n a b => truth n (a.sle b)),
  (.cmpleu, clsA1, fun n a b => truth n (a.ule b)),
  (.clz, clsA1, fun _ a _ => a.clz),
  (.ctz, clsA1, fun _ a _ => a.ctz),
  (.popc, clsA1, fun _ a _ => a.cpop),
  (.bswap, clsA1, fun n a _ => reverseBytes n a)]

/-- The table of R140: operations on 64 bits with the sign-extended immediate. -/
def immediateOps : List ((FI → Instr) × (Word → Word → Word)) := [
  (.addi, (· + ·)),
  (.andi, (· &&& ·)),
  (.ori, (· ||| ·)),
  (.xori, (· ^^^ ·)),
  (.shli, fun a i => a <<< (i.toNat % 64)),
  (.shri, fun a i => a >>> (i.toNat % 64)),
  (.sari, fun a i => a.sshiftRight (i.toNat % 64)),
  (.cmpeqi, fun a i => truth 64 (a == i)),
  (.cmplti, fun a i => truth 64 (a.slt i)),
  (.cmpltui, fun a i => truth 64 (a.ult i))]

/-- The immediate of an I form: IMM10, or the literal in its place, sign-extended (R51, R140). -/
def immOf (f : FI) : Word := match f.lit with
  | some l => l.signExtend 64
  | none => f.imm.signExtend 64

/-- Quotient toward zero and remainder with the sign of the dividend, at each width (R142). -/
def divisionOps : List ((FR → Instr) × WidthOp) := [
  (.div, fun n a b => BitVec.ofInt n (a.toInt.tdiv b.toInt)),
  (.divu, fun n a b => BitVec.ofNat n (a.toNat / b.toNat)),
  (.rem, fun n a b => BitVec.ofInt n (a.toInt.tmod b.toInt)),
  (.remu, fun n a b => BitVec.ofNat n (a.toNat % b.toNat))]

/-- The low n bits of the divisor are zero (R142). -/
def divisorZero (f : FR) (b : Word) : Prop := if f.w = 1 then b.setWidth 32 = 0 else b = 0

/-- Float operations that round once, and those that do not round (R143): from the FP32 codes in bits 31:0. -/
def floatOps : List ((FR → Instr) × (FR → Val → Val → Nat)) := [
  (.fadd, fun f a b => roundF 0 (f.fn.toNat % 4) (a.add (f.fn.toNat % 4) b)),
  (.fsub, fun f a b => roundF 0 (f.fn.toNat % 4) (a.sub (f.fn.toNat % 4) b)),
  (.fmul, fun f a b => roundF 0 (f.fn.toNat % 4) (a.mul b)),
  (.fmin, fun _ a b => roundF 0 0 (a.min b)),
  (.fmax, fun _ a b => roundF 0 0 (a.max b)),
  (.fcmpeq, fun _ a b => (a.eq b).toNat),
  (.fcmplt, fun _ a b => (a.lt b).toNat),
  (.fcmple, fun _ a b => (a.lt b || a.eq b).toNat)]

/-- The encoding is refused with cause 0x02, and nothing else is done (R61, R62). -/
def refused02 (i : Instr) (s : State) : Prop := exec i s = .next (s.raise 0x02 (encTval s.rd.core i))

/-- The value of the FP32 code in bits 31:0 (R143). -/
def fp32 (x : Word) : Val := decF 0 (x.setWidth 32).toNat

/-- The destination of an instruction whose one effect is an exposed S result. -/
def exposedDest (i : Instr) : Option (BitVec 6) := match i with
  | .add f | .sub f | .mul f | .mulh f | .mulhu f | .and f | .or f | .xor f | .andn f | .orn f | .shl f | .shr f | .sar f
  | .rol f | .ror f | .min f | .max f | .minu f | .maxu f | .abs f | .cmpeq f | .cmpne f | .cmplt f | .cmpltu f | .cmple f
  | .cmpleu f | .sel f | .clz f | .ctz f | .popc f | .bswap f | .sext f | .zext f | .fadd f | .fsub f | .fmul f | .fmin f
  | .fmax f | .fcmpeq f | .fcmplt f | .fcmple f | .fcvt f | .fclass f | .pcsrr f => some f.rd
  | .addi f | .andi f | .ori f | .xori f | .shli f | .shri f | .sari f | .cmpeqi f | .cmplti f | .cmpltui f => some f.rd
  | .li f | .lih f => some f.rd
  | _ => none

/-- t differs from s at most in the S register of the physical number p, in marks and unread tokens, in the bank of the
running level, which has one entry more or none of whose entries still holds an older write of that register (R67), and in the
count of free values: no other register of any file, no special register, no byte of any memory. -/
def onlyScalar (s t : State) (p : Nat) : Prop :=
  (∃ n, t = { s with cur := { s.cur with core := t.cur.core }, freeIdx := n }) ∧
    (∃ b, { t.cur.core with
        s := s.cur.core.s, marks := s.cur.core.marks, unread := s.cur.core.unread, engFault := s.cur.core.engFault } =
      s.cur.core.setBank s.cur.core.tlevel b ∧
        (b = s.cur.core.bank s.cur.core.tlevel ∨ (∃ e, b = s.cur.core.bank s.cur.core.tlevel ++ [e]) ∨
          ∃ e x, e.writes = [⟨.s p, x⟩] ∧ b = (s.cur.core.bank s.cur.core.tlevel).map (·.under e))) ∧
    ∀ k, k ≠ p → spGet 0 t.cur.core.s k = spGet 0 s.cur.core.s k

end Sys2Proof.Claim

open Sys2Proof.Claim

/-! ## Scalar arithmetic (07_scalar_and_control.md) -/

/-- R138 with R135 and R136: every integer operation of the common block, at both widths, completes with the result and the class
of the table; those that take no second operand refuse one. -/
def Obligations.IntegerResults : Prop :=
  (∀ op ∈ integerOps, ∀ (f : FR) (s : State), Runs (op.1 f) s →
    exec (op.1 f) s =
      .next ((s.noteRead (op.1 f)).writeS op.2.1 f.rd (atWidth f.w op.2.2 (s.reg f.ra) (s.opB f)))) ∧
  ∀ op ∈ [Instr.abs, .clz, .ctz, .popc, .bswap], ∀ (f : FR) (s : State), s.reached →
    f.rb ≠ 0 ∨ f.lit.isSome = true → refused02 (op f) s

/-- R139: SEL, SEXT and ZEXT, and the fields they refuse. -/
def Sys2Proof.Claim.SelectAndExtend : Prop :=
  ∀ (f : FR) (s : State),
    (s.reached → f.w = 1 → refused02 (.sel f) s ∧ refused02 (.sext f) s ∧ refused02 (.zext f) s) ∧
    (s.reached → 3 ≤ f.fn.toNat ∨ f.rb ≠ 0 ∨ f.lit.isSome = true → refused02 (.sext f) s ∧ refused02 (.zext f) s) ∧
    (Runs (.sel f) s → exec (.sel f) s = .next ((s.noteRead (.sel f)).writeS clsA1 f.rd
      (if s.reg f.rd ≠ 0 then s.reg f.ra else s.opB f))) ∧
    (Runs (.sext f) s →
      (f.fn = 0 → exec (.sext f) s = .next ((s.noteRead (.sext f)).writeS clsA1 f.rd (((s.reg f.ra).setWidth 8).signExtend 64))) ∧
      (f.fn = 1 → exec (.sext f) s = .next ((s.noteRead (.sext f)).writeS clsA1 f.rd (((s.reg f.ra).setWidth 16).signExtend 64))) ∧
      (f.fn = 2 → exec (.sext f) s = .next ((s.noteRead (.sext f)).writeS clsA1 f.rd (((s.reg f.ra).setWidth 32).signExtend 64)))) ∧
    (Runs (.zext f) s →
      (f.fn = 0 → exec (.zext f) s = .next ((s.noteRead (.zext f)).writeS clsA1 f.rd (((s.reg f.ra).setWidth 8).setWidth 64))) ∧
      (f.fn = 1 → exec (.zext f) s = .next ((s.noteRead (.zext f)).writeS clsA1 f.rd (((s.reg f.ra).setWidth 16).setWidth 64))) ∧
      (f.fn = 2 → exec (.zext f) s = .next ((s.noteRead (.zext f)).writeS clsA1 f.rd (((s.reg f.ra).setWidth 32).setWidth 64))))

/-- R140 and R141: the immediate forms, LI and LIH, and the counts that the shifts refuse. -/
def Sys2Proof.Claim.ImmediateResults : Prop :=
  (∀ op ∈ [Instr.shli, .shri, .sari], ∀ (f : FI) (s : State), s.reached → 63 < (immOf f).toNat → refused02 (op f) s) ∧
  (∀ op ∈ immediateOps, ∀ (f : FI) (s : State), Runs (op.1 f) s →
    exec (op.1 f) s = .next ((s.noteRead (op.1 f)).writeS clsA1 f.rd (op.2 (s.reg f.ra) (immOf f)))) ∧
  ∀ (f : FLI) (s : State),
    let k : BitVec 32 := match f.lit with
      | some l => l
      | none => f.imm.signExtend 32
    (Runs (.li f) s → exec (.li f) s = .next ((s.noteRead (.li f)).writeS clsA1 f.rd (k.signExtend 64))) ∧
    (Runs (.lih f) s → exec (.lih f) s =
      .next ((s.noteRead (.lih f)).writeS clsA1 f.rd (k ++ (s.reg f.rd).setWidth 32)))

/-- R142: with a divisor whose low n bits are zero, cause 0x10 with the n-bit dividend in the low bits of TVAL and nothing else
done; else the scoreboarded quotient or remainder. -/
def Obligations.DivisionResults : Prop :=
  ∀ op ∈ divisionOps, ∀ (f : FR) (s : State), Runs (op.1 f) s →
    (divisorZero f (s.opB f) → ∃ v : Word, (f.w = 0 → v = s.reg f.ra) ∧ v.setWidth 32 = (s.reg f.ra).setWidth 32 ∧
      exec (op.1 f) s = .next ((s.noteRead (op.1 f)).raise 0x10 v)) ∧
    (¬divisorZero f (s.opB f) → exec (op.1 f) s =
      .next ((s.noteRead (op.1 f)).later f.rd (some (atWidth f.w op.2 (s.reg f.ra) (s.opB f))) none))

/-- R143: scalar float operations work on the FP32 values of bits 31:0 and write bits 63:32 zero; FDIV is scoreboarded. -/
def Sys2Proof.Claim.FloatResults : Prop :=
  (∀ op ∈ floatOps, ∀ (f : FR) (s : State), Runs (op.1 f) s →
    ∃ x : BitVec 32, x.toNat = op.2 f (fp32 (s.reg f.ra)) (fp32 (s.opB f)) ∧
      exec (op.1 f) s = .next ((s.noteRead (op.1 f)).writeS clsSM f.rd (x.setWidth 64))) ∧
  ∀ (f : FR) (s : State), Runs (.fdiv f) s →
    ∃ x : BitVec 32, x.toNat = roundF 0 (f.fn.toNat % 4) ((fp32 (s.reg f.ra)).div (fp32 (s.opB f))) ∧
      exec (.fdiv f) s = .next ((s.noteRead (.fdiv f)).later f.rd (some (x.setWidth 64)) none)

/-- R144: FCVT of a finite value to an integer rounds once and clamps, a NaN gives 0; FCLASS writes exactly one bit. -/
def Sys2Proof.Claim.ConvertAndClass : Prop :=
  ∀ (f : FR) (s : State),
    (Runs (.fcvt f) s →
      ∃ v, exec (.fcvt f) s = .next ((s.noteRead (.fcvt f)).writeS clsSM f.rd v) ∧
        (f.rb = 0 → v.toInt = toIntClamp 9 (f.fn.toNat % 4) (fp32 (s.reg f.ra))) ∧
        (f.rb = 1 → (v.toNat : Int) = toIntClamp 10 (f.fn.toNat % 4) (fp32 (s.reg f.ra))) ∧
        (f.rb = 2 → v.toInt = toIntClamp 11 (f.fn.toNat % 4) (fp32 (s.reg f.ra))) ∧
        (f.rb = 3 → v.toNat = roundF 0 (f.fn.toNat % 4) (Val.ofInt ((s.reg f.ra).setWidth 32).toInt)) ∧
        (f.rb = 4 → v.toNat = roundF 0 (f.fn.toNat % 4) (Val.ofInt ((s.reg f.ra).setWidth 32).toNat)) ∧
        (f.rb = 5 → v.toNat = roundF 0 (f.fn.toNat % 4) (Val.ofInt (s.reg f.ra).toInt)) ∧
        (6 ≤ f.rb.toNat → v.toNat < 2 ^ 32)) ∧
    (Runs (.fclass f) s →
      ∃ k, k < 10 ∧ exec (.fclass f) s = .next ((s.noteRead (.fclass f)).writeS clsSM f.rd (BitVec.ofNat 64 (2 ^ k))) ∧
        (k = 4 ↔ (s.reg f.ra).setWidth 32 = (0 : BitVec 32)) ∧ (k = 7 ↔ (s.reg f.ra).setWidth 32 = (0x7F800000 : BitVec 32)) ∧
        (fp32 (s.reg f.ra) = .nan ↔ k = 8 ∨ k = 9))

/-- An exposed S result changes one register, or waits in the bank of the running level; everything else of the machine,
every byte of memory included, is as it was (R63, R67, R68, R138 to R144, R374). -/
def Sys2Proof.Claim.ScalarFrame : Prop :=
  ∀ (i : Instr) (rd : BitVec 6) (s t : State), exposedDest i = some rd → Runs i s → exec i s = .next t →
    onlyScalar s t (s.rd.core.physS rd.toNat)

/-- R63, R68 and R100: an exposed result of latency 1 is what the next bundle reads; one of a longer latency L leaves the
register as it is and takes an entry that has counted this cycle, L − 1; a write to s0 does nothing. Which entry number is
taken is the model's choice (log 11). -/
def Sys2Proof.Claim.ExposedVisibility : Prop :=
  ∀ (s : State) (cls : Nat) (n : BitVec 6) (v : Word),
    s.idle → spWf 0 s.cur.core.s = true →
    s.writeS cls 0 v = s ∧
    (n ≠ 0 → s.cur.core.latency cls ≤ 1 → kilbinLat.getD cls 1 ≤ 1 → (s.writeS cls n v).cur.core.readS n = v) ∧
    (n ≠ 0 → 2 ≤ s.cur.core.latency cls →
      (s.writeS cls n v).cur.core.readS n = s.cur.core.readS n ∧
      ∃ e : Pending, (s.writeS cls n v).cur.core.bank s.cur.core.tlevel = s.cur.core.bank s.cur.core.tlevel ++ [e] ∧
        e.count = s.cur.core.latency cls - 1 ∧ e.overdue = false ∧
        e.writes = [⟨.s (s.cur.core.physS n.toNat), v.setWidth 1024⟩])

/-- R33: register n of a rotating region names 32 + ((n − 32 + B) mod 32), B the sum of the bases of the open levels; the
others do not rotate. -/
def Sys2Proof.Claim.Rotation : Prop :=
  ∀ (c : Core) (n : Nat),
    (n < 32 → c.physS n = n ∧ c.physV n = n ∧ c.physW n = n) ∧
    (32 ≤ n → n < 64 → c.tlevel = 0 →
      c.physS n = 32 + (n - 32 + (c.loops.map (·.baseS)).sum) % 32 ∧
      c.physV n = 32 + (n - 32 + (c.loops.map (·.baseV)).sum) % 32 ∧
      c.physW n = 32 + (n - 32 + (c.loops.map (·.baseW)).sum) % 32) ∧
    (c.tlevel ≠ 0 → 32 ≤ n → n < 64 → c.physS n = n ∧ c.physV n = n ∧ c.physW n = n)

namespace Sys2Proof.Claim

/-- The CSRs whose reading is a plain value of the machine (R109 to R112, R365); CYCLE and FTIME are apart. -/
def csrTable : List (Nat × (Mach → Word)) := [
  (0x002, fun m => BitVec.ofNat 64 (m.core.num % 16)),
  (0x003, fun m => BitVec.ofNat 64 (m.core.num / 4 % 4)),
  (0x004, fun m => BitVec.ofNat 64 (m.core.num / 16)),
  (0x005, fun m => (m.info.campus.setWidth 64 <<< 16) ||| m.info.pkg.setWidth 64),
  (0x006, fun m => m.core.karg),
  (0x007, fun m => BitVec.ofNat 64 (qbase + m.core.num % 4 * 0x4000000)),
  (0x008, fun m => m.quad.splitOf m.core.rank),
  (0x010, fun m => m.core.sidx.getD 0 0), (0x011, fun m => m.core.sidx.getD 1 0), (0x012, fun m => m.core.sidx.getD 2 0),
  (0x013, fun m => m.core.sidx.getD 3 0), (0x014, fun m => m.core.sidx.getD 4 0), (0x015, fun m => m.core.sidx.getD 5 0),
  (0x018, fun m => m.core.vrow.setWidth 64), (0x019, fun m => m.core.wrow.setWidth 64),
  (0x01A, fun m => (List.range 8).foldl (fun x k => if 1 ≤ k ∧ m.core.pred k then x ||| (1 <<< k) else x) 0),
  (0x100, fun m => BitVec.ofNat 64 m.core.tlevel), (0x101, (·.core.thandler)), (0x102, (·.core.thsize)),
  (0x103, (·.core.tsave)), (0x104, (·.core.kstat)), (0x105, fun m => m.core.vmid.setWidth 64),
  (0x110, (·.core.trap1.cause)), (0x111, (·.core.trap1.epc)), (0x112, (·.core.trap1.val)), (0x113, (·.core.trap1.scr)),
  (0x120, (·.core.trap2.cause)), (0x121, (·.core.trap2.epc)), (0x122, (·.core.trap2.val)), (0x123, (·.core.trap2.scr))]

/-- The CSRs that CSRW writes, and the core after it (R24, R109, R112, R365). -/
def csrWrites : List (Nat × (Core → Word → Core)) := [
  (0x018, fun c x => { c with vrow := x.setWidth 8 }),
  (0x019, fun c x => { c with wrow := x.setWidth 8 }),
  (0x103, fun c x => { c with tsave := x }),
  (0x104, fun c x => { c with kstat := x }),
  (0x111, fun c x => { c with trap1 := { c.trap1 with epc := x } }),
  (0x113, fun c x => { c with trap1 := { c.trap1 with scr := x } }),
  (0x121, fun c x => { c with trap2 := { c.trap2 with epc := x } }),
  (0x123, fun c x => { c with trap2 := { c.trap2 with scr := x } })]

end Sys2Proof.Claim

/-! ## CSRs, the frozen bank, and the copies of S0 into other files -/

/-- R109 to R112, R145, R365: CSRR reads each CSR as it stood when the bundle began, the clocks
CYCLE and FTIME too (how far they move from bundle to bundle is free, log 10). -/
def Sys2Proof.Claim.CsrReads : Prop :=
  ∀ (f : FR) (s : State), Runs (.csrr f) s →
    (∀ e ∈ csrTable, f.csrn = e.1 → exec (.csrr f) s = .next ((s.noteRead (.csrr f)).writeS clsA1 f.rd (e.2 s.rd))) ∧
    (f.csrn = 0x000 → exec (.csrr f) s = .next ((s.noteRead (.csrr f)).writeS clsA1 f.rd s.rd.cycle)) ∧
    (f.csrn = 0x001 → exec (.csrr f) s = .next ((s.noteRead (.csrr f)).writeS clsA1 f.rd s.rd.ftime))

/-- R24, R109, R112, R145, R365: CSRW writes the CSRs that may be written, VROW and WROW modulo 256, and nothing else; a
write to a read-only CSR is ignored. -/
def Sys2Proof.Claim.CsrWrites : Prop :=
  ∀ (f : FR) (s : State), Runs (.csrw f) s →
    (∀ e ∈ csrWrites, f.csrn = e.1 → exec (.csrw f) s = .next ((s.noteRead (.csrw f)).setCore (e.2 · (s.reg f.rd)))) ∧
    ((∀ e ∈ csrWrites, f.csrn ≠ e.1) → exec (.csrw f) s = .next (s.noteRead (.csrw f)))

/-- R374: PCSRR of state number 0x30 counts the entries of the frozen bank, of an entry's number gives its descriptor (bit
63 set), and 0 where there is none; PCSRW with bit 63 clear cancels the entry, with bit 63 set leaves all as it is. -/
def Sys2Proof.Claim.FrozenBankAccess : Prop :=
  ∀ (f : FR) (s : State), 1 ≤ s.rd.core.tlevel →
    (Runs (.pcsrr f) s → ∃ v : Word, exec (.pcsrr f) s = .next ((s.noteRead (.pcsrr f)).writeS clsA1 f.rd v) ∧
      (f.csrn = 0x30 → (s.rd.core.bank (s.rd.core.tlevel - 1)).length < 2 ^ 64 →
        v.toNat = (s.rd.core.bank (s.rd.core.tlevel - 1)).length) ∧
      (∀ p, f.csrn ≠ 0x30 → (s.rd.core.bank (s.rd.core.tlevel - 1)).find? (·.slot == f.csrn) = some p →
        v.getLsbD 63 = true ∧ v.getLsbD 62 = p.overdue ∧ (v.extractLsb' 56 6).toNat = p.count % 64 ∧
          (v.extractLsb' 52 4).toNat = p.cls % 16 ∧ (v.extractLsb' 48 4).toNat = p.file % 16 ∧
          (v.extractLsb' 40 8).toNat = p.reg % 256 ∧ v.extractLsb' 0 40 = 0) ∧
      (f.csrn ≠ 0x30 → (s.rd.core.bank (s.rd.core.tlevel - 1)).find? (·.slot == f.csrn) = none → v = 0)) ∧
    (Runs (.pcsrw f) s →
      ((s.reg f.rd).getLsbD 63 = true → exec (.pcsrw f) s = .next (s.noteRead (.pcsrw f))) ∧
      ((s.reg f.rd).getLsbD 63 = false → exec (.pcsrw f) s = .next ((s.noteRead (.pcsrw f)).setCore fun c =>
        c.setBank (c.tlevel - 1) ((c.bank (c.tlevel - 1)).filter fun p => !(p.slot == f.csrn)))))

/-- R375: TLBINV of the handler's own device, or of any in the system's context, starts one invalidation and leaves its
destination awaited; a second waits for the first. -/
def Sys2Proof.Claim.TlbInvalidates : Prop :=
  ∀ (f : FR) (s : State), Runs (.tlbinv f) s → (s.reg f.rb).toNat ≤ 95 →
    (s.rd.core.tlevel = 0 ∨ (f.fn ≠ 2 ∧ (s.reg f.rb).toNat = s.rd.core.vmid.toNat)) →
    (s.rd.core.tlbinv = none →
      exec (.tlbinv f) s = .next (((s.noteRead (.tlbinv f)).later f.rd none none).setCore fun c =>
        { c with tlbinv := some (f.fn.toNat, s.reg f.ra, (s.reg f.rb).toNat,
          if f.rd = 0 then 0 else s.rd.core.physS f.rd.toNat) })) ∧
    (s.rd.core.tlbinv.isSome → exec (.tlbinv f) s = .next (s.noteRead (.tlbinv f)).stall)

/-- R105, R150: QSETF writes the low 32 bits of a + b into the copy that is the shadow at issue, as an exposed result of
class MP. -/
def Sys2Proof.Claim.ShapeFieldWrite : Prop :=
  ∀ (f : FR) (s : State), Runs (.qsetf f) s →
    ∃ reg fld : Nat, reg = (f.rd.toNat / 8) % 4 ∧ fld = f.rd.toNat % 8 ∧
      (f.rd.getLsbD 5 = false → exec (.qsetf f) s = .next ((s.noteRead (.qsetf f)).expose clsMP 8
        ((if s.rd.core.mqLive then 0 else 4) + reg)
        [⟨.shape false (!s.rd.core.mqLive) reg fld, ((s.reg f.ra + s.opB f).setWidth 32).setWidth 1024⟩])) ∧
      (f.rd.getLsbD 5 = true → exec (.qsetf f) s = .next ((s.noteRead (.qsetf f)).expose clsMP 8
        (8 + (if s.rd.core.dqLive then 0 else 4) + reg)
        [⟨.shape true (!s.rd.core.dqLive) reg fld, ((s.reg f.ra + s.opB f).setWidth 32).setWidth 1024⟩]))

/-- R106, R151: PCFG writes the low 32 bits of a + b into a field of a port and resets the port's indices; no other field
of a port, no other index and nothing else changes; of a direction only bits 1:0 are kept (R5). Direction 3, and a base, row
stride or step that is no multiple of 32, raise cause 0x02. -/
def Sys2Proof.Claim.PortConfigures : Prop :=
  ∀ (f : FR) (s : State), Runs (.pcfg f) s → spWf 0 s.cur.core.port = true → spWf 0 s.cur.core.pidx = true →
    let p := f.rd.toNat / 8
    let x : BitVec 32 := (s.reg f.ra + s.opB f).setWidth 32
    let bad := (f.low4 = 0 ∧ x.toNat % 4 = 3) ∨ ((f.low4 = 1 ∨ f.low4 = 2 ∨ 9 ≤ f.low4) ∧ x.toNat % 32 ≠ 0)
    (bad → exec (.pcfg f) s = .next ((s.noteRead (.pcfg f)).raiseEnc (.pcfg f) 0x02)) ∧
    (¬bad → ∃ port pidx, exec (.pcfg f) s =
        .next ((s.noteRead (.pcfg f)).setCore fun c => { c with port := port, pidx := pidx, pcfgd := some p }) ∧
      (∀ q k, k < 16 → spGet 0 port (q * 16 + k) = if q = p ∧ k = f.low4 then (if k = 0 then x &&& 3 else x) else s.cur.core.portField q k) ∧
      ∀ q l, l < 6 → spGet 0 pidx (q * 6 + l) = if q = p then 0 else s.cur.core.portIdx q l)

/-- R152: the six directions of XFER. An element is 64 bits of a row under the slot's row counter, and lane masks do not
apply. -/
def Sys2Proof.Claim.ElementTransfers : Prop :=
  ∀ (f : FR) (s : State), Runs (.xfer f) s →
    let c := s.rd.core
    let n := s.noteRead (.xfer f)
    let j := f.rb.toNat / 8
    let e := f.rb.toNat % 8 + 8 * f.w.toNat
    let vrow := (c.vrow.toNat + j) % 256
    let wrow := (c.wrow.toNat + j) % 256
    (f.fn = 0 → exec (.xfer f) s = .next (n.expose clsMP 4 f.rd.toNat [⟨.m f.rd.toNat, (s.reg f.ra).setWidth 1024⟩])) ∧
    (f.fn = 1 → exec (.xfer f) s = .next (n.expose clsXC 1 (c.physV f.rd.toNat)
      [⟨.tile false (c.physV f.rd.toNat) vrow ((BitVec.allOnes 64).setWidth 1024 <<< (64 * e)), (s.reg f.ra).setWidth 1024 <<< (64 * e)⟩])) ∧
    (f.fn = 2 → exec (.xfer f) s = .next (n.expose clsXC 2 (c.physW f.rd.toNat)
      [⟨.tile true (c.physW f.rd.toNat) wrow ((BitVec.allOnes 64).setWidth 1024 <<< (64 * e)), (s.reg f.ra).setWidth 1024 <<< (64 * e)⟩])) ∧
    (f.fn = 3 → exec (.xfer f) s = .next (n.writeS clsXC f.rd ((c.tileRow false (c.physV f.ra.toNat) vrow).extractLsb' (64 * e) 64))) ∧
    (f.fn = 4 → exec (.xfer f) s = .next (n.writeS clsXC f.rd ((c.tileRow true (c.physW f.ra.toNat) wrow).extractLsb' (64 * e) 64))) ∧
    (f.fn = 5 → exec (.xfer f) s = .next (n.writeS clsXC f.rd (spGet 0 c.m f.ra.toNat)))

/-- The transfers, shape writes and port writes of S0 leave every byte of memory and every register alone but the one they
name: of the S, V, W and M files, the shape copies and the ports one register, row, field or port at most; CSRW alone touches the
row counters and the trap CSRs; nothing touches the X file, the lane masks or the scale registers (R105, R106, R109, R145, R150 to
R152, R365). -/
def Sys2Proof.Claim.CopyFrame : Prop :=
  ∀ (i : Instr) (f : FR) (s t : State), i = .csrr f ∨ i = .csrw f ∨ i = .qsetf f ∨ i = .pcfg f ∨ i = .xfer f ∨ i = .pcsrr f ∨
      i = .pcsrw f ∨ i = .tlbinv f →
    Runs i s → exec i s = .next t → t.verdict ≠ .done →
    t.cur.mem = s.cur.mem ∧ t.cur.quad = s.cur.quad ∧ t.cur.arr = s.cur.arr ∧ t.cur.oas = s.cur.oas ∧
      t.cur.disp = s.cur.disp ∧ t.cur.core.x = s.cur.core.x ∧ t.cur.core.c = s.cur.core.c ∧ t.cur.core.vm = s.cur.core.vm ∧
      t.cur.core.wm = s.cur.core.wm ∧ t.cur.core.pc = s.cur.core.pc ∧ t.cur.core.loops = s.cur.core.loops ∧
      t.cur.core.tlevel = s.cur.core.tlevel ∧ t.cur.core.memq = s.cur.core.memq ∧ t.cur.core.eng = s.cur.core.eng ∧
      (∀ n : BitVec 6, (i ≠ .csrr f ∧ i ≠ .xfer f ∧ i ≠ .pcsrr f ∨ s.rd.core.physS f.rd.toNat ≠ s.cur.core.physS n.toNat) →
        t.cur.core.readS n = s.cur.core.readS n) ∧
      (i ≠ .xfer f → t.cur.core.v = s.cur.core.v ∧ t.cur.core.w = s.cur.core.w ∧ t.cur.core.m = s.cur.core.m) ∧
      (∀ p r, p < 64 → r < 256 → f.fn ≠ 1 ∨ p ≠ s.rd.core.physV f.rd.toNat ∨ r ≠ (s.rd.core.vrow.toNat + f.rb.toNat / 8) % 256 →
        t.cur.core.tileRow false p r = s.cur.core.tileRow false p r) ∧
      (∀ p r, p < 64 → r < 256 → f.fn ≠ 2 ∨ p ≠ s.rd.core.physW f.rd.toNat ∨ r ≠ (s.rd.core.wrow.toNat + f.rb.toNat / 8) % 256 →
        t.cur.core.tileRow true p r = s.cur.core.tileRow true p r) ∧
      (∀ n, n ≠ f.rd.toNat → spGet 0 t.cur.core.m n = spGet 0 s.cur.core.m n) ∧
      (i ≠ .qsetf f → t.cur.core.shape = s.cur.core.shape) ∧
      (∀ d copy r k, r < 4 → k < 8 → (f.rd.toNat % 32 ≠ r * 8 + k ∨ f.rd.getLsbD 5 ≠ d ∨
          copy = (if d then s.rd.core.dqLive else s.rd.core.mqLive)) →
        t.cur.core.shapeField d copy r k = s.cur.core.shapeField d copy r k) ∧
      t.cur.core.mqLive = s.cur.core.mqLive ∧ t.cur.core.dqLive = s.cur.core.dqLive ∧
      (i ≠ .pcfg f → t.cur.core.port = s.cur.core.port ∧ t.cur.core.pidx = s.cur.core.pidx) ∧
      (i ≠ .csrw f → t.cur.core.vrow = s.cur.core.vrow ∧ t.cur.core.wrow = s.cur.core.wrow ∧ t.cur.core.trap1 = s.cur.core.trap1 ∧
        t.cur.core.trap2 = s.cur.core.trap2 ∧ t.cur.core.tsave = s.cur.core.tsave ∧ t.cur.core.kstat = s.cur.core.kstat) ∧
      t.cur.core.thandler = s.cur.core.thandler ∧ t.cur.core.thsize = s.cur.core.thsize

namespace Sys2Proof.Claim

/-- cond(CC, x) of R50. -/
def condition (cc : BitVec 3) (x : Word) : Prop :=
  cc = 0 ∨ (cc = 1 ∧ x = 0) ∨ (cc = 2 ∧ x ≠ 0) ∨ (cc = 3 ∧ x.msb = true) ∨ (cc = 4 ∧ x.msb = false) ∨
    (cc = 5 ∧ x.msb = false ∧ x ≠ 0) ∨ (cc = 6 ∧ (x.msb = true ∨ x = 0))

/-- PC + 4·off, the literal standing for OFF13 (R51, R146). -/
def branchTarget (f : FB) (c : Core) : Word :=
  c.pc + 4 * (match f.lit with
    | some l => l.signExtend 64
    | none => f.off.signExtend 64)

/-- The transfers (R146), each with its target and the link register it writes. -/
inductive Transfer (s : State) : Instr → Word → Option (BitVec 6) → Prop
  | br (f : FB) : condition f.cc (s.reg f.ra) → Transfer s (.br f) (branchTarget f s.rd.core) none
  | call (f : FB) : Transfer s (.call f) (branchTarget f s.rd.core) (some f.ra)
  | jr (f : FR) : Transfer s (.jr f) (s.reg f.ra) none
  | callr (f : FR) : Transfer s (.callr f) (s.reg f.ra) (some f.rd)
  | ret (f : FR) : Transfer s (.ret f) (s.reg f.ra) none

/-- The bundle in issue ends the last execution of the innermost open level (R32, R147). -/
def closesHere (c : Core) : Prop := ∃ l t, c.openLoops = l :: t ∧ c.pc = l.last ∧ l.total ≤ l.exec + 1

/-- The target lies in the body of the innermost open level, if one is open (R34). -/
def inBody (c : Core) (target : Word) : Prop := ∀ l t, c.openLoops = l :: t → l.start ≤ target ∧ target < l.fin

/-- The link write of a transfer, where it has a link. -/
def linked (link : Option (BitVec 6)) (s : State) (t : State) : State := match link with
  | some r => t.writeS clsA1 r (s.rd.core.pc + BitVec.ofNat 64 s.rd.core.blen)
  | none => t

/-- The loop record that LOOP opens (R30, R148): of the level's number, TEMPORAL, in the kernel's table. -/
def loopRecord (c : Core) (level : Nat) : Option LoopRec := match c.kernel with
  | some k => k.loops.find? fun r => r.level == level && r.kind == 0
  | none => none

/-- A level just opened, at the start of its execution 0 (R30 to R33). -/
def levelOpened (e : LoopEnt) (r : LoopRec) (N : Nat) (start last fin : Word) (swap : Bool) : Prop :=
  e.lrec = r ∧ e.exec = 0 ∧ e.trip = N ∧ e.total = N + r.stages - 1 ∧ e.start = start ∧ e.last = last ∧ e.fin = fin ∧
    e.preds = stagePreds N r.stages 0 ∧ e.baseS = 0 ∧ e.baseV = 0 ∧ e.baseW = 0 ∧ e.swap = swap

/-- advance(port, l) of R107: the first index from l on that may rise does; those below it, and those below l, are 0. -/
def advanced (c : Core) (p l : Nat) (old new : Nat → Nat) : Prop :=
  let rises (k : Nat) : Prop := old k + 1 < max (c.portField p (3 + k)).toNat 1
  ∃ j, l ≤ j ∧ j ≤ 6 ∧ (∀ k, l ≤ k → k < j → ¬rises k) ∧ (j < 6 → rises j) ∧
    ∀ k, k < 6 → new k = if k < j then 0 else if k = j then old k + 1 else old k

/-- The updates of an execution end of a level (R32, R148): row counters, ports and, with LOOP.s, the exchange of the copies; what
else d holds is c's, but for the level stack, the PC and the marks of a bundle's end. -/
def endUpdates (c d : Core) (l : LoopEnt) : Prop :=
  d.vrow = c.vrow + BitVec.ofNat 8 l.lrec.dvrow ∧ d.wrow = c.wrow + BitVec.ofNat 8 l.lrec.dwrow ∧
    d.mqLive = (c.mqLive ^^ l.swap) ∧ d.dqLive = (c.dqLive ^^ l.swap) ∧
    d = { c with
      vrow := d.vrow, wrow := d.wrow, mqLive := d.mqLive, dqLive := d.dqLive, pidx := d.pidx, loops := d.loops, pc := d.pc
      xfer := d.xfer, endDue := d.endDue, lexit := d.lexit, jump := d.jump, atPoint := d.atPoint } ∧
    (spWf 0 c.pidx = true → (∀ p, p < 8 → l.lrec.pdelta / 2 ^ (4 * p) % 8 < 6) → ∀ p, p < 8 →
      (l.lrec.pdelta / 2 ^ (4 * p + 3) % 2 = 0 → ∀ k, k < 6 → d.portIdx p k = c.portIdx p k) ∧
      (l.lrec.pdelta / 2 ^ (4 * p + 3) % 2 = 1 →
        advanced c p (l.lrec.pdelta / 2 ^ (4 * p) % 8) (c.portIdx p) (d.portIdx p)))

/-- What names an entry of a bank: its number, class, count and register (R374). -/
def entryName (p : Pending) : Nat × Nat × Nat × Bool × Nat × Nat := (p.slot, p.cls, p.count, p.overdue, p.file, p.reg)

end Sys2Proof.Claim

/-! ## Control (02_execution_model.md, 07_scalar_and_control.md) -/

/-- R34, R146, R147: a taken transfer names the next bundle and writes its link; in the bundle that closes the innermost
level it is dropped but for its link write; where the level stays open and the target is outside its body, cause 0x0C and no
link. A branch whose condition fails does nothing. -/
def Sys2Proof.Claim.TransferEffects : Prop :=
  ∀ s : State,
    (∀ i target link, Transfer s i target link → Runs i s →
      (closesHere s.rd.core → exec i s = .next (linked link s (s.noteRead i))) ∧
      (¬closesHere s.rd.core → inBody s.rd.core target →
        exec i s = .next (linked link s ((s.noteRead i).setCore fun c => { c with jump := some target }))) ∧
      (¬closesHere s.rd.core → ¬inBody s.rd.core target → exec i s = .next ((s.noteRead i).raise 0x0C target))) ∧
    ∀ f : FB, Runs (.br f) s → ¬condition f.cc (s.reg f.ra) → exec (.br f) s = .next (s.noteRead (.br f))

/-- R147 and R46 to R48: what follows a bundle. The next PC is the target of its transfer, or where a level of no iterations
ends, or the address after it; the execution of the innermost level ends when the bundle is the last of its body or exits. -/
def Sys2Proof.Claim.NextBundle : Prop :=
  ∀ was c : Core,
    (∀ t, c.jump = some t → (finishCore was c).pc = t ∧ (finishCore was c).xfer = some was.pc) ∧
    (c.jump = none → c.skipTo = none → (finishCore was c).pc = was.pc + BitVec.ofNat 64 was.blen ∧
      (finishCore was c).xfer = none) ∧
    (∀ t, c.jump = none → c.skipTo = some t → (finishCore was c).pc = t ∧ (finishCore was c).xfer = none) ∧
    ((finishCore was c).endDue = true ↔ c.lexit = true ∨ ∃ l t, was.openLoops = l :: t ∧ was.pc = l.last) ∧
    (finishCore was c).atPoint = (if was.tlevel = 0 then was.safe else c.atPoint)

/-- R31: a level of N iterations and S stages runs N + S − 1 executions, and in execution e predicate g_s holds exactly for
the stages s ≤ S with 0 ≤ e − (s − 1) < N; the predicates are those of the innermost open level, and outside every level
they are true; an instruction whose PG names a false one has no effect. -/
def Obligations.StagePredicates : Prop :=
  (∀ n S e s, S ≤ 7 → 1 ≤ s → s ≤ 7 → ((stagePreds n S e).getLsbD s = true ↔ s ≤ S ∧ s - 1 ≤ e ∧ e - (s - 1) < n)) ∧
  (∀ n S s, 1 ≤ n → 1 ≤ s → s ≤ S → S ≤ 7 →
    ((List.range (n + S - 1)).filter fun e => (stagePreds n S e).getLsbD s).length = n) ∧
  (∀ (c : Core) k, 1 ≤ k → (c.openLoops = [] → c.pred k = true) ∧
    ∀ l t, c.openLoops = l :: t → c.pred k = l.preds.getLsbD k) ∧
  ∀ (i : Instr) (s : State), s.reached → s.rd.core.checks i = none → (slotOf i).isSome →
    s.rd.core.pred (predOf i) = false → exec i s = .next s

/-- R30, R148, R370: LOOP pushes a level with its trip count from the table, a register or the argument block, predicates of
execution 0 and bases 0; a word of the argument block is read as a load reads it, with the causes of one, and not from the quad
window (log 56); a level of no iterations is passed over; it faults on a full stack (0x0A) and on an invalid level (0x0B). The body's end is
found by walking headers (log 25). -/
def Sys2Proof.Claim.LoopOpens : Prop :=
  ∀ (f : FR) (s : State), Runs (.loop f) s →
    let c := s.rd.core
    let n := s.noteRead (.loop f)
    let tval := BitVec.ofNat 64 f.rb.toNat
    (c.tlevel ≠ 0 → exec (.loop f) s = .next (n.raise 0x0B tval)) ∧
    (c.tlevel = 0 → 6 ≤ c.loops.length → exec (.loop f) s = .next (n.raise 0x0A tval)) ∧
    (c.tlevel = 0 → c.loops.length < 6 → loopRecord c f.rb.toNat = none ∨ (∃ l ∈ c.loops, l.lrec.level = f.rb.toNat) →
      exec (.loop f) s = .next (n.raise 0x0B tval)) ∧
    (∀ r leaf pa w, c.tlevel = 0 → c.loops.length < 6 → loopRecord c f.rb.toNat = some r →
      (∀ l ∈ c.loops, l.lrec.level ≠ f.rb.toNat) → 2 ≤ r.tripSrc →
      let start := c.pc + BitVec.ofNat 64 c.blen
      let last := BitVec.ofNat 64 (n.rd.bundleAfter (r.bodyLen - 1) start.toNat)
      let fin := BitVec.ofNat 64 (n.rd.bundleAfter r.bodyLen start.toNat)
      let va := c.karg + BitVec.ofNat 64 r.tripVal
      let comp := effComp (leafComp leaf) (pa / 128)
      let home := (s.rd.mem.touch pa 4).homeRead comp (pa / 128)
      (∀ l t, c.loops = l :: t → ¬l.fin < fin) →
      (va.toNat % 4 ≠ 0 → exec (.loop f) s = .next (n.raise 0x30 va)) ∧
      (va.toNat % 4 = 0 → inWindow va.toNat = true → exec (.loop f) s = .next (n.raise 0x20 va)) ∧
      (va.toNat % 4 = 0 → inWindow va.toNat = false → s.rd.ownXlate va.toNat .read = (.ok leaf pa, w) → c.fenced = false →
        (∀ o ∈ c.memq, ¬(o.kind = .amo ∧ o.overlaps false pa 4 = true)) → pa % 128 + 4 ≤ 128 → home.2 = false →
        (∀ k sv, s.rd.copyFor false leaf (pa / 128) none = some (k, sv) → k.poison = false) →
        ∃ u row N, exec (.loop f) s = .next u ∧
          (row = home.1 ∨ ∃ k sv, s.rd.copyFor false leaf (pa / 128) none = some (k, sv) ∧ row = k.data) ∧
          ((∀ o ∈ c.stores, o.overlaps false pa 4 = false) → N = (row.extractLsb' (8 * (pa % 128)) 32).toNat) ∧
          (N = 0 → u.cur.core.skipTo = some fin ∧ u.cur.core.loops = s.cur.core.loops) ∧
          (0 < N → ∃ e, u.cur.core.loops = e :: s.cur.core.loops ∧ levelOpened e r N start last fin (decide (f.fn = 1))) ∧
          u.cur.core.s = s.cur.core.s ∧ u.cur.core.memq = s.cur.core.memq ∧ u.cur.quad = s.cur.quad)) ∧
    ∀ r N, c.tlevel = 0 → c.loops.length < 6 → loopRecord c f.rb.toNat = some r → (∀ l ∈ c.loops, l.lrec.level ≠ f.rb.toNat) →
      (r.tripSrc = 0 ∧ N = r.tripVal) ∨ (r.tripSrc = 1 ∧ N = (s.reg (BitVec.ofNat 6 r.tripVal)).toNat % 2 ^ 32) →
      let start := c.pc + BitVec.ofNat 64 c.blen
      let last := BitVec.ofNat 64 (n.rd.bundleAfter (r.bodyLen - 1) start.toNat)
      let fin := BitVec.ofNat 64 (n.rd.bundleAfter r.bodyLen start.toNat)
      ((∃ l t, c.loops = l :: t ∧ l.fin < fin) → exec (.loop f) s = .next (n.raise 0x0B tval)) ∧
      ((∀ l t, c.loops = l :: t → ¬l.fin < fin) →
        (N = 0 → ∃ u, exec (.loop f) s = .next u ∧ u = { n with cur := { n.cur with core := { n.cur.core with skipTo := some fin } } }) ∧
        (0 < N → ∃ u e, exec (.loop f) s = .next u ∧
          u = { n with cur := { n.cur with core := { n.cur.core with loops := e :: n.cur.core.loops } } } ∧
          levelOpened e r N start last fin (decide (f.fn = 1))))

/-- R32, R148, R149: at an execution end the row counters take the level's deltas modulo 256, the ports that PDELTA names advance
and LOOP.s exchanges the copies; a level that is not done goes on with the next execution, its bases less the steps, at the body
start or at the target of a transfer; a level that is done is popped, and the next bundle is the one after its body. Where that is
also the end of the enclosing level's body, an execution of the enclosing level ends too, after the closed level's updates. -/
def Sys2Proof.Claim.ExecutionEnds : Prop :=
  ∀ (s : State) (l : LoopEnt) (t : List LoopEnt), s.cur.core.endDue = true → s.cur.core.loops = l :: t →
    (s.cur.core.lexit = false → l.exec + 1 < l.total →
      ∃ c e, exec .loopExecutionEnd s = .next (s.setCore fun _ => c) ∧ endUpdates s.cur.core c l ∧ c.endDue = false ∧
        c.lexit = false ∧ c.jump = none ∧ c.atPoint = true ∧ c.loops = e :: t ∧ e.exec = l.exec + 1 ∧
        e.preds = stagePreds l.trip l.lrec.stages (l.exec + 1) ∧ e.lrec = l.lrec ∧ e.trip = l.trip ∧ e.total = l.total ∧
        (l.lrec.rstepS < 32 → l.baseS < 32 → (e.baseS + l.lrec.rstepS) % 32 = l.baseS) ∧
        (l.lrec.rstepV < 32 → l.baseV < 32 → (e.baseV + l.lrec.rstepV) % 32 = l.baseV) ∧
        (l.lrec.rstepW < 32 → l.baseW < 32 → (e.baseW + l.lrec.rstepW) % 32 = l.baseW) ∧
        c.pc = if s.cur.core.jump.isSome then s.cur.core.pc else l.start) ∧
    (s.cur.core.lexit = true ∨ l.total ≤ l.exec + 1 →
      ((∀ o u, t = o :: u → o.fin ≠ l.fin) →
        ∃ c, exec .loopExecutionEnd s = .next (s.setCore fun _ => c) ∧ endUpdates s.cur.core c l ∧ c.endDue = false ∧
          c.lexit = false ∧ c.jump = none ∧ c.atPoint = true ∧ c.loops = t ∧ c.pc = l.fin ∧ c.xfer = none) ∧
      ∀ o u, t = o :: u → o.fin = l.fin →
        ∃ c, endUpdates s.cur.core c l ∧ c.endDue = true ∧ c.lexit = false ∧ c.jump = s.cur.core.jump ∧ c.loops = t ∧
          c.pc = l.fin ∧ c.xfer = none ∧ exec .loopExecutionEnd s = exec .loopExecutionEnd (s.setCore fun _ => c))

/-- R41, R149, R153: END, LEXIT, TWAIT, NOP and the empty bundle. -/
def Obligations.WaitsAndPadding : Prop :=
  (∀ s : State, exec .empty s = .next s) ∧
  ∀ (f : FR) (s : State),
    (Runs (.endk f) s →
      exec (.endk f) s = .next ((s.noteRead (.endk f)).setCore fun c => { c with status := .ending, loops := [] })) ∧
    (Runs (.nop f) s → exec (.nop f) s = .next ((s.noteRead (.nop f)).setCore fun c => { c with empties := f.rb.toNat })) ∧
    (Runs (.twait f) s →
      ((∀ r, r = f.ra ∨ r = f.rb → r ≠ 0 → s.rd.core.awaits (s.rd.core.physS r.toNat) = false) →
        exec (.twait f) s = .next (s.noteRead (.twait f))) ∧
      ((∃ r, (r = f.ra ∨ r = f.rb) ∧ r ≠ 0 ∧ s.rd.core.awaits (s.rd.core.physS r.toNat) = true) →
        exec (.twait f) s = .next (s.noteRead (.twait f)).stall)) ∧
    (Runs (.lexit f) s →
      (s.rd.core.openLoops = [] → exec (.lexit f) s = .next ((s.noteRead (.lexit f)).raise 0x0B 0)) ∧
      (s.rd.core.openLoops ≠ [] →
        (f.ra = 0 ∨ s.reg f.ra ≠ 0 → exec (.lexit f) s = .next ((s.noteRead (.lexit f)).setCore fun c => { c with lexit := true })) ∧
        (f.ra ≠ 0 → s.reg f.ra = 0 → exec (.lexit f) s = .next (s.noteRead (.lexit f)))))

/-- R153 with R61 and R369: TRAP lets its bundle issue whole and then takes cause 0x50, with TEPC at the next bundle, TVAL the
code, and the PC at the handler; here outside every level, with no transfer in the bundle. -/
def Sys2Proof.Claim.SoftwareTrap : Prop :=
  ∀ (f : FR) (s : State), Runs (.trap f) s → s.verdict = .go → s.rd.core.tlevel = 0 → s.rd.core.thandler ≠ 0 →
    s.cur.core.tlevel = 0 → s.cur.core.thandler = s.rd.core.thandler → s.rd.core.loops = [] → s.cur.core.lexit = false →
    s.cur.core.jump = none → s.cur.core.skipTo = none →
    ∃ t, exec (.trap f) s = .next t ∧ t.verdict = .done ∧ t.cur.core.tlevel = 1 ∧ t.cur.core.pc = s.cur.core.thandler ∧
      t.cur.core.trap1.cause = 0x50 ∧ t.cur.core.trap1.epc = s.rd.core.pc + BitVec.ofNat 64 s.rd.core.blen ∧
      t.cur.core.trap1.val = f.rb.setWidth 64 ∧ t.cur.core.trap1.scr = s.cur.core.trap1.scr ∧
      t.cur.core.s = s.cur.core.s ∧ t.cur.core.bank0 = s.cur.core.bank0 ∧ t.cur.mem = s.cur.mem

/-- R371: ERET at a level whose bank is empty returns to TEPC of that level one level down, and the frozen bank there runs on
with its counts, its due entries written and gone (of the others, what the written ones have overwritten is gone too, R67); while the bank holds an entry ERET waits, and each cycle of the wait drains it. -/
def Sys2Proof.Claim.TrapReturn : Prop :=
  ∀ (f : FR) (s : State), Runs (.eret f) s → s.verdict = .go →
    (s.rd.core.tlevel ≠ 0 → s.rd.core.bank s.rd.core.tlevel ≠ [] → exec (.eret f) s = .next { s.noteRead (.eret f) with verdict := .drain }) ∧
    ((s.rd.core.tlevel = 1 ∨ s.rd.core.tlevel = 2) → s.cur.core.tlevel = s.rd.core.tlevel →
      s.rd.core.bank s.rd.core.tlevel = [] →
      ∃ t, exec (.eret f) s = .next t ∧ t.verdict = .done ∧ t.cur.core.tlevel = s.rd.core.tlevel - 1 ∧
        t.cur.core.pc = (if s.rd.core.tlevel = 1 then s.rd.core.trap1.epc else s.rd.core.trap2.epc) ∧
        (t.cur.core.bank (s.rd.core.tlevel - 1)).map entryName =
          ((s.cur.core.bank (s.rd.core.tlevel - 1)).filter fun p => !(p.overdue && p.arrived)).map entryName ∧
        ((∀ p ∈ s.cur.core.bank (s.rd.core.tlevel - 1), (p.overdue && p.arrived) = false) →
          t.cur.core.bank (s.rd.core.tlevel - 1) = s.cur.core.bank (s.rd.core.tlevel - 1) ∧ t.cur.core.s = s.cur.core.s) ∧
        t.cur.mem = s.cur.mem ∧ t.cur.core.trap1 = s.cur.core.trap1 ∧ t.cur.core.trap2 = s.cur.core.trap2)

namespace Sys2Proof.Claim

/-- The loads of R154: size, and whether the value is sign-extended. -/
def loadOps : List ((FM → Instr) × Nat × Bool) := [
  (.ldb, 1, true), (.ldbu, 1, false), (.ldh, 2, true), (.ldhu, 2, false), (.ldw, 4, true), (.ldwu, 4, false), (.ldd, 8, false)]

/-- The stores of R154, with their sizes. -/
def storeOps : List ((FM → Instr) × Nat) := [(.stb, 1), (.sth, 2), (.stw, 4), (.std, 8)]

/-- a + OFF10 · size, or a + the literal (R154). -/
def addressM (f : FM) (s : State) (size : Nat) : Word :=
  s.reg f.ra + match f.lit with
    | some l => l.signExtend 64
    | none => f.off.signExtend 64 * BitVec.ofNat 64 size

/-- Bytes as a register takes them, the lowest address in bits 7:0 (R2, R154). -/
def extended (signed : Bool) (b : List Byte) : Word :=
  if signed then (BitVec.ofNat (8 * b.length) (bytesNat b)).signExtend 64 else BitVec.ofNat 64 (bytesNat b)

/-- Byte k of a register. -/
def byteAt (x : Word) (k : Nat) : Byte := x.extractLsb' (8 * k) 8

/-- A queued store of the context holds the byte. -/
def covers (o : MemOp) (pad : Bool) (a : Nat) : Prop := o.kind ≠ .amo ∧ o.pad = pad ∧ o.pa ≤ a ∧ a < o.pa + o.size

/-- The n bytes that the context sees from a on: of each byte its own latest store still queued, else what is there (R157). -/
def ownView (q : List MemOp) (pad : Bool) (a n : Nat) (there : Nat → Byte) (b : List Byte) : Prop :=
  b.length = n ∧ ∀ i, i < n →
    ((∀ o ∈ q, ¬covers o pad (a + i)) → b.getD i 0 = there i) ∧
    ∀ pre o post, q = pre ++ o :: post → covers o pad (a + i) → (∀ x ∈ post, ¬covers x pad (a + i)) →
      b.getD i 0 = byteAt o.data (a + i - o.pa)

/-- No AMO of the context that touches the bytes is still queued. -/
def noAmo (q : List MemOp) (pad : Bool) (a n : Nat) : Prop := ∀ o ∈ q, ¬(o.kind = .amo ∧ o.overlaps pad a n = true)

/-- Every write of the context's bundles before an issue number is acknowledged at a scope (R212): at CORE at once; at QUAD or
DIE where the home slice on this die, or the RDC, has it; at PKG or SYS once its home has answered. -/
def acknowledged (c : Core) (scope n : Nat) : Prop :=
  (∀ o ∈ c.memq, n ≤ o.after.2) ∧
    (scope = 0 ∨ (scope ≤ 2 ∧ ∀ o ∈ c.transit, o.after.2 < n → homeDie o.pa ≠ c.die) ∨
      ((∀ o ∈ c.transit, n ≤ o.after.2) ∧ ∀ u ∈ c.unacked, n ≤ u.2.2.2))

/-- All that an operation is ordered after as a release is done: the writes before its own bundle, and before each release fence
that precedes it, are acknowledged at that scope, and the port pushes there have landed (R157, R294, R295). -/
def released (c : Core) (o : MemOp) : Prop :=
  ∀ w ∈ o.waits, acknowledged c w.1 w.2.2 ∧ ∀ e ∈ c.bank w.2.1, e.file = 9 → w.2.2 ≤ e.born

/-- No port push of the context is under way. -/
def pushing (c : Core) : Bool := (c.bank0 ++ c.bank1 ++ c.bank2).any fun e => e.file == 9

/-- A byte of the quad's scratchpads. -/
def padByte (m : Mach) (key : Nat) : Byte := spGet 0 m.quad.sp key

/-- A byte at its home as a mapping shows it. -/
def homeByte (m : Mem) (comp : Bool) (pa : Nat) : Byte := (m.homeRead comp (pa / 128)).1.extractLsb' (8 * (pa % 128)) 8

/-- The machines hold the same memory at and below the homes, and the same scratchpads. -/
def sameStore (a b : Mach) : Prop :=
  a.mem.dram = b.mem.dram ∧ a.mem.poison = b.mem.poison ∧ a.mem.l2 = b.mem.l2 ∧
    a.mem.msc = b.mem.msc ∧ a.mem.bins = b.mem.bins ∧ a.quad = b.quad ∧ a.arr = b.arr

/-- No metadata byte lies in the block of a sector: it holds data (R220). -/
def dataBlock (sec : Nat) : Prop := ∀ b, metaAddr b / 4096 ≠ sec / 32

/-- A sector that a mapping shows as memory: through COMP one of the HBM, in a block of data (R217, R220). -/
def shown (comp : Bool) (sec : Nat) : Prop := comp = true → inHbm (sec * 128) = true ∧ dataBlock sec

/-- The memory is sound for what one kind of mapping shows: its parts are in canonical form, no sector stands in the memory-side
cache through the other kind of mapping (R220 leaves mixed use to the program), and a clean one there agrees with DRAM. -/
def memSound (m : Mem) (comp : Bool) : Prop :=
  Memory.wf m.dram = true ∧ spWf false m.poison = true ∧ spWf none m.l2 = true ∧ spWf none m.msc = true ∧
    ∀ key c, spGet none m.msc key = some c → (key % 2 == 1) = comp ∧ inHbm (key / 2 * 128) = true ∧ shown comp (key / 2) ∧
      (c.dirty = false → m.dramRead comp (key / 2) = (c.data, c.poison))

/-- Every sector of the die L2 holds data of one kind of mapping, the clean ones as they lie below (R213). -/
def l2Kept (m : Mem) (comp : Bool) : Prop := ∀ key c, spGet none m.l2 key = some c → (key % 2 == 1) = comp ∧
  present (key / 2 * 128) = true ∧ shown comp (key / 2) ∧ (c.dirty = false → m.sideRead comp (key / 2) = (c.data, c.poison))

/-- A line can be put into the die L2: few lines stand there, or those that may have to leave are kept below (R213). -/
def l2Sound (m : Mem) (comp : Bool) : Prop := (linesOf m.l2).length < eighthLines ∨ l2Kept m comp

/-- The AMOs of R158, on n-bit words: old value, b, and the old destination. -/
def amoOps : List ((FMX → Instr) × ((n : Nat) → BitVec n → BitVec n → BitVec n → BitVec n)) := [
  (.amoadd, fun _ old b _ => old + b), (.amoand, fun _ old b _ => old &&& b), (.amoor, fun _ old b _ => old ||| b),
  (.amoxor, fun _ old b _ => old ^^^ b), (.amomin, fun _ old b _ => if old.sle b then old else b),
  (.amomax, fun _ old b _ => if old.sle b then b else old), (.amominu, fun _ old b _ => if old.ule b then old else b),
  (.amomaxu, fun _ old b _ => if old.ule b then b else old), (.amoswp, fun _ _ b _ => b),
  (.amocas, fun _ old b cmp => if old = cmp then b else old)]

/-- Bytes of an ordered or atomic access (R155, R158). -/
def wordSize (w : BitVec 1) : Nat := if w = 1 then 4 else 8

end Sys2Proof.Claim

/-! ## Loads, stores and atomics (07_scalar_and_control.md, 10_memory_hierarchy.md, 16_memory_model.md) -/

/-- R2, R154, R156, R157: a load from a scratchpad byte it may reach completes with the extended value of the bytes there,
the context's own queued stores seen; no byte and no register but the scoreboarded destination changes. That earlier loads of
these bytes are then performed, and this one may be performed again until its result is written, is how the model reads R294
(log 9). -/
def Sys2Proof.Claim.LoadsFromScratchpad : Prop :=
  ∀ op ∈ loadOps, ∀ (f : FM) (s : State), Runs (op.1 f) s →
    let va := (addressM f s op.2.1).toNat
    let key := va - qbase
    va % op.2.1 = 0 → inWindow va = true → padFault s.rd key = none → s.rd.core.fenced = false →
    noAmo s.rd.core.memq true key op.2.1 → s.rd.core.padOverdue key op.2.1 = false → s.rd.quad.poisoned key op.2.1 = false →
    ∃ b, ownView s.rd.core.stores true key op.2.1 (fun i => padByte s.rd (key + i)) b ∧
      exec (op.1 f) s = .next (((s.noteRead (op.1 f)).setCore (·.settleIn true key op.2.1)).laterLoad f.rt
        (some (extended op.2.2 b)) none (some ⟨addressM f s op.2.1, true, key, op.2.1, 0, op.2.2⟩))

/-- R154, R156, R157, R210 to R214: a load from a mapped address completes. Its bytes are those of the home, or of a copy that
the context may still read; poison among them leaves a mark to come; and no byte of memory changes but by the bins that the
access applies first (R316). A load samples at issue and perhaps again (log 9), its copies stay until a step evicts them (log 21), and the value
of poisoned bytes is free (log 37). -/
def Sys2Proof.Claim.LoadsFromMemory : Prop :=
  ∀ op ∈ loadOps, ∀ (f : FM) (s : State) (leaf : Word) (pa : Nat) (u : Option TlbUpd), Runs (op.1 f) s →
    let va := addressM f s op.2.1
    let comp := effComp (leafComp leaf) (pa / 128)
    let home := (s.rd.mem.touch pa op.2.1).homeRead comp (pa / 128)
    va.toNat % op.2.1 = 0 → inWindow va.toNat = false →
    s.rd.ownXlate va.toNat .read = (.ok leaf pa, u) → s.rd.core.fenced = false →
    noAmo s.rd.core.memq false pa op.2.1 → pa % 128 + op.2.1 ≤ 128 →
    ∃ t r p b v mark, exec (op.1 f) s = .next t ∧
      ((r, p) = home ∨ ∃ k sv, s.rd.copyFor false leaf (pa / 128) none = some (k, sv) ∧ (r, p) = (k.data, k.poison)) ∧
      ownView s.rd.core.stores false pa op.2.1 (fun i => r.extractLsb' (8 * (pa % 128 + i)) 8) b ∧
      (f.rt ≠ 0 → t.cur.core.sb = (s.cur.core.settleIn false pa op.2.1).sb ++
          [⟨s.rd.core.physS f.rt.toNat, some v, mark, some ⟨va, false, pa, op.2.1, leaf, op.2.2⟩⟩]) ∧
      (f.rt = 0 → t.cur.core.sb = (s.cur.core.settleIn false pa op.2.1).sb) ∧
      (p = false → v = extended op.2.2 b ∧ mark = none) ∧ (p = true → mark = some va) ∧
      t.cur.core.s = s.cur.core.s ∧ t.cur.core.memq = s.cur.core.memq ∧
      sameStore t.cur { (s.applyUpd u).cur with mem := (s.applyUpd u).cur.mem.touch pa op.2.1 }

/-- R155, R157, R212, R300: LD.acq reads as a plain load does, sign-extended when it is 4 bytes, from a scratchpad or from a
mapped address; at scope QUAD or wider the L1 copies are gone before any later load, and serve not this one; at PKG or SYS the home
serves it, and the clocks rise to the sector's release clock and the home's count. It is performed once (log 9). -/
def Sys2Proof.Claim.AcquireLoads : Prop :=
  ∀ (f : FMO) (s : State), Runs (.ld f) s → s.rd.core.fenced = false →
    let va := s.reg f.ra
    let n := wordSize f.w
    let key := va.toNat - qbase
    va.toNat % n = 0 →
    (inWindow va.toNat = true → padFault s.rd key = none → noAmo s.rd.core.memq true key n →
      s.rd.core.padOverdue key n = false → s.rd.quad.poisoned key n = false →
      ∃ t b, ownView s.rd.core.stores true key n (fun i => padByte s.rd (key + i)) b ∧ exec (.ld f) s = .next t ∧
        (f.rt = 0 → t.cur.core.sb = (s.cur.core.settleIn true key n).sb) ∧
        (f.rt ≠ 0 → t.cur.core.sb = (s.cur.core.settleIn true key n).sb ++
          [⟨s.rd.core.physS f.rt.toNat, some (extended true b), none, none⟩]) ∧
        (1 ≤ f.scope.toNat → t.cur.mem.l1 = []) ∧ (f.scope = 0 → t.cur.mem = s.cur.mem) ∧ sameStore t.cur s.cur ∧
        t.cur.core.s = s.cur.core.s) ∧
    ∀ leaf pa u, inWindow va.toNat = false → s.rd.ownXlate va.toNat .read = (.ok leaf pa, u) →
      noAmo s.rd.core.memq false pa n → pa % 128 + n ≤ 128 →
      let home := (s.rd.mem.touch pa n).homeRead (effComp (leafComp leaf) (pa / 128)) (pa / 128)
      ∃ t r p b v mark, exec (.ld f) s = .next t ∧
        ((r, p) = home ∨ ∃ k sv, s.rd.copyFor false leaf (pa / 128) (some f.scope.toNat) = some (k, sv) ∧
          (r, p) = (k.data, k.poison) ∧ f.scope.toNat ≤ 2 ∧ (1 ≤ f.scope.toNat → sv = .rdc k.tag)) ∧
        ownView s.rd.core.stores false pa n (fun i => r.extractLsb' (8 * (pa % 128 + i)) 8) b ∧
        (f.rt = 0 → t.cur.core.sb = (s.cur.core.settleIn false pa n).sb) ∧
        (f.rt ≠ 0 → t.cur.core.sb = (s.cur.core.settleIn false pa n).sb ++ [⟨s.rd.core.physS f.rt.toNat, some v, mark, none⟩]) ∧
        (p = false → v = extended true b ∧ mark = none) ∧ (p = true → mark = some va) ∧
        (1 ≤ f.scope.toNat → t.cur.mem.l1 = []) ∧
        (3 ≤ f.scope.toNat → t.cur.mem.hcOf (homeDie pa) ≤ t.cur.core.ocOf (homeDie pa) ∧
          ∀ h, h < 9 → (spGet [] s.rd.mem.relClk (pa / 128)).getD h 0 ≤ t.cur.core.ocOf h) ∧
        t.cur.core.s = s.cur.core.s ∧ t.cur.core.memq = s.cur.core.memq ∧
        sameStore t.cur { (s.applyUpd u).cur with mem := (s.applyUpd u).cur.mem.touch pa n }

/-- R154, R156, R157, R294, R295: a store computes its address as a load does. On a scratchpad where no queued
operation has a byte of it, its bytes and no others change at once; on a mapped address it joins the queue of stores, as a release
where a FENCE.rel is in force, after what precedes each of those fences, and no byte changes yet. One queue in program order is the
model's choice (log 9). -/
def Sys2Proof.Claim.StoreEffects : Prop :=
  ∀ op ∈ storeOps, ∀ (f : FM) (s : State), Runs (op.1 f) s → Memory.wf s.cur.quad.sp = true →
    let va := addressM f s op.2
    let key := va.toNat - qbase
    va.toNat % op.2 = 0 → s.rd.core.fenced = false →
    (inWindow va.toNat = true → padFault s.rd key = none → (∀ o ∈ s.rd.core.memq, o.overlaps true key op.2 = false) →
      s.rd.core.relFence = none → s.rd.core.relSince = [] → s.rd.core.padOverdue key op.2 = false →
      ∃ q, exec (op.1 f) s =
          .next (((s.noteRead (op.1 f)).setCore (·.settleIn true key op.2)).setCur fun m => { m with quad := q }) ∧
        q.split = s.cur.quad.split ∧ q.pending = s.cur.quad.pending ∧
        ∀ k, spGet 0 q.sp k = if key ≤ k ∧ k < key + op.2 then byteAt (s.reg f.rt) (k - key) else padByte s.cur k) ∧
    ∀ leaf pa u, inWindow va.toNat = false → s.rd.ownXlate va.toNat .write = (.ok leaf pa, u) →
      ∃ o : MemOp, exec (op.1 f) s = .next (((s.noteRead (op.1 f)).applyUpd u).setCore fun c =>
          { c.settleIn false pa op.2 with memq := c.memq ++ [o] }) ∧
        o.kind = (if s.rd.core.relFence.isSome then .release else .store) ∧ o.release = s.rd.core.relFence ∧
        o.waits = s.rd.core.relSince ∧ o.after = s.rd.core.now ∧ o.pad = false ∧
        o.pa = pa ∧ o.size = op.2 ∧ o.data = s.reg f.rt ∧ o.leaf = leaf ∧ o.va = va

/-- R155, R157, R295: ST.rel queues its store as a release at its scope, or at the wider scope of a FENCE.rel in force; on a
scratchpad with every earlier write acknowledged, and port pushes landed, it is performed at once. -/
def Sys2Proof.Claim.ReleaseStores : Prop :=
  ∀ (f : FMO) (s : State), Runs (.st f) s → Memory.wf s.cur.quad.sp = true →
    let va := s.reg f.ra
    let key := va.toNat - qbase
    va.toNat % wordSize f.w = 0 → s.rd.core.fenced = false →
    (inWindow va.toNat = true → padFault s.rd key = none → s.rd.core.busy = false →
      pushing s.rd.core = false → s.rd.core.padOverdue key (wordSize f.w) = false →
      ∃ q m, exec (.st f) s =
          .next (((s.noteRead (.st f)).setCore Core.settleLoads).setCur fun k => { k with quad := q, mem := m }) ∧
        m.dram = s.cur.mem.dram ∧ m.l2 = s.cur.mem.l2 ∧ m.msc = s.cur.mem.msc ∧
        ∀ k, spGet 0 q.sp k = if key ≤ k ∧ k < key + wordSize f.w then byteAt (s.reg f.rt) (k - key) else padByte s.cur k) ∧
    ∀ leaf pa u, inWindow va.toNat = false → s.rd.ownXlate va.toNat .write = (.ok leaf pa, u) →
      ∃ o : MemOp, exec (.st f) s = .next (((s.noteRead (.st f)).applyUpd u).setCore fun c =>
          { c.settleIn false pa (wordSize f.w) with memq := c.memq ++ [o] }) ∧
        o.waits = s.rd.core.relSince ++ [(f.scope.toNat, s.rd.core.now)] ∧ o.after = s.rd.core.now ∧ o.kind = .release ∧ o.pad = false ∧ o.pa = pa ∧ o.size = wordSize f.w ∧ o.data = s.reg f.rt ∧
        ∃ sc, o.release = some sc ∧ f.scope.toNat ≤ sc ∧ (s.rd.core.relFence = none → sc = f.scope.toNat)

/-- R211, R213, R215, R216, R220 to R223, R226, R300: a write applied at the home is what the next read there finds, under its
mask, and clears poison only where it covers the whole sector; every other sector of the same mapping reads as before, through
COMP and not, whatever stream the compressor chooses, wherever the caches allocate and whatever must leave them for it; the
home's count rises by one. -/
def Sys2Proof.Claim.HomeWriteReadsBack : Prop :=
  ∀ (m : Mem) (r : Req) (comp : Bool) (sec : Nat) (val mask : Row), present (sec * 128) = true → memSound m comp → l2Sound m comp → shown comp sec →
    ((m.homeWrite r comp sec val mask).homeRead comp sec =
      (mergeRow (m.homeRead comp sec).1 val mask, (m.homeRead comp sec).2 && mask != BitVec.allOnes 1024)) ∧
    (∀ k, k ≠ sec → shown comp k → (m.homeWrite r comp sec val mask).homeRead comp k = m.homeRead comp k) ∧
    (m.homeWrite r comp sec val mask).hcOf (homeDie (sec * 128)) = m.hcOf (homeDie (sec * 128)) + 1

/-- R212, R213, R300: HOME_WRITE_APPLY performs the oldest store on its way, or the oldest of the queue, and the home reads back
each byte of it; every other byte of that mapping reads as before, and the write awaits its acknowledgement. -/
def Sys2Proof.Claim.StorePerformed : Prop :=
  ∀ (s : State) (o : MemOp) (q l : List MemOp),
    (s.cur.core.transit = o :: l ∧ s.cur.core.memq = q) ∨
      (s.cur.core.transit = [] ∧ l = [] ∧ s.cur.core.memq = o :: q ∧ o.kind = .store ∧ o.pad = false) →
    s.cur.mem.bins = [] → present (o.pa / 128 * 128) = true → (o.size = 1 ∨ o.size = 2 ∨ o.size = 4 ∨ o.size = 8) →
    o.pa % o.size = 0 →
    let comp := effComp (leafComp o.leaf) (o.pa / 128)
    memSound s.cur.mem comp → l2Sound s.cur.mem comp → shown comp (o.pa / 128) →
    ∃ t, exec (.homeWriteApply .own) s = .next t ∧ t.cur.core.memq = q ∧ t.cur.core.transit = l ∧
      t.cur.core.unacked = s.cur.core.unacked ++ [(homeDie o.pa, s.cur.mem.hcOf (homeDie o.pa) + 1, o.pa / 128, o.after.2)] ∧
      t.cur.quad = s.cur.quad ∧ t.cur.core.s = s.cur.core.s ∧
      ∀ a, shown comp (a / 128) → homeByte t.cur.mem comp a = if o.pa ≤ a ∧ a < o.pa + o.size then byteAt o.data (a - o.pa) else homeByte s.cur.mem comp a

/-- R41, R157, R212, R295, R301: RELEASE_STORE_PERFORM waits until the writes that it is ordered after are acknowledged, and then
leaves the queue; where its home is on another die, the stores that passed the RDC toward that home before it come first.
STORE_ACKNOWLEDGE takes the oldest unacknowledged write, with the clocks raised to its count. -/
def Sys2Proof.Claim.ReleaseAndAcknowledge : Prop :=
  (∀ (s : State) (o : MemOp) (q : List MemOp), s.cur.core.memq = o :: q → o.kind = .release →
    let along (x : MemOp) : Bool := homeDie o.pa != s.cur.core.die && homeDie x.pa == homeDie o.pa
    (¬released s.cur.core o → exec .releaseStorePerform s = .next s) ∧
    (released s.cur.core o → (∀ x ∈ s.cur.core.transit, x.overlaps o.pad o.pa o.size = false) →
      ∃ t, exec .releaseStorePerform s = .next t ∧ t.cur.core.memq = q ∧ t.cur.core.s = s.cur.core.s ∧
      (o.pad = false → (∃ l, t.cur.core.unacked = s.cur.core.unacked ++ l ++
          [(homeDie o.pa, t.cur.mem.hcOf (homeDie o.pa), o.pa / 128, o.after.2)] ∧
          l.map (fun u => (u.1, u.2.2)) = (s.cur.core.transit.filter along).map fun x => (homeDie x.pa, x.pa / 128, x.after.2)) ∧
        t.cur.core.transit = s.cur.core.transit.filter (fun x => !along x) ∧ t.cur.quad = s.cur.quad) ∧
      (o.pad = true → t.cur.quad = s.cur.quad.write o.pa (natBytes o.data.toNat o.size) ∧ t.cur.mem.dram = s.cur.mem.dram))) ∧
  ∀ (s : State) h n w l, s.cur.core.unacked = (h, n, w) :: l →
    ∃ t, exec .storeAcknowledge s = .next t ∧ t.cur.core.unacked = l ∧ n ≤ t.cur.core.ocOf h ∧
      n ≤ t.cur.mem.vcOf s.cur.core.die h ∧ sameStore t.cur s.cur ∧ t.cur.core.memq = s.cur.core.memq

/-- R155, R157, R294, R295, R300: FENCE.acq and FENCE.ar at QUAD or wider empty L1 and at PKG or SYS ask for a refresh that
ACQUIRE_FENCE_REFRESH performs once the accesses before it are; FENCE.rel and FENCE.ar make the stores that follow releases;
no byte of memory changes. -/
def Obligations.Fences : Prop :=
  (∀ (f : FMO) (s : State), Runs (.fence f) s →
    ∃ t, exec (.fence f) s = .next t ∧ sameStore t.cur s.cur ∧ t.cur.core.memq = s.cur.core.memq ∧ t.cur.core.s = s.cur.core.s ∧
      (f.ord = 1 ∨ f.ord = 3 → 1 ≤ f.scope.toNat → t.cur.mem.l1 = []) ∧
      (f.ord = 1 ∨ f.ord = 3 → 3 ≤ f.scope.toNat → t.cur.core.refresh = true) ∧
      (f.ord = 1 ∨ f.ord = 3 → (∃ o ∈ s.cur.core.memq, o.kind = .amo) →
        ∃ sc, t.cur.core.acqWait = some sc ∧ f.scope.toNat ≤ sc) ∧
      (f.ord = 2 → t.cur.core.refresh = s.cur.core.refresh ∧ t.cur.mem = s.cur.mem) ∧
      (f.ord = 1 → t.cur.core.relFence = s.cur.core.relFence) ∧
      (f.ord = 2 ∨ f.ord = 3 → ∃ sc, t.cur.core.relFence = some sc ∧ f.scope.toNat ≤ sc ∧
        (s.cur.core.relFence = none → sc = f.scope.toNat) ∧ (f.scope.toNat, s.rd.core.now) ∈ t.cur.core.relSince ∧
        ∀ w ∈ s.cur.core.relSince, (w.1 = f.scope.toNat ∧ w.2.1 = s.rd.core.tlevel) ∨ w ∈ t.cur.core.relSince)) ∧
  ∀ s : State, s.cur.core.refresh = true →
    (s.cur.core.acqWait ≠ none → (∀ o ∈ s.cur.core.memq, o.kind ≠ .amo) ∧ (s.cur.core.acqAll = true → s.cur.core.busy = false)) →
    ∃ t, exec .acquireFenceRefresh s = .next t ∧ t.cur.core.refresh = false ∧ t.cur.mem.l1 = [] ∧ sameStore t.cur s.cur ∧
      ∀ h, h < 9 → s.cur.mem.hcOf h ≤ t.cur.core.ocOf h

/-- R154 to R156, R158, R208, R209: the faults of an access. A misaligned address raises 0x30, a scratchpad byte outside its
owner's range or in a pending eighth its cause, an address with no translation the cause of the walk, for which the access waits
in the walk pool (R401); nothing is loaded, stored or queued. -/
def Obligations.AccessFaults : Prop :=
  ∀ (i : Instr) (s : State) (va : Word) (size : Nat) (acc : Access),
    ((∃ op ∈ loadOps, ∃ f, i = op.1 f ∧ va = addressM f s op.2.1 ∧ size = op.2.1 ∧ acc = .read) ∨
      (∃ op ∈ storeOps, ∃ f, i = op.1 f ∧ va = addressM f s op.2 ∧ size = op.2 ∧ acc = .write) ∨
      (∃ op ∈ amoOps, ∃ f, i = op.1 f ∧ va = s.reg f.ra ∧ size = wordSize f.w ∧ acc = .amo) ∨
      (∃ f, i = .ld f ∧ va = s.reg f.ra ∧ size = wordSize f.w ∧ acc = .read) ∨
      (∃ f, i = .st f ∧ va = s.reg f.ra ∧ size = wordSize f.w ∧ acc = .write)) → Runs i s →
    (va.toNat % size ≠ 0 → exec i s = .next ((s.noteRead i).raise 0x30 va)) ∧
    (va.toNat % size = 0 → inWindow va.toNat = true → ∀ cause, padFault s.rd (va.toNat - qbase) = some cause →
      exec i s = .next ((s.noteRead i).raise cause va)) ∧
    (va.toNat % size = 0 → inWindow va.toNat = false → ∀ cause u, s.rd.ownXlate va.toNat acc = (.fault cause, u) →
      (cause ≠ 0 → exec i s = .next (((s.noteRead i).applyUpd u).raise cause va)) ∧
      (cause = 0 → exec i s = .next ((s.noteRead i).applyUpd u).stallWalk))

/-- R158: an AMO on a scratchpad word with no release fence in force, of which no queued operation has a byte, is one atomic step: the word takes the new value, the
destination the old one sign-extended, and no other byte changes. On a mapped address it joins the queue. -/
def Sys2Proof.Claim.Atomics : Prop :=
  ∀ op ∈ amoOps, ∀ (f : FMX) (s : State), Runs (op.1 f) s → Memory.wf s.cur.quad.sp = true →
    let va := s.reg f.ra
    let key := va.toNat - qbase
    let size := wordSize f.w
    va.toNat % size = 0 → s.rd.core.fenced = false →
    (inWindow va.toNat = true → padFault s.rd key = none → (∀ o ∈ s.rd.core.memq, o.overlaps true key size = false) →
      s.rd.core.relFence = none → s.rd.core.relSince = [] → s.rd.core.padOverdue key size = false → s.rd.quad.poisoned key size = false →
      ∃ q old new, old = bytesNat (cellsRead s.rd.quad.sp key size) ∧
        (∀ n, n = 8 * size → new = (op.2 n (BitVec.ofNat n old) ((s.reg f.rb).setWidth n) ((s.reg f.rt).setWidth n)).toNat) ∧
        exec (op.1 f) s = .next ((((s.noteRead (op.1 f)).setCore (·.settleIn true key size)).setCur fun m => { m with quad := q }).later f.rt
          (some ((BitVec.ofNat (8 * size) old).signExtend 64)) none) ∧
        ∀ k, spGet 0 q.sp k = if key ≤ k ∧ k < key + size then byteAt (BitVec.ofNat 64 new) (k - key) else padByte s.cur k) ∧
    ∀ leaf pa u, inWindow va.toNat = false → s.rd.ownXlate va.toNat .amo = (.ok leaf pa, u) →
      ∃ o : MemOp, exec (op.1 f) s = .next (((((s.noteRead (op.1 f)).applyUpd u).setCore (·.settleIn false pa size)).later f.rt none none).setCore
          fun c => { c with memq := c.memq ++ [o] }) ∧
        o.release = s.rd.core.relFence ∧ o.waits = s.rd.core.relSince ∧ o.kind = .amo ∧ o.pa = pa ∧ o.size = size ∧ o.pad = false ∧ o.scope = f.scope.toNat ∧
        o.reg = (if f.rt = 0 then 0 else s.rd.core.physS f.rt.toNat)

/-- R64, R137, R156: a scoreboarded result whose value is there is written and leaves the scoreboard; a poisoned one leaves its
mark with the address of the load in TVAL. -/
def Sys2Proof.Claim.ScoreboardWrites : Prop :=
  ∀ (s : State) (r : Result) (v : Word), r.val = some v → r.reg ≠ 0 → spWf 0 s.cur.core.s = true →
    spWf none s.cur.core.marks = true →
    s.cur.core.sb.find? (fun x => x.reg == r.reg && x.val.isSome) = some r →
    ∃ t, exec (.scoreboardResultWrite r.reg) s = .next t ∧ spGet 0 t.cur.core.s r.reg = v ∧
      (∀ k, k ≠ r.reg → spGet 0 t.cur.core.s k = spGet 0 s.cur.core.s k) ∧
      t.cur.core.sb = s.cur.core.sb.filter (fun x => !(x == r)) ∧
      spGet none t.cur.core.marks r.reg = r.poison.map (fun a => ⟨false, a⟩) ∧ t.cur.mem = s.cur.mem ∧ t.cur.quad = s.cur.quad

namespace Sys2Proof.Claim

/-- The four words of a barrier object, COUNT, EXPECT, PHASE and NEXTX (R159). -/
def objectWords (q : Quad) (key : Nat) : Nat × Nat × Nat × Nat :=
  let w (k : Nat) : Nat := bytesNat (cellsRead q.sp (key + k) 4)
  (w 0, w 4, w 8, w 12)

/-- One cycle of an object (R160). -/
def objectAfter (o : Nat × Nat × Nat × Nat) (binit : Option Nat) (arrivals drops : Nat) : Nat × Nat × Nat × Nat :=
  let count := ((if binit.isSome then 0 else o.1) + arrivals) % 2 ^ 32
  let expect := binit.getD o.2.1
  let nextx := binit.getD o.2.2.2 - drops
  if 0 < expect ∧ expect ≤ count then (count - expect, nextx, (o.2.2.1 + 1) % 2 ^ 32, nextx)
  else (count, expect, o.2.2.1, nextx)

/-- q differs from p in the 16 bytes of the object at most, and holds these words there. -/
def onlyObject (p q : Quad) (key : Nat) (words : Nat × Nat × Nat × Nat) : Prop :=
  objectWords q key = words ∧ q.split = p.split ∧ q.pending = p.pending ∧
    ∀ k, (k < key ∨ key + 16 ≤ k) → spGet 0 q.sp k = spGet 0 p.sp k

/-- A barrier instruction meets no fault of R159 and nothing that it must wait for (R160, R219). -/
def barrierFree (s : State) (va : Word) (release : Bool) : Prop :=
  barrierFault s.rd va.toNat = none ∧ s.rd.core.fenced = false ∧ (release = true → s.rd.core.busy = false ∧ pushing s.rd.core = false) ∧
    (∀ o ∈ s.rd.core.memq, o.pad = false) ∧ s.rd.core.padOverdue (va.toNat - qbase) 16 = false ∧ s.cur.peersAt (va.toNat - qbase) = []

/-- Whether an invalidation of a mode names a cached translation: of an address in a device, of a whole device, all (R375). -/
def namedBy (mode va vmid : Nat) (e : TlbEnt) : Prop :=
  (mode = 0 ∧ (e.vmid = some vmid ∨ e.vmid = none) ∧ va / pageSize e.level = e.page) ∨
    (mode = 1 ∧ (e.vmid = some vmid ∨ e.vmid = none)) ∨ 2 ≤ mode

/-- No translation that one of the invalidations names is left in a TLB, every other one is, and no pointer entry of its device
for its address is left (R375, R400). -/
def invalidated (old new : Mach) (invs : List (Nat × Word × Nat)) : Prop :=
  let named (e : TlbEnt) : Prop := ∃ i ∈ invs, namedBy i.1 i.2.1.toNat i.2.2 e
  (∀ e, e ∈ new.tlb ↔ e ∈ old.tlb ∧ ¬named e) ∧ (∀ e, e ∈ new.l2tlb ↔ e ∈ old.l2tlb ∧ ¬named e.2) ∧
    (∀ p ∈ new.ptrs, p ∈ old.ptrs ∧ ∀ i ∈ invs, i.1 ≤ 1 ∧ (p.vmid = i.2.2 → i.1 = 0 ∧ p.pre ≠ tableSpan p.level i.2.1.toNat)) ∧
    new.pool = []

/-- The dispatcher finds the n bytes at an address of a device in one page, by a translation at hand (R379, R400). -/
def cached (m : Mach) (vmid va n : Nat) (leaf : Word) (pa : Nat) : Prop :=
  va % 65536 + n ≤ 65536 ∧ m.translate vmid va .read (.die 4) = (.ok leaf pa, none)

/-- The queue's ring header is found by translations at hand (R378, R404). -/
def ringFound (m : Mach) (vmid q hdr : Nat) : Prop :=
  (m.ringAt vmid q true).2 = some hdr ∧ ∃ leaf pa, cached m vmid (m.mem.vdev vmid 64 8 + 8 * q) 8 leaf pa

/-- The 128 bytes of a packet as the context sees them (R157, R161). -/
def packetSeen (m : Mach) (pl : Place) (b : List Byte) : Prop := match pl with
  | .pad key => ownView m.core.stores true key 128 (fun i => padByte m (key + i)) b
  | .home pa leaf => ownView m.core.stores false pa 128 (fun i => homeByte m.mem (effComp (leafComp leaf) (pa / 128)) (pa + i)) b

/-- A dirty or clean copy that may leave a cache with nothing lost: a clean one agrees with what lies below. -/
def leavesClean (k : Option Sector) (below : Row × Bool) : Prop :=
  ∀ c, k = some c → c.dirty = false → (c.data, c.poison) = below

end Sys2Proof.Claim

/-- R158, R302: AMO_PERFORM makes the oldest queued AMO, at the home where no L1 copy serves it, one atomic step: the home
reads back the new value and every other byte as before, and the awaited destination gets the old value sign-extended. Stores
that passed the RDC toward the same home would come first (R301): here none is on its way. -/
def Sys2Proof.Claim.AtomicPerformed : Prop :=
  ∀ (s : State) (o : MemOp) (q : List MemOp) (op : (FMX → Instr) × ((n : Nat) → BitVec n → BitVec n → BitVec n → BitVec n)),
    s.cur.core.memq = o :: q → o.kind = .amo → o.pad = false → o.release = none → o.waits = [] → amoOps[o.amo]? = some op →
    (∀ x ∈ s.cur.core.transit, x.overlaps false o.pa o.size = false ∧
      (homeDie x.pa = homeDie o.pa → homeDie o.pa = s.cur.core.die)) → s.cur.mem.bins = [] →
    present (o.pa / 128 * 128) = true → (o.size = 4 ∨ o.size = 8) → o.pa % o.size = 0 → o.scope ≠ 0 →
    o.data.toNat < 2 ^ (8 * o.size) → o.cmp.toNat < 2 ^ (8 * o.size) →
    let comp := effComp (leafComp o.leaf) (o.pa / 128)
    memSound s.cur.mem comp → l2Sound s.cur.mem comp → shown comp (o.pa / 128) →
    (s.cur.mem.homeRead comp (o.pa / 128)).2 = false →
    ∃ t old new, exec .amoPerform s = .next t ∧ t.cur.core.memq = q ∧
      (∀ k, k < o.size → byteAt (BitVec.ofNat 64 old) k = homeByte s.cur.mem comp (o.pa + k)) ∧ old < 2 ^ (8 * o.size) ∧
      (∀ n, n = 8 * o.size → new = (op.2 n (BitVec.ofNat n old) (o.data.setWidth n) (o.cmp.setWidth n)).toNat) ∧
      (∀ a, shown comp (a / 128) → homeByte t.cur.mem comp a =
        if o.pa ≤ a ∧ a < o.pa + o.size then byteAt (BitVec.ofNat 64 new) (a - o.pa) else homeByte s.cur.mem comp a) ∧
      t.cur.core.sb = s.cur.core.sb.map (fun r => if r.reg = o.reg ∧ r.val = none
        then { r with val := some ((BitVec.ofNat (8 * o.size) old).signExtend 64), poison := none } else r) ∧
      t.cur.quad = s.cur.quad

/-- R210, R211, R213 to R216, R223: no fill of a cache and no eviction changes what a home reads as, nor anything of the context
but its observed clock, which rises (R300). A sector that leaves the die L2 or the memory-side cache takes its dirty bytes with
it; a clean one is assumed to agree with what lies below it. -/
def Obligations.CachesKeepContents : Prop :=
  (∀ (s : State) level key, s.cur.mem.bins = [] → spWf none s.cur.mem.l2 = true →
    ∃ t, exec (.lineFill level key) s = .next t ∧ { t.cur.core with oc := s.cur.core.oc } = s.cur.core ∧
      (∀ h, s.cur.core.ocOf h ≤ t.cur.core.ocOf h) ∧ t.cur.quad = s.cur.quad ∧
      (level ≠ .l2 → level ≠ .msc → ∀ comp sec, t.cur.mem.homeRead comp sec = s.cur.mem.homeRead comp sec) ∧
      (level = .msc ∨ (level = .l2 ∧ l2Sound s.cur.mem (key % 2 == 1)) → memSound s.cur.mem (key % 2 == 1) →
        shown (key % 2 == 1) (key / 2) → ∀ sec, shown (key % 2 == 1) sec →
        t.cur.mem.homeRead (key % 2 == 1) sec = s.cur.mem.homeRead (key % 2 == 1) sec) ∧
      (level ≠ .rdc → ∀ r ∈ t.cur.mem.fills, ¬(r.level = level ∧ r.key = key))) ∧
  ∀ (s : State) key, present (key / 2 * 128) = true → memSound s.cur.mem (key % 2 == 1) → shown (key % 2 == 1) (key / 2) →
    (leavesClean (spGet none s.cur.mem.l2 key) (s.cur.mem.sideRead (key % 2 == 1) (key / 2)) →
      ∃ t, exec (.l2Eviction key) s = .next t ∧ t.cur.core = s.cur.core ∧
        (s.cur.mem.down = [] → spGet none t.cur.mem.l2 key = none) ∧
        ∀ sec, shown (key % 2 == 1) sec → t.cur.mem.homeRead (key % 2 == 1) sec = s.cur.mem.homeRead (key % 2 == 1) sec) ∧
    (leavesClean (spGet none s.cur.mem.msc key) (s.cur.mem.dramRead (key % 2 == 1) (key / 2)) →
      ∃ t, exec (.mscEviction key) s = .next t ∧ t.cur.core = s.cur.core ∧ spGet none t.cur.mem.msc key = none ∧
        ∀ sec, shown (key % 2 == 1) sec → t.cur.mem.homeRead (key % 2 == 1) sec = s.cur.mem.homeRead (key % 2 == 1) sec)

/-- R396 to R401: TABLE_WALK of an access that its leaf permits installs the leaf, with A and for a write D set, and the same
access then translates without a walk; one that finds no leaf or is denied installs none; the misses of that page and access
that wait in the pool take the leaf, or the cause. R375, R402: TLBINV_COMPLETE, once no access that a removed translation serves is still under
way, leaves no translation and no pointer entry that the invalidation names, nor that another core's does which waits. That a walk stands apart
from its bundle is the model's reading (log 16). -/
def Obligations.TranslationEvents : Prop :=
  (∀ (s : State) vmid (va : Word) acc, va.toNat < 2 ^ 52 → inWindow va.toNat = false →
    let top := s.cur.startTable s.cur.core.die vmid va.toNat
    let found := (walkFrom s.cur.mem va.toNat top.1 top.2).leaf
    let miss : Miss := ⟨vmid, va.toNat / 65536, acc, none, none⟩
    (∀ leaf lev a, found = some (leaf, lev, a) → denied acc leaf = none →
      ∃ t l, exec (.tableWalk vmid va acc) s = .next t ∧ leafA l = true ∧ (setsD acc = true → leafD l = true) ∧
        t.cur.translate vmid va.toNat acc = (.ok l (bits leaf.toNat 47 16 * 65536 + va.toNat % pageSize lev), none) ∧
        t.cur.core = s.cur.core ∧ t.cur.quad = s.cur.quad ∧
        (miss ∈ s.cur.pool → miss ∉ t.cur.pool ∧ { miss with leaf := some (l, lev) } ∈ t.cur.pool)) ∧
    ∀ c, (found = none ∧ c = 0x20) ∨ (∃ leaf lev a, found = some (leaf, lev, a) ∧ denied acc leaf = some c) →
      ∃ t, exec (.tableWalk vmid va acc) s = .next t ∧ t.cur.core = s.cur.core ∧ t.cur.quad = s.cur.quad ∧
        t.cur.tlb = s.cur.tlb ∧ t.cur.l2tlb = s.cur.l2tlb ∧ (s.cur.mem.bins = [] → t.cur.mem = s.cur.mem) ∧
        (miss ∈ s.cur.pool → { miss with cause := some c } ∈ t.cur.pool)) ∧
  (∀ (s : State) mode (va : Word) vmid reg, s.cur.core.tlbinv = some (mode, va, vmid, reg) → s.cur.boundWork = false →
    ∃ t, exec .tlbinvComplete s = .next t ∧ t.cur.core.tlbinv = none ∧ t.cur.core.sb = fillResult s.cur.core.settleLoads.sb reg 0 none ∧
      t.cur.peerInvs = [] ∧ t.cur.mem = s.cur.mem ∧ t.cur.quad = s.cur.quad ∧
      invalidated s.cur t.cur ((mode, va, vmid) :: s.cur.peerInvs)) ∧
  (∀ (s : State), s.cur.core.tlbinv = none → s.cur.peerInvs ≠ [] → s.cur.boundWork = false →
    ∃ t, exec .tlbinvComplete s = .next t ∧ t.cur.core = s.cur.core.settleLoads ∧ t.cur.peerInvs = [] ∧ t.cur.mem = s.cur.mem ∧
      t.cur.quad = s.cur.quad ∧ invalidated s.cur t.cur s.cur.peerInvs) ∧
  ∀ (s : State), s.cur.boundWork = true → exec .tlbinvComplete s = .next s

/-- R160: the object takes the operations of a cycle as one step: a BINIT first, the lowest rank's; then the arrivals and landed
bytes, the drops, and one completion check. Nothing outside its 16 bytes changes. -/
def Obligations.BarrierObject : Prop :=
  ∀ (q : Quad) (key : Nat) (ops : List (Nat × Nat × Nat)), Memory.wf q.sp = true →
    (∀ o ∈ ops, o.1 < 4 ∧ o.2.1 ≤ 3) →
    let arrivals := (ops.map fun o => if o.2.1 = 1 ∨ o.2.1 = 2 then 1 else if o.2.1 = 3 then o.2.2 else 0).sum
    let drops := (ops.map fun o => if o.2.1 = 2 then 1 else 0).sum
    ((∀ o ∈ ops, o.2.1 ≠ 0) → onlyObject q (objectCycle q key ops) key (objectAfter (objectWords q key) none arrivals drops)) ∧
    ∀ pre o post, ops = pre ++ o :: post → o.2.1 = 0 → (∀ x ∈ pre, x.2.1 = 0 → o.1 < x.1) → (∀ x ∈ post, x.2.1 = 0 → o.1 ≤ x.1) →
      onlyObject q (objectCycle q key ops) key (objectAfter (objectWords q key) (some (o.2.2 % 2 ^ 32)) arrivals drops)

/-- R159, R160, R252: where no fault stands and no peer acts in the same cycle, BINIT sets the object, BARR and BDROP count
and give PHASE as it was, and BWAIT passes once PHASE differs; BINIT_DEFERRED performs a BINIT that had to wait, here
in a cycle in which nothing lands. How peers of the same cycle are held is the model's (log 19), and that L1's emptying takes the
instruction cache along (log 54). -/
def Sys2Proof.Claim.BarrierInstructions : Prop :=
  ∀ (f : FR) (s : State), Memory.wf s.cur.quad.sp = true →
    let va := s.reg f.ra
    let key := va.toNat - qbase
    let now := objectWords s.cur.quad key
    let phase := BitVec.ofNat 64 (objectWords s.rd.quad key).2.2.1
    (Runs (.binit f) s → barrierFree s va false →
      ∃ q, exec (.binit f) s = .next (((s.noteRead (.binit f)).setCore (·.settleIn true key 16)).setCur fun m => { m with quad := q }) ∧
        onlyObject s.cur.quad q key (objectAfter now (some ((s.opB f).setWidth 32).toNat) 0 0)) ∧
    (Runs (.barr f) s → barrierFree s va true →
      ∃ q, exec (.barr f) s =
          .next ((((s.noteRead (.barr f)).setCore Core.settleLoads).later f.rd (some phase) none).setCur fun m => { m with quad := q }) ∧
        onlyObject s.cur.quad q key (objectAfter now none 1 0)) ∧
    (Runs (.bdrop f) s → barrierFree s va true →
      ∃ q, exec (.bdrop f) s =
          .next ((((s.noteRead (.bdrop f)).setCore Core.settleLoads).later f.rd (some phase) none).setCur fun m => { m with quad := q }) ∧
        onlyObject s.cur.quad q key (objectAfter now none 1 1)) ∧
    (Runs (.bwait f) s → barrierFree s va false →
      ((objectWords s.rd.quad key).2.2.1 ≠ ((s.opB f).setWidth 32).toNat →
        exec (.bwait f) s =
          .next (((s.noteRead (.bwait f)).setCore (·.settleIn true key 16)).setMem fun m => { m with l1 := [], icache := [] })) ∧
      ((objectWords s.rd.quad key).2.2.1 = ((s.opB f).setWidth 32).toNat →
        exec (.bwait f) s = .next ((s.noteRead (.bwait f)).setCore (·.settleIn true key 16)).stall)) ∧
    (∀ k x, s.cur.core.binit = some (k, x) → s.cur.peerOps = [] → s.cur.core.bank s.cur.core.tlevel = [] →
      ∃ t, exec .binitDeferred s = .next t ∧ t.cur.core.binit = none ∧ t.cur.mem = s.cur.mem ∧
        onlyObject s.cur.quad t.cur.quad k (objectAfter (objectWords s.cur.quad k) (some x.toNat) 0 0))

/-- R159: the faults of a barrier address, in their order: outside the window 0x40, misaligned 0x30, then those of the owner's
range; the object stays as it is. R161, R378, R379: QPUSH to a queue that is not there raises 0x41, of a misaligned packet 0x30; one
with room gives the old TAIL and tells the dispatcher, and where the pages of the ring are at hand, the packet's bytes stand in the
slot that TAIL names, TAIL is one more, and every other byte is as it was. The order of QPUSH's own checks is the model's reading
(log 34). -/
def Sys2Proof.Claim.BarrierFaultsAndPush : Prop :=
  (∀ (i : Instr) (f : FR) (s : State), i = .binit f ∨ i = .barr f ∨ i = .bdrop f ∨ i = .bwait f → Runs i s →
    let va := (s.reg f.ra).toNat
    (inWindow va = false → exec i s = .next ((s.noteRead i).raise 0x40 (s.reg f.ra))) ∧
    (inWindow va = true → va % 16 ≠ 0 → exec i s = .next ((s.noteRead i).raise 0x30 (s.reg f.ra))) ∧
    ∀ c, inWindow va = true → va % 16 = 0 → padFault s.rd (va - qbase) = some c →
      exec i s = .next ((s.noteRead i).raise c (s.reg f.ra))) ∧
  ∀ (f : FR) (s : State), Runs (.qpush f) s →
    let n := s.noteRead (.qpush f)
    let vmid := s.rd.core.vmid.toNat
    let q := (s.opB f).toNat
    (63 < q → exec (.qpush f) s = .next (n.raise 0x41 (s.opB f))) ∧
    (q ≤ 63 → (n.rd.ringAt vmid q true).2 = none →
      exec (.qpush f) s = .next ((n.both fun m => (m.ringAt vmid q true).1).raise 0x41 (s.opB f))) ∧
    (∀ hdr, q ≤ 63 → (n.rd.ringAt vmid q true).2 = some hdr → (s.reg f.ra).toNat % 128 ≠ 0 →
      exec (.qpush f) s = .next ((n.both fun m => (m.ringAt vmid q true).1).raise 0x30 (s.reg f.ra))) ∧
    ∀ hdr pl u h, q ≤ 63 → (n.rd.ringAt vmid q true).2 = some hdr →
      n.rd.place (s.reg f.ra).toNat 128 .read = (.ok pl, u) → (n.rd.vread vmid hdr 17).2 = some h →
      let tail := field h 0 8
      let head := field h 8 8
      let room := 2 ^ field h 16 1
      (ahead head tail < room → s.rd.core.busy = false → pushing s.rd.core = false → s.rd.core.fenced = false →
        ∃ t l, exec (.qpush f) s = .next t ∧
          t.cur.core.sb = s.cur.core.settleLoads.sb ++
            (if f.rd = 0 then [] else [⟨s.rd.core.physS f.rd.toNat, some (BitVec.ofNat 64 tail), none, none⟩]) ∧
          t.cur.disp.bells = l ++ [⟨vmid, 64 + q, hdr, s.cur.ftime, s.rd.core.launch, (tail + 1) % 2 ^ 64⟩] ∧
          (∀ b, b ∈ l → b ∈ s.cur.disp.bells) ∧
          (∀ b ∈ s.cur.disp.bells, b.vmid ≠ vmid ∨ b.queue ≠ 64 + q → b ∈ l) ∧
          t.cur.core.s = s.cur.core.s ∧ t.cur.quad = s.cur.quad ∧
          ∀ comp ls ps lh ph, ringFound s.cur vmid q hdr → u = none → s.cur.mem.bins = [] → s.rd.mem.bins = [] →
            cached s.cur vmid hdr 17 lh ph → cached s.cur vmid (hdr + 64 + 128 * (tail % room)) 128 ls ps →
            (ps + 128 ≤ ph ∨ ph + 8 ≤ ps) → effComp (leafComp ls) (ps / 128) = comp → effComp (leafComp lh) (ph / 128) = comp →
            memSound s.cur.mem comp → l2Sound s.cur.mem comp →
            (∀ a, (ps ≤ a ∧ a < ps + 128) ∨ (ph ≤ a ∧ a < ph + 8) → present (a / 128 * 128) = true ∧ shown comp (a / 128)) →
            ∃ b, packetSeen s.rd pl b ∧
              ∀ a, shown comp (a / 128) → homeByte t.cur.mem comp a =
                if ps ≤ a ∧ a < ps + 128 then b.getD (a - ps) 0
                else if ph ≤ a ∧ a < ph + 8 then byteAt (BitVec.ofNat 64 (tail + 1)) (a - ph)
                else homeByte s.cur.mem comp a) ∧
      (room ≤ ahead head tail → ∃ t, exec (.qpush f) s = .next t ∧ t.verdict = .stall ∧ t.cur.disp = s.cur.disp ∧
        t.cur.core.sb = s.cur.core.sb ∧ t.cur.core.s = s.cur.core.s ∧ t.cur.quad = s.cur.quad)

namespace Sys2Proof.Claim

/-! ### Words for the vector slots -/

abbrev VOp := Unit2 → FV → Instr

/-- The port operands of a vector instruction stand in no way (R55, R66, R108, R294): their rows are right, no scratchpad access
of the context is queued before them, no acquire is still to be performed, and no push of their bytes is overdue. -/
def portsReady (op : Nat) (f : FV) (s : State) : Prop := portCheck s.rd op f = none ∧ portWaits s.rd op f = false

/-- After the effect each port that was popped or pushed advances once (R107, R108). -/
def portsAdvanced (op : Nat) (f : FV) (t : State) : State :=
  (popsOf op f ++ pushOf op f).foldl (fun s p => s.setCore (advancePort s.rd.core · p)) t

/-- Element i of row j of an operand, at a width of b bits (R163). -/
def elem (s : State) (u : Unit2) (f : FV) (sel : BitVec 8) (b j i : Nat) : Nat := at2 (s.rd.elems (isW u) f sel b) j i

/-- An immediate that a description reads in another format (R163). -/
def immAs (f : FV) (sel : BitVec 8) (g : Nat) : Nat := convert f.fmt.toNat g f.rnd.toNat false (immCode f.fmt.toNat (sel.toNat - 128))

/-- An element read in format g, of b bits: an immediate is converted to it (R163). -/
def elemAs (s : State) (u : Unit2) (f : FV) (sel : BitVec 8) (g b j i : Nat) : Nat :=
  if 128 ≤ sel.toNat then immAs f sel g else elem s u f sel b j i

/-- Word k of a statistics row, SUM, SSQ and CNT (R180); an immediate is converted to each field (R163). -/
def statWord (s : State) (u : Unit2) (f : FV) (sel : BitVec 8) (j k : Nat) : Nat :=
  if 128 ≤ sel.toNat then
    (if k = 2 then (BitVec.ofInt 32 (toIntClamp 10 f.rnd.toNat (decF 0 (immAs f sel 0)))).toNat else immAs f sel 0)
  else elem s u f sel 32 j k

/-- enabled(i) for elements of b bits (R164): all lanes, or the mask bit of the element's lowest byte. -/
def laneOn (s : State) (u : Unit2) (f : FV) (b i : Nat) : Bool :=
  f.men == 0 || (s.rd.core.lanes (isW u) f.msk.toNat).getLsbD (b / 8 * i)

/-- A row of n elements of b bits, written where `en` holds, with the elements g; no other bit is written (R164). -/
def rowIs (b n : Nat) (en : Nat → Bool) (g : Nat → Nat) (r : Row × Row) : Prop :=
  ∀ k, k < 1024 → r.2.getLsbD k = (decide (k < b * n) && en (k / b)) ∧
    (r.2.getLsbD k = true → r.1.getLsbD k = (g (k / b)).testBit (k % b))

/-- Eight rows of n elements of b bits. -/
def rowsAre (b n : Nat) (en : Nat → Bool) (g : Nat → Nat → Nat) (l : Rows) : Prop :=
  l.length = 8 ∧ ∀ j, j < 8 → rowIs b n en (g j) (l.getD j (0, 0))

/-- The instruction completes: its destination row group takes these rows under a class. -/
def rowsWritten (i : Instr) (op cls : Nat) (u : Unit2) (f : FV) (s : State) (b n : Nat) (en : Nat → Bool) (g : Nat → Nat → Nat) : Prop :=
  ∃ l, rowsAre b n en g l ∧ exec i s = .next (portsAdvanced op f ((s.noteRead i).putRows cls (isW u) f.dst l))

/-- Bits of a lane mask for n elements of b bits: those of the elements where `en` holds, with the verdicts q (R103). -/
def lanesAre (b n : Nat) (en q : Nat → Bool) (val mask : Lanes) : Prop :=
  ∀ k, k < 128 → mask.getLsbD k = (decide (k < b / 8 * n) && en (k / (b / 8))) ∧
    (mask.getLsbD k = true → val.getLsbD k = q (k / (b / 8)))

/-- FMT and RND as numbers. -/
def fm (f : FV) : Nat := f.fmt.toNat
def width (f : FV) : Nat := fmtBits f.fmt.toNat

/-- A float result rounded once by RND (R120 to R124). -/
def flt (f : FV) (v : Val) : Nat := roundF (fm f) f.rnd.toNat v
def val (f : FV) (c : Nat) : Val := decF (fm f) c

/-- An operation on elements as bit vectors of FMT's width. -/
def onBits (f : FV) (g : (n : Nat) → BitVec n → BitVec n → BitVec n → BitVec n) (a b c : Nat) : Nat :=
  (g (width f) (BitVec.ofNat _ a) (BitVec.ofNat _ b) (BitVec.ofNat _ c)).toNat

/-- A float operation on values, or an integer one on bit vectors. -/
def either (f : FV) (x : Val → Val → Val → Val) (g : (n : Nat) → BitVec n → BitVec n → BitVec n → BitVec n) (a b c : Nat) : Nat :=
  if isFloat (fm f) then flt f (x (val f a) (val f b) (val f c)) else onBits f g a b c

/-- The least of two under FMT's signedness, and the greatest. -/
def minOf (f : FV) (n : Nat) (a b : BitVec n) : BitVec n :=
  if isSigned (fm f) then (if a.sle b then a else b) else (if a.ule b then a else b)
def maxOf (f : FV) (n : Nat) (a b : BitVec n) : BitVec n :=
  if isSigned (fm f) then (if a.sle b then b else a) else (if a.ule b then b else a)

/-- The elementwise instructions of R169, R171 and R172, with their opcodes. -/
def elementwiseOps : List (VOp × Nat × (FV → Nat → Nat → Nat → Nat)) := [
  (.vadd, 0x00, fun f => either f (fun a b _ => a.add f.rnd.toNat b) (fun _ a b _ => a + b)),
  (.vsub, 0x01, fun f => either f (fun a b _ => a.sub f.rnd.toNat b) (fun _ a b _ => a - b)),
  (.vmul, 0x02, fun f => either f (fun a b _ => a.mul b) (fun _ a b _ => a * b)),
  (.vmulh, 0x03, fun f => onBits f fun n a b _ => if isSigned (fm f)
    then (a.signExtend (2 * n) * b.signExtend (2 * n)).extractLsb' n n else (a.setWidth (2 * n) * b.setWidth (2 * n)).extractLsb' n n),
  (.vfma, 0x04, fun f => either f (fun a b c => (a.mul b).add f.rnd.toNat c) (fun _ a b c => a * b + c)),
  (.vfms, 0x05, fun f => either f (fun a b c => (a.mul b).sub f.rnd.toNat c) (fun _ a b c => a * b - c)),
  (.vfnma, 0x06, fun f => either f (fun a b c => (a.mul b).neg.add f.rnd.toNat c) (fun _ a b c => -(a * b) + c)),
  (.vfnms, 0x07, fun f => either f (fun a b c => (a.mul b).neg.sub f.rnd.toNat c) (fun _ a b c => -(a * b) - c)),
  (.vmin, 0x08, fun f => either f (fun a b _ => a.min b) (fun n a b _ => minOf f n a b)),
  (.vmax, 0x09, fun f => either f (fun a b _ => a.max b) (fun n a b _ => maxOf f n a b)),
  (.vabs, 0x0A, fun f => either f (fun a _ _ => a.abs) (fun _ a _ _ => if isSigned (fm f) && a.msb then -a else a)),
  (.vneg, 0x0B, fun f => either f (fun a _ _ => a.neg) (fun _ a _ _ => -a)),
  (.vadds, 0x0C, fun f a b _ => wrap (width f) (clampI (fm f) (decI' (fm f) a + decI' (fm f) b))),
  (.vsubs, 0x0D, fun f a b _ => wrap (width f) (clampI (fm f) (decI' (fm f) a - decI' (fm f) b))),
  (.vavg, 0x0E, fun f a b _ => if isFloat (fm f) then flt f (((val f a).add f.rnd.toNat (val f b)).scale (-1))
    else wrap (width f) ((decI' (fm f) a + decI' (fm f) b + 1) / 2)),
  (.vclamp, 0x0F, fun f => either f (fun a b c => (a.max b).min c) (fun n a b c => minOf f n (maxOf f n a b) c)),
  (.vsel, 0x16, fun _ a b c => if c = 0 then b else a),
  (.vmov, 0x17, fun _ a _ _ => a),
  (.vand, 0x18, fun f => onBits f fun _ a b _ => a &&& b),
  (.vor, 0x19, fun f => onBits f fun _ a b _ => a ||| b),
  (.vxor, 0x1A, fun f => onBits f fun _ a b _ => a ^^^ b),
  (.vandn, 0x1B, fun f => onBits f fun _ a b _ => a &&& ~~~b),
  (.vnot, 0x1C, fun f => onBits f fun _ a _ _ => ~~~a),
  (.vshl, 0x1D, fun f => onBits f fun n a b _ => a <<< (b.toNat % n)),
  (.vshr, 0x1E, fun f => onBits f fun n a b _ => a >>> (b.toNat % n)),
  (.vsar, 0x1F, fun f => onBits f fun n a b _ => a.sshiftRight (b.toNat % n)),
  (.vclz, 0x3C, fun f => onBits f fun _ a _ _ => a.clz),
  (.vpopc, 0x3D, fun f => onBits f fun _ a _ _ => a.cpop)]

/-- The compares of R170: on floats every relation with a NaN is false but not-equal; integers by their signedness. -/
def compareOps : List (VOp × Nat × (Val → Val → Bool) × (Int → Int → Bool)) := [
  (.vcmpeq, 0x10, fun a b => a.eq b, fun a b => a == b),
  (.vcmpne, 0x11, fun a b => !a.eq b, fun a b => a != b),
  (.vcmplt, 0x12, fun a b => a.lt b, fun a b => decide (a < b)),
  (.vcmple, 0x13, fun a b => a.lt b || a.eq b, fun a b => decide (a ≤ b)),
  (.vcmpgt, 0x14, fun a b => b.lt a, fun a b => decide (b < a)),
  (.vcmpge, 0x15, fun a b => b.lt a || a.eq b, fun a b => decide (b ≤ a))]

/-- One step of R132's tree: neighbours combined, a lone one passed on, an empty place where both are empty. -/
def pairUp {α : Type} (comb : α → α → α) (l : Nat → Option α) (i : Nat) : Option α := match l (2 * i), l (2 * i + 1) with
  | some a, some b => some (comb a b)
  | some a, none => some a
  | none, y => y

/-- The tree over at most 128 places, level by level (R132). -/
def treeOf {α : Type} (comb : α → α → α) : Nat → (Nat → Option α) → Option α
  | 0, l => l 0
  | k + 1, l => treeOf comb k (pairUp comb l)

/-- Row results combined in row order, rows with no input skipped (R132). -/
def inRowOrder {α : Type} (comb : α → α → α) (l : List (Option α)) : Option α :=
  match l.filterMap id with
  | [] => none
  | a :: t => some (t.foldl comb a)

/-- The reductions of R179: combination in the 32-bit format, and the result with no input. -/
def reductionOps : List (VOp × Nat × (FV → Nat → Nat → Nat) × (FV → Nat)) := [
  (.vrsum, 0x2C, fun f a b => if isFloat (fm f) then roundF 0 f.rnd.toNat ((decF 0 a).add f.rnd.toNat (decF 0 b)) else (a + b) % 2 ^ 32,
    fun _ => 0),
  (.vrmax, 0x2D, fun f a b => if isFloat (fm f) then roundF 0 f.rnd.toNat ((decF 0 a).max (decF 0 b))
    else (maxOf f 32 (BitVec.ofNat 32 a) (BitVec.ofNat 32 b)).toNat,
    fun f => if isFloat (fm f) then 0xFF800000 else if isSigned (fm f) then 0x80000000 else 0),
  (.vrmin, 0x2E, fun f a b => if isFloat (fm f) then roundF 0 f.rnd.toNat ((decF 0 a).min (decF 0 b))
    else (minOf f 32 (BitVec.ofNat 32 a) (BitVec.ofNat 32 b)).toNat,
    fun f => if isFloat (fm f) then 0x7F800000 else if isSigned (fm f) then 0x7FFFFFFF else 0xFFFFFFFF)]

/-- An input of a reduction in 32 bits: a float widened to FP32, an integer extended by its sign (R125, R179). -/
def widened (f : FV) (c : Nat) : Nat :=
  if isFloat (fm f) then convert (fm f) 0 0 false c
  else if isSigned (fm f) then ((BitVec.ofNat (width f) c).signExtend 32).toNat else c

/-- The order of VSORT on codes: by sign and magnitude, −0 below +0, every NaN on top and equal (R183). -/
def sortsBelow (f : FV) (a b : Nat) : Bool :=
  if isFloat (fm f) then !(val f a).isNaN && ((val f b).isNaN || (val f a).lt (val f b) || ((val f a).eq (val f b) && (val f a).sign && !(val f b).sign))
  else if isSigned (fm f) then (BitVec.ofNat (width f) a).slt (BitVec.ofNat (width f) b) else decide (a < b)

/-- VTOPK's rank: a NaN above every number, numbers by magnitude, ties to the lower index (R182). -/
def ranksAbove (f : FV) (x : Nat → Nat) (i j : Nat) : Bool :=
  let a := val f (x i)
  let b := val f (x j)
  if a.isNaN != b.isNaN then a.isNaN
  else if !a.isNaN && (b.abs.lt a.abs || a.abs.lt b.abs) then b.abs.lt a.abs
  else decide (i < j)

end Sys2Proof.Claim

/-! ## The vector slots (08_vector_instructions.md) -/

/-- R163, R164, R167, R169, R171, R172: each elementwise instruction completes, and element i of row j of its destination takes
the table's result under class VA where enabled(i) holds; no other bit is written. -/
def Sys2Proof.Claim.ElementwiseResults : Prop :=
  ∀ e ∈ elementwiseOps, ∀ (u : Unit2) (f : FV) (s : State), Runs (e.1 u f) s → portsReady e.2.1 f s →
    rowsWritten (e.1 u f) e.2.1 clsVA u f s (width f) f.elems (laneOn s u f (width f)) fun j i =>
      e.2.2 f (elem s u f f.sa (width f) j i) (elem s u f f.sb (width f) j i) (elem s u f f.sc (width f) j i)

/-- R103, R170: a compare writes all ones or zeros into its tile, or one verdict for each enabled element into its mask: AND, OR,
or one row's of the eight. -/
def Sys2Proof.Claim.CompareResults : Prop :=
  ∀ e ∈ compareOps, ∀ (u : Unit2) (f : FV) (s : State), Runs (e.1 u f) s → portsReady e.2.1 f s →
    let t (j i : Nat) : Bool :=
      let a := elem s u f f.sa (width f) j i
      let b := elem s u f f.sb (width f) j i
      if isFloat (fm f) then e.2.2.1 (val f a) (val f b) else e.2.2.2 (decI' (fm f) a) (decI' (fm f) b)
    let q (i : Nat) : Bool := match (f.aux.extractLsb' 3 2).toNat with
      | 0 => (List.range 8).all fun j => t j i
      | 1 => (List.range 8).any fun j => t j i
      | _ => t (f.aux.extractLsb' 5 3).toNat i
    (f.aux.getLsbD 8 = true → rowsWritten (e.1 u f) e.2.1 clsVA u f s (width f) f.elems (laneOn s u f (width f)) fun j i =>
      if t j i then 2 ^ width f - 1 else 0) ∧
    (f.aux.getLsbD 8 = false → ∃ v m, lanesAre (width f) f.elems (laneOn s u f (width f)) q v m ∧
      exec (e.1 u f) s = .next (portsAdvanced e.2.1 f ((s.noteRead (e.1 u f)).putLanes (isW u) (f.aux.toNat % 8) v m)))

/-- R173: VMACW adds the exact products of the narrow elements to the 32-bit element, and saturates or wraps. SBX gives b the
opposite signedness. -/
def Sys2Proof.Claim.MultiplyAccumulate : Prop :=
  ∀ (u : Unit2) (f : FV) (s : State), Runs (.vmacw u f) s → portsReady 0x20 f s →
    let k := 32 / width f
    let num (signed : Bool) (c : Nat) : Int := if signed then (BitVec.ofNat (width f) c).toInt else (BitVec.ofNat (width f) c).toNat
    let c (j i : Nat) : Int := if 128 ≤ f.sc.toNat then num (isSigned (fm f)) (immCode (fm f) (f.sc.toNat - 128))
      else (BitVec.ofNat 32 (elem s u f f.sc 32 j i)).toInt
    let sum (j i : Nat) : Int := c j i +
      ((List.range k).map fun t => num (isSigned (fm f)) (elem s u f f.sa (width f) j (k * i + t)) *
        num (isSigned (fm f) != f.aux.getLsbD 1) (elem s u f f.sb (width f) j (k * i + t))).sum
    rowsWritten (.vmacw u f) 0x20 clsVA u f s 32 (widBits f.wid / 32) (laneOn s u f 32) fun j i =>
      (BitVec.ofInt 32 (if f.aux.getLsbD 0 then max (-2147483648) (min 2147483647 (sum j i)) else sum j i)).toNat

/-- R174, R175: VCVT converts chunk CHUNK of the source into the narrow places, or from them, and leaves the others; VQNT and
VDQN round each element once under the SC8 scale of its row and 32-element block. (What SC8 becomes as SC8 is the model's, log
57.) -/
def Obligations.ConversionResults : Prop :=
  (∀ (u : Unit2) (f : FV) (s : State), Runs (.vcvt u f) s → portsReady 0x21 f s →
    let fd := (f.aux.extractLsb' 0 4).toNat
    let bs := width f
    let bd := fmtBits fd
    let n := widBits f.wid / max bs bd
    let chunk := (f.aux.extractLsb' 5 2).toNat
    let first := if bd < bs then chunk * n else 0
    let from_ := if bd < bs then 0 else chunk * n
    rowsWritten (.vcvt u f) 0x21 clsVA u f s bd (widBits f.wid / bd)
      (fun q => decide (first ≤ q ∧ q < first + n) && laneOn s u f bd q)
      fun j q => convert (fm f) fd f.rnd.toNat (f.aux.getLsbD 4) (elem s u f f.sa bs j (from_ + (q - first)))) ∧
  (∀ (u : Unit2) (f : FV) (s : State), Runs (.vqnt u f) s → portsReady 0x22 f s →
    let n := f.elems
    let first := (f.aux.extractLsb' 3 2).toNat * n
    let qf := 3 + (f.aux.extractLsb' 0 2).toNat
    let e (j q : Nat) : BitVec 8 := (spGet 0 s.rd.core.c (f.aux.extractLsb' 5 5).toNat).extractLsb' (8 * (4 * j + q / 32)) 8
    let x (j q : Nat) : Val := if e j q = 0x80 then .nan else (val f (elem s u f f.sa (width f) j (q - first))).scale (-(e j q).toInt)
    rowsWritten (.vqnt u f) 0x22 clsVA u f s 8 (widBits f.wid / 8)
      (fun q => decide (first ≤ q ∧ q < first + n) && laneOn s u f 8 q)
      fun j q => if qf < 5 then roundSat qf f.rnd.toNat (f.aux.getLsbD 2) (x j q)
        else (BitVec.ofInt 8 (toIntClamp qf f.rnd.toNat (x j q))).toNat) ∧
  ∀ (u : Unit2) (f : FV) (s : State), Runs (.vdqn u f) s → portsReady 0x23 f s →
    let first := (f.aux.extractLsb' 3 2).toNat * f.elems
    let qf := 3 + (f.aux.extractLsb' 0 2).toNat
    let e (j q : Nat) : BitVec 8 := (spGet 0 s.rd.core.c (f.aux.extractLsb' 5 5).toNat).extractLsb' (8 * (4 * j + q / 32)) 8
    let a (j q : Nat) : Nat := elemAs s u f f.sa qf 8 j q
    let x (j q : Nat) : Val := if qf < 5 then decF qf (a j q)
      else Val.ofInt (if qf = 5 then (BitVec.ofNat 8 (a j q)).toInt else (a j q : Nat))
    rowsWritten (.vdqn u f) 0x23 clsVA u f s (width f) f.elems (laneOn s u f (width f)) fun j i =>
      flt f (if e j (first + i) = 0x80 then .nan else (x j (first + i)).scale (e j (first + i)).toInt)

/-- R176, R177: the rearranging instructions move bits unchanged, each element from the place that its pattern names. -/
def Sys2Proof.Claim.RearrangementResults : Prop :=
  ∀ (u : Unit2) (f : FV) (s : State),
    let n := f.elems
    let a := elem s u f f.sa (width f)
    let b := elem s u f f.sb (width f)
    let k := (f.aux.extractLsb' 0 7).toNat
    let pat := (f.aux.extractLsb' 0 4).toNat
    let done (i : Instr) (op : Nat) (g : Nat → Nat → Nat) : Prop :=
      Runs i s → portsReady op f s → rowsWritten i op clsVA u f s (width f) n (laneOn s u f (width f)) g
    done (.vbcast u f) 0x24 (fun _ _ => a (f.aux.extractLsb' 7 3).toNat k) ∧
    done (.vperm u f) 0x25 (fun j i => a j (b j i % n)) ∧
    done (.vlut u f) 0x29 (fun j i => b 0 (a j i % n)) ∧
    (f.aux.getLsbD 7 = true → done (.vrot u f) 0x27 (fun j i => a j ((i + k) % n))) ∧
    (f.aux.getLsbD 7 = false → done (.vrot u f) 0x27 (fun j i => a j (((i : Int) - k) % n).toNat)) ∧
    (pat = 0 → done (.vshuf u f) 0x26 (fun j i => if i % 2 = 0 then a j (i / 2) else b j (i / 2))) ∧
    (pat = 1 → done (.vshuf u f) 0x26 (fun j i => if i % 2 = 0 then a j (n / 2 + i / 2) else b j (n / 2 + i / 2))) ∧
    (pat = 2 → done (.vshuf u f) 0x26 (fun j i => if i < n / 2 then a j (2 * i) else b j (2 * (i - n / 2)))) ∧
    (pat = 3 → done (.vshuf u f) 0x26 (fun j i => if i < n / 2 then a j (2 * i + 1) else b j (2 * (i - n / 2) + 1))) ∧
    (pat = 4 → done (.vshuf u f) 0x26 (fun j i => a j (n - 1 - i))) ∧
    (pat = 5 → done (.vshuf u f) 0x26 (fun j i => a j (i ^^^ 1))) ∧
    (pat = 6 → done (.vshuf u f) 0x26 (fun j i => a (i % 8) (8 * (i / 8) + j)))

/-- R176 and R178: VIOTA numbers the elements (as an SC8 code the spec states no number, so the value there is free, log 27);
VPACK narrows two rows into one, VUNPK widens half a row. -/
def Sys2Proof.Claim.NumberAndPack : Prop :=
  (∀ (u : Unit2) (f : FV) (s : State), Runs (.viota u f) s → portsReady 0x28 f s →
    let num (j i : Nat) : Nat := if f.aux.getLsbD 0 then j * f.elems + i else i
    (f.fmt ≠ 12 → rowsWritten (.viota u f) 0x28 clsVA u f s (width f) f.elems (laneOn s u f (width f)) fun j i =>
      if isFloat (fm f) then flt f (.fin false (num j i) 1) else num j i) ∧
    (f.fmt = 12 → ∃ l g, rowsAre 8 f.elems (laneOn s u f 8) g l ∧
      exec (.viota u f) s = .next (portsAdvanced 0x28 f ((s.noteRead (.viota u f)).used.putRows clsVA (isW u) f.dst l)))) ∧
  (∀ (u : Unit2) (f : FV) (s : State), Runs (.vpack u f) s → portsReady 0x2A f s →
    let h := width f / 2
    let narrow (c : Nat) : Nat := if f.aux.getLsbD 0 then wrap h (clampI (fm f - 2) (decI' (fm f) c)) else c % 2 ^ h
    rowsWritten (.vpack u f) 0x2A clsVA u f s h (2 * f.elems) (laneOn s u f h) fun j k =>
      if k < f.elems then narrow (elem s u f f.sa (width f) j k) else narrow (elem s u f f.sb (width f) j (k - f.elems))) ∧
  ∀ (u : Unit2) (f : FV) (s : State), Runs (.vunpk u f) s → portsReady 0x2B f s →
    let h := width f / 2
    rowsWritten (.vunpk u f) 0x2B clsVA u f s (width f) f.elems (laneOn s u f (width f)) fun j k =>
      let c := BitVec.ofNat h (elemAs s u f f.sa (fm f - 2) h j ((if f.aux.getLsbD 0 then f.elems else 0) + k))
      if isSigned (fm f) then (c.signExtend (width f)).toNat else c.toNat

/-- R132, R179: a reduction combines the enabled elements of each row by the tree, the rows in row order, in FP32 or 32 bits, and
writes bits 31:0 of row 0, or with PERROW of every row, a NaN as the canonical one (R124), and nothing else. -/
def Sys2Proof.Claim.ReductionResults : Prop :=
  ∀ e ∈ reductionOps, ∀ (u : Unit2) (f : FV) (s : State), Runs (e.1 u f) s → portsReady e.2.1 f s →
    let input (j i : Nat) : Option Nat := if i < f.elems ∧ laneOn s u f (width f) i then some (widened f (elem s u f f.sa (width f) j i)) else none
    let row (j : Nat) : Option Nat := treeOf (e.2.2.1 f) 7 (input j)
    let out (x : Nat) : Nat := if isFloat (fm f) && (decF 0 x).isNaN then 0x7FC00000 else x
    ∃ l : Rows, l.length = 8 ∧ exec (e.1 u f) s = .next (portsAdvanced e.2.1 f ((s.noteRead (e.1 u f)).putRows clsVR (isW u) f.dst l)) ∧
      (f.aux.getLsbD 0 = true → ∀ j, j < 8 → rowIs 32 1 (fun _ => true) (fun _ => out ((row j).getD (e.2.2.2 f))) (l.getD j (0, 0))) ∧
      (f.aux.getLsbD 0 = false →
        rowIs 32 1 (fun _ => true) (fun _ => out ((inRowOrder (e.2.2.1 f) ((List.range 8).map row)).getD (e.2.2.2 f))) (l.getD 0 (0, 0)) ∧
        ∀ j, 1 ≤ j → j < 8 → (l.getD j (0, 0)).2 = 0)

/-- R180, R181: VSTAT adds the tree sums of the enabled elements and of their exact squares, and their number, to the statistics
row of each row with PERROW, of row 0 over the whole group without; where nothing is enabled the row is as it was. VNORM gives
mean, 1/√(max(dv, +0) + ε) and dv, and writes those of the three words whose lanes are enabled (R103, R164). Only bits 95:0 of the
rows are written. -/
def Sys2Proof.Claim.StatisticsResults : Prop :=
  (∀ (u : Unit2) (f : FV) (s : State), Runs (.vstat u f) s → portsReady 0x2F f s →
    let mode := f.rnd.toNat
    let add (a b : Val) : Val := rnd32 mode (a.add mode b)
    let on (i : Nat) : Bool := decide (i < f.elems) && laneOn s u f (width f) i
    let n := ((List.range f.elems).filter on).length
    let x (j i : Nat) : Val := val f (elem s u f f.sa (width f) j i)
    let c (j k : Nat) : Nat := statWord s u f f.sc j k
    let t (j : Nat) : Option Val := treeOf add 7 fun i => if on i then some (x j i) else none
    let q (j : Nat) : Option Val := treeOf add 7 fun i => if on i then some ((x j i).mul (x j i)) else none
    let updated (c0 c1 c2 : Nat) (t q : Option Val) (n : Nat) (r : Row × Row) : Prop :=
      r.2 = BitVec.ofNat 1024 (2 ^ 96 - 1) ∧ (r.1.extractLsb' 64 32).toNat = (c2 + n) % 2 ^ 32 ∧
        (∀ v, t = some v → (r.1.extractLsb' 0 32).toNat = roundF 0 mode ((decF 0 c0).add mode v)) ∧
        (∀ v, q = some v → (r.1.extractLsb' 32 32).toNat = roundF 0 mode ((decF 0 c1).add mode v)) ∧
        (t = none → (r.1.extractLsb' 0 32).toNat = c0 ∧ (r.1.extractLsb' 32 32).toNat = c1)
    ∃ l : Rows, l.length = 8 ∧ exec (.vstat u f) s = .next (portsAdvanced 0x2F f ((s.noteRead (.vstat u f)).putRows clsVR (isW u) f.dst l)) ∧
      (f.aux.getLsbD 0 = true → ∀ j, j < 8 → updated (c j 0) (c j 1) (c j 2) (t j) (q j) n (l.getD j (0, 0))) ∧
      (f.aux.getLsbD 0 = false → updated (c 0 0) (c 0 1) (c 0 2) (inRowOrder add ((List.range 8).map t))
          (inRowOrder add ((List.range 8).map q)) (8 * n) (l.getD 0 (0, 0)) ∧
        ∀ j, 1 ≤ j → j < 8 → (l.getD j (0, 0)).2 = 0)) ∧
  ∀ (u : Unit2) (f : FV) (s : State), Runs (.vnorm u f) s → portsReady 0x30 f s →
    let x (j k : Nat) : Nat := statWord s u f f.sa j k
    let cnt (j : Nat) : Val := .fin false (x j 2) 1
    let quo (j k : Nat) : Val := if x j 2 = 0 then .nan else rne32 ((decF 0 (x j k)).div (cnt j))
    let dv (j : Nat) : Val := rne32 ((quo j 1).sub 0 ((quo j 0).mul (quo j 0)))
    let arg (j : Nat) : Val := rne32 (((dv j).max (.fin false 0 1)).add 0 (decF 0 (elem s u f f.sb 32 j 0)))
    ∃ l : Rows, l.length = 8 ∧ exec (.vnorm u f) s = .next (portsAdvanced 0x30 f ((s.noteRead (.vnorm u f)).putRows clsVR (isW u) f.dst l)) ∧
      ∀ j, j < 8 → (f.aux.getLsbD 0 = true ∨ j = 0 →
          (∀ k, k < 1024 → (l.getD j (0, 0)).2.getLsbD k = (decide (k < 96) && laneOn s u f 32 (k / 32))) ∧
          ((l.getD j (0, 0)).1.extractLsb' 0 32).toNat = roundF 0 0 (quo j 0) ∧
          ((l.getD j (0, 0)).1.extractLsb' 32 32).toNat = roundF 0 0 (rne32 (invSqrt (arg j))) ∧
          ((l.getD j (0, 0)).1.extractLsb' 64 32).toNat = roundF 0 0 (dv j)) ∧
        (f.aux.getLsbD 0 = false → j ≠ 0 → (l.getD j (0, 0)).2 = 0)

/-- R182 to R184: VTOPK keeps the K highest-ranked enabled elements of each group bit for bit and writes +0 to the other enabled
ones; VSORT gives a stable order of each segment, payloads with their keys; VSEGSUM puts the runs of equal keys first and fills
up with key all ones and value 0. -/
def Obligations.SortingResults : Prop :=
  (∀ (u : Unit2) (f : FV) (s : State), Runs (.vtopk u f) s → portsReady 0x31 f s →
    let g := 2 ^ ((f.aux.extractLsb' 0 3).toNat + 3)
    let k := (f.aux.extractLsb' 3 7).toNat
    let x (j i : Nat) : Nat := elem s u f f.sa (width f) j i
    rowsWritten (.vtopk u f) 0x31 clsVR u f s (width f) f.elems (laneOn s u f (width f)) fun j i =>
      if ((List.range g).filter fun t => laneOn s u f (width f) (i / g * g + t) && ranksAbove f (x j) (i / g * g + t) i).length < k
      then x j i else 0) ∧
  (∀ (u : Unit2) (f : FV) (s : State), Runs (.vsort u f) s → portsReady 0x32 f s →
    let g := 2 ^ ((f.aux.extractLsb' 1 3).toNat + 1)
    ∃ (k p : Nat → Nat → Nat) (lk lp : Rows), rowsAre (width f) f.elems (fun _ => true) k lk ∧ rowsAre (width f) f.elems (fun _ => true) p lp ∧
      exec (.vsort u f) s = .next (portsAdvanced 0x32 f ((s.noteRead (.vsort u f)).putPair clsVR (isW u) f.dst lk lp)) ∧
      ∀ j q, j < 8 → q < f.elems / g → ∃ π : List Nat, π.Perm (List.range g) ∧
        (∀ t, t < g → k j (q * g + t) = elem s u f f.sa (width f) j (q * g + π.getD t 0) ∧
          p j (q * g + t) = elem s u f f.sb (width f) j (q * g + π.getD t 0)) ∧
        ∀ t v, t < v → v < g →
          let a := k j (q * g + t)
          let b := k j (q * g + v)
          let above := if f.aux.getLsbD 0 then sortsBelow f a b else sortsBelow f b a
          let below := if f.aux.getLsbD 0 then sortsBelow f b a else sortsBelow f a b
          above = false ∧ (below = false → π.getD t 0 < π.getD v 0)) ∧
  ∀ (u : Unit2) (f : FV) (s : State), Runs (.vsegsum u f) s → portsReady 0x33 f s →
    let x (j i : Nat) : Nat := elem s u f f.sa (width f) j i
    let y (j i : Nat) : Nat := elem s u f f.sb (width f) j i
    let add (a b : Nat) : Nat := if isFloat (fm f) then flt f ((val f a).add f.rnd.toNat (val f b)) else (a + b) % 2 ^ width f
    let starts (j : Nat) : List Nat := (List.range f.elems).filter fun i => i == 0 || x j i != x j (i - 1)
    ∃ (v k : Nat → Nat → Nat) (lv lk : Rows), rowsAre (width f) f.elems (fun _ => true) v lv ∧ rowsAre (width f) f.elems (fun _ => true) k lk ∧
      exec (.vsegsum u f) s = .next (portsAdvanced 0x33 f ((s.noteRead (.vsegsum u f)).putPair clsVR (isW u) f.dst lv lk)) ∧
      ∀ j, j < 8 → (∀ m, m < (starts j).length → k j m = x j ((starts j).getD m 0)) ∧
        (∀ m, (starts j).length ≤ m → m < f.elems → k j m = 2 ^ width f - 1 ∧ v j m = 0) ∧
        ∀ m, m < (starts j).length →
          let first := (starts j).getD m 0
          v j m = (List.range ((starts j).getD (m + 1) f.elems - first - 1)).foldl (fun acc t => add acc (y j (first + 1 + t))) (y j first)

/-- R185 to R187: mask logic on the bits that WID names, VMSET, VMPOP, VSETROW and VXFER. -/
def Obligations.MasksAndRows : Prop :=
  ∀ (u : Unit2) (f : FV) (s : State),
    let md := (f.aux.extractLsb' 0 3).toNat
    let ma := s.rd.core.lanes (isW u) (f.aux.extractLsb' 3 3).toNat
    let mb := s.rd.core.lanes (isW u) (f.aux.extractLsb' 6 3).toNat
    let wide : Lanes := BitVec.ofNat 128 (2 ^ (widBits f.wid / 8) - 1)
    let logic (i : Instr) (op : Nat) (v : Lanes) : Prop := Runs i s → portsReady op f s →
      exec i s = .next ((s.noteRead i).putLanes (isW u) md v wide)
    logic (.vmand u f) 0x34 (ma &&& mb) ∧ logic (.vmor u f) 0x35 (ma ||| mb) ∧ logic (.vmxor u f) 0x36 (ma ^^^ mb) ∧
    logic (.vmnot u f) 0x37 (~~~ma) ∧
    (Runs (.vmset u f) s → portsReady 0x38 f s → ∃ v : Lanes,
      lanesAre (width f) f.elems (fun _ => true) (fun i => elem s u f f.sa (width f) (f.aux.extractLsb' 6 3).toNat i != 0) v wide ∧
      exec (.vmset u f) s = .next (portsAdvanced 0x38 f ((s.noteRead (.vmset u f)).putLanes (isW u) md v wide))) ∧
    (Runs (.vmpop u f) s → portsReady 0x39 f s →
      rowsWritten (.vmpop u f) 0x39 clsVA u f s 32 1 (fun _ => true) fun _ _ => (ma &&& wide).cpop.toNat) ∧
    (Runs (.vxfer u f) s → portsReady 0x3A f s → f.sa.toNat < 64 →
      rowsWritten (.vxfer u f) 0x3A clsXC u f s (width f) f.elems (laneOn s u f (width f)) fun j i =>
        ((s.rd.core.tileRow (!isW u) (s.rd.core.physTile (!isW u) f.sa.toNat) (s.rd.core.rowCtr (!isW u) + j)).extractLsb'
          (width f * i) (width f)).toNat) ∧
    (Runs (.vsetrow u f) s → portsReady 0x3B f s →
      let new (old : BitVec 8) : BitVec 8 := if (f.aux.extractLsb' 8 2).toNat = 0 then f.aux.setWidth 8 else old + f.aux.setWidth 8
      exec (.vsetrow u f) s = .next ((s.noteRead (.vsetrow u f)).setCore fun c =>
        if isW u then { c with wrow := new s.rd.core.wrow } else { c with vrow := new s.rd.core.vrow }))

/-- R55, R101, R107, R163: what an operand supplies. A register gives row (row counter + j) mod 256 of its file; an immediate its
value in every element; a port the rows of its row group from the own scratchpad. -/
def Sys2Proof.Claim.VectorOperands : Prop :=
  ∀ (u : Unit2) (f : FV) (s : State) (sel : BitVec 8) (b j i : Nat), j < 8 → i < widBits f.wid / b → (b = 8 ∨ b = 16 ∨ b = 32) →
    (sel.toNat < 64 → elem s u f sel b j i = ((s.rd.core.tileRow (isW u) (s.rd.core.physTile (isW u) sel.toNat)
      ((s.rd.core.rowCtr (isW u) + j) % 256)).extractLsb' (b * i) b).toNat) ∧
    (128 ≤ sel.toNat → b = width f → fm f ≤ 12 → fm f ≠ 11 → elem s u f sel b j i = immCode (fm f) (sel.toNat - 128)) ∧
    (64 ≤ sel.toNat → sel.toNat < 72 →
      elem s u f sel b j i = bytesNat (cellsRead s.rd.quad.sp
        (s.rd.core.rank * 2 ^ 26 + (s.rd.core.portRow (sel.toNat - 64) j).toNat + b / 8 * i) (b / 8)))

/-- R67, R68, R101, R164: a destination row group bound at issue. Under a latency of 2 or more it is one entry of the running
level's bank; when the entry lands, the bits that it names of the eight rows under the row counter at issue take its values,
and every other row of the file, and every other file, is as it was. -/
def Sys2Proof.Claim.RowGroupsLand : Prop :=
  ∀ (s : State) (cls : Nat) (w : Bool) (sel : BitVec 8) (l : Rows), l.length = 8 → sel.toNat < 64 → 2 ≤ s.cur.core.latency cls →
    ∃ e : Pending, (s.putRows cls w sel l).cur.core.bank s.cur.core.tlevel = s.cur.core.bank s.cur.core.tlevel ++ [e] ∧
      e.count = s.cur.core.latency cls - 1 ∧ e.cls = cls ∧ (s.putRows cls w sel l).cur.core.v = s.cur.core.v ∧
      (s.putRows cls w sel l).cur.core.w = s.cur.core.w ∧
      ∀ m : Mach, spWf 0 m.core.v = true → spWf 0 m.core.w = true →
        let p := s.rd.core.physTile w sel.toNat
        let base := s.rd.core.rowCtr w
        (∀ j, j < 8 → (landAll m e.writes).core.tileRow w p ((base + j) % 256) =
          mergeRow (m.core.tileRow w p ((base + j) % 256)) (l.getD j (0, 0)).1 (l.getD j (0, 0)).2) ∧
        (∀ q r, r < 256 → (q ≠ p ∨ ∀ j, j < 8 → r ≠ (base + j) % 256) → (landAll m e.writes).core.tileRow w q r = m.core.tileRow w q r) ∧
        (landAll m e.writes).core.s = m.core.s ∧ (landAll m e.writes).core.tile (!w) = m.core.tile (!w) ∧
        (landAll m e.writes).mem = m.mem ∧ (landAll m e.writes).quad = m.quad

/-- R188, R189: LDSC and LDSCB fill a c register from the own scratchpad, 128 bytes or 32 repeated, as an exposed result of
class LS; a misaligned address raises 0x30, one outside the own range 0x36, and nothing is loaded. Here with no store queued.
The order of the checks is the model's reading (log 34). -/
def Sys2Proof.Claim.ScaleLoads : Prop :=
  ∀ (f : FLS) (s : State) (i : Instr) (n : Nat), (i = .ldsc f ∧ n = 128) ∨ (i = .ldscb f ∧ n = 32) → Runs i s →
    let a := s.reg f.ra + f.off.signExtend 64 * 128
    let own := qbase + s.rd.core.rank * 2 ^ 26
    let key := a.toNat - qbase
    (a.toNat % n ≠ 0 → exec i s = .next ((s.noteRead i).raise 0x30 a)) ∧
    (a.toNat % n = 0 → a.toNat < own ∨ own + 2 ^ 26 ≤ a.toNat ∨ s.rd.quad.inRange key = false →
      exec i s = .next ((s.noteRead i).raise 0x36 a)) ∧
    (a.toNat % n = 0 → own ≤ a.toNat → a.toNat < own + 2 ^ 26 → s.rd.quad.inRange key = true → s.rd.quad.isPending key = false →
      s.rd.quad.poisoned key n = false → s.rd.core.fenced = false → s.rd.core.padOverdue key n = false →
      (∀ o ∈ s.rd.core.stores, o.pad = false) →
      ∃ r : Row, (∀ k, k < 128 → r.extractLsb' (8 * k) 8 = padByte s.rd (key + k % n)) ∧
        exec i s = .next ((s.noteRead i).expose clsLS 5 f.cd.toNat [⟨.c f.cd.toNat, r⟩]))

/-- t differs from s at most in what a vector slot may change: the vector and X files, their lane masks and row counters, the
port indices, the unread tokens, the banks, the quad's scratchpads, which loads may still be performed again and the count of free
values: no S register, no other special register, no accumulator, no exception register, no byte of memory. -/
def Sys2Proof.Claim.onlyVector (s t : State) : Prop :=
  ∃ c n, t = { s with cur := { s.cur with core := c, quad := t.cur.quad }, freeIdx := n } ∧
    { c with
      v := s.cur.core.v, w := s.cur.core.w, x := s.cur.core.x, vm := s.cur.core.vm, wm := s.cur.core.wm, vrow := s.cur.core.vrow,
      wrow := s.cur.core.wrow, pidx := s.cur.core.pidx, unread := s.cur.core.unread, bank0 := s.cur.core.bank0,
      bank1 := s.cur.core.bank1, bank2 := s.cur.core.bank2, sb := s.cur.core.sb } = s.cur.core ∧
    c.settleLoads.sb = s.cur.core.settleLoads.sb

/-- The frame of the V and X slots (R29, R101 to R103, R107, R108, R163, R164): where an instruction of V0 or V1 neither faults
nor waits, the other unit's files, the x file, every register other than its destination (two for VSORT and VSEGSUM), every lane
mask other than its destination, and every scratchpad byte outside the rows of its push are as they were; an instruction of X
stores nothing. -/
def Sys2Proof.Claim.VectorFrame : Prop :=
  ∀ (i : Instr) (s t : State), Runs i s → exec i s = .next t → t.verdict ≠ .done →
    s.cur.core.filesWf → Memory.wf s.cur.quad.sp = true →
    (∀ op u f, view i = .v op u f →
      t.verdict = .stall ∨ onlyVector s t ∧ t.cur.core.x = s.cur.core.x ∧ t.cur.core.tile (!isW u) = s.cur.core.tile (!isW u) ∧
        (if isW u then t.cur.core.vm = s.cur.core.vm ∧ t.cur.core.vrow = s.cur.core.vrow
          else t.cur.core.wm = s.cur.core.wm ∧ t.cur.core.wrow = s.cur.core.wrow) ∧
        ((usesSel op f).1 = true → t.cur.core.vm = s.cur.core.vm ∧ t.cur.core.wm = s.cur.core.wm) ∧
        (∀ r, r ≠ f.aux.toNat % 8 → t.cur.core.lanes (isW u) r = s.cur.core.lanes (isW u) r) ∧
        (op ≠ 0x3B → t.cur.core.vrow = s.cur.core.vrow ∧ t.cur.core.wrow = s.cur.core.wrow) ∧
        (∀ q r, q ≠ s.rd.core.physTile (isW u) f.dst.toNat →
          ((op = 0x32 ∨ op = 0x33) → q ≠ s.rd.core.physTile (isW u) (f.dst.toNat + 1)) →
          t.cur.core.tileRow (isW u) q r = s.cur.core.tileRow (isW u) q r) ∧
        (popsOf op f ++ pushOf op f = [] → t.cur.core.pidx = s.cur.core.pidx) ∧
        (pushOf op f = [] → t.cur.quad = s.cur.quad ∧ t.cur.core.sb = s.cur.core.sb) ∧
        ∀ p ∈ pushOf op f, ∀ k, (∀ j, j < 8 →
            let a := s.cur.core.rank * 2 ^ 26 + (s.rd.core.portRow p j).toNat
            k < a ∨ a + widBits f.wid / 8 ≤ k) → padByte t.cur k = padByte s.cur k) ∧
    ∀ op f, view i = .x op f →
      onlyVector s t ∧ t.cur.quad = s.cur.quad ∧ t.cur.core.sb = s.cur.core.sb ∧ t.cur.core.vm = s.cur.core.vm ∧ t.cur.core.wm = s.cur.core.wm ∧
        t.cur.core.vrow = s.cur.core.vrow ∧ t.cur.core.wrow = s.cur.core.wrow ∧ t.cur.core.pidx = s.cur.core.pidx ∧
        (op = 0 → t.cur.core.v = s.cur.core.v ∧ t.cur.core.w = s.cur.core.w) ∧
        (op = 1 → f.aux.toNat % 2 = 1 → t.cur.core.x = s.cur.core.x)

namespace Sys2Proof.Claim

/-- XFN and its aliases (R190, R191). -/
def specialFunctions : List (FV → Instr) :=
  [.xfn, .xexp2, .xlog2, .xrcp, .xrsqrt, .xsqrt, .xtanh, .xsigm, .xgelu, .xerf, .xsin, .xcos, .xexp, .xsilu, .xsoftplus]

/-- The special values of R196 as FP32 codes: index, x, F(x). -/
def specialValues : List (Nat × Nat × Nat) :=
  let (pz, nz, one, pinf, ninf, nan) := (0, 0x80000000, 0x3F800000, 0x7F800000, 0xFF800000, 0x7FC00000)
  [(0, ninf, pz), (0, pinf, pinf), (11, pz, one), (11, nz, one), (11, ninf, pz), (1, pz, ninf), (1, nz, ninf), (1, pinf, pinf),
   (1, ninf, nan), (2, pz, pinf), (2, nz, ninf), (2, pinf, pz), (2, ninf, nz), (3, pz, pinf), (3, nz, ninf), (3, pinf, pz),
   (3, ninf, nan), (4, pz, pz), (4, nz, nz), (4, pinf, pinf), (4, ninf, nan), (5, pz, pz), (5, nz, nz), (5, pinf, one),
   (5, ninf, 0xBF800000), (8, pz, pz), (8, nz, nz), (8, pinf, one), (8, ninf, 0xBF800000), (6, pz, 0x3F000000),
   (6, nz, 0x3F000000), (6, ninf, pz), (6, pinf, one), (7, pz, pz), (7, nz, nz), (7, ninf, nz), (7, pinf, pinf), (12, pz, pz),
   (12, nz, nz), (12, ninf, nz), (12, pinf, pinf), (13, ninf, pz), (13, pinf, pinf), (9, pz, pz), (9, nz, nz), (9, pinf, nan),
   (9, ninf, nan), (10, pz, one), (10, nz, one), (10, pinf, nan), (10, ninf, nan)]

/-- r is an FP32 result of function idx on the FP32 code x, no NaN: the special values and exact cases of R196, the correctly
rounded XRCP and XSQRT, else a code within the bound of R196 or the code nearest to f(x). -/
def inBound (idx x r : Nat) : Prop :=
  let v := decF 0 x
  let y := if idx = 3 then invSqrt v else realFn idx v
  let one := Val.fin false 1 1
  (∀ e ∈ specialValues, e.1 = idx → e.2.1 = x → r = e.2.2) ∧
    (idx = 2 → r = roundF 0 0 (one.div v)) ∧ (idx = 4 → r = roundF 0 0 v.sqrt) ∧
    (∀ k : Int, -149 ≤ k → k ≤ 127 → idx = 0 → v.eq (Val.ofInt k) = true → r = roundF 0 0 (one.scale k)) ∧
    (∀ k : Int, idx = 1 → v.eq (one.scale k) = true → r = roundF 0 0 (Val.ofInt k)) ∧
    (∀ k : Int, idx = 3 → v.eq (one.scale (2 * k)) = true → r = roundF 0 0 (one.scale (-k))) ∧
    (exactFn idx x = none → keepsBound idx v y r = true ∨ r = roundF 0 0 y)

/-- The elements of XFN's source: an x register, or an immediate. -/
def xElem (s : State) (f : FV) (j i : Nat) : Nat :=
  if f.sa.toNat < 128 then ((s.rd.core.xRow (f.sa.toNat % 16) j).extractLsb' (width f * i) (width f)).toNat
  else elem s .v0 f f.sa (width f) j i

/-- An x register takes the bits that `l` names, of its eight rows, under class XF or XC. -/
def State.putX (s : State) (cls d : Nat) (l : Rows) : State :=
  s.expose cls 3 d (((List.range 8).zip l).map fun x => ⟨.x d x.1 x.2.2, x.2.1⟩)

end Sys2Proof.Claim

/-! ## The X slot (09_special_functions.md) -/

/-- R190 to R194, R196, R198: XFN under every name. A NaN gives the canonical NaN of FMT; another element, widened to FP32, an
FP32 value within the bound, rounded once to FMT; a user index runs the kernel's micro-program, or raises 0x08 where the kernel
has none. Which code within the bound is free (log 12), and the K of a NaN is a free function of its step (log 28). -/
def Obligations.SpecialFunctions : Prop :=
  ∀ i ∈ specialFunctions, ∀ (f : FV) (s : State), Runs (i f) s → fm f ≤ 2 → f.wid.toNat ≤ 2 →
    let idx := f.aux.toNat % 32
    let d := f.dst.toNat % 16
    let x j k := convert (fm f) 0 0 false (xElem s f j k)
    let out (g : Nat → Nat → Nat) (l : Rows) : Prop := rowsAre (width f) f.elems (laneOn s .v0 f (width f)) g l ∧
      ∀ j k, j < 8 → k < f.elems → (val f (xElem s f j k)).isNaN = true → g j k = canonNaN (fm f)
    (idx < 14 → ∃ l g, out g l ∧ exec (i f) s = .next (State.putX (s.noteRead (i f)) clsXF d l) ∧
      ∀ j k, j < 8 → k < f.elems → (val f (xElem s f j k)).isNaN = false →
        ∃ r, inBound idx (x j k) r ∧ g j k = roundF (fm f) 0 (decF 0 r)) ∧
    (16 ≤ idx → s.rd.core.userX idx = none → exec (i f) s = .next ((s.noteRead (i f)).raise 0x08 (BitVec.ofNat 64 idx))) ∧
    ∀ p, 16 ≤ idx → s.rd.core.userX idx = some p →
      ∃ l g, out g l ∧ exec (i f) s = .next (State.putX (s.noteRead (i f)) clsXF d l) ∧
        ∀ j k, j < 8 → k < f.elems → (val f (xElem s f j k)).isNaN = false →
          g j k = roundF (fm f) f.rnd.toNat (userFn p (x j k))

/-- R195, R113: XMOV's four directions. In each of the eight rows the low WID bits move unchanged, and no lane mask applies. -/
def Sys2Proof.Claim.RowMoves : Prop :=
  ∀ (f : FV) (s : State), Runs (.xmov f) s →
    let c := s.rd.core
    let n := s.noteRead (.xmov f)
    let t := (f.aux.toNat / 16) % 64
    let bitsOf := widMask f.wid
    (f.aux.toNat % 4 = 0 → exec (.xmov f) s = .next (State.putX n clsXC (f.dst.toNat % 16)
      ((List.range 8).map fun j => (c.tileRow false (c.physV t) (c.vrow.toNat + j), bitsOf)))) ∧
    (f.aux.toNat % 4 = 2 → exec (.xmov f) s = .next (State.putX n clsXC (f.dst.toNat % 16)
      ((List.range 8).map fun j => (c.tileRow true (c.physW t) (c.wrow.toNat + j), bitsOf)))) ∧
    (f.aux.toNat % 4 = 1 → exec (.xmov f) s = .next (n.expose clsXC 1 (c.physV t)
      ((List.range 8).map fun j => ⟨.tile false (c.physV t) ((c.vrow.toNat + j) % 256) bitsOf, c.xRow (f.sa.toNat % 16) j⟩))) ∧
    (f.aux.toNat % 4 = 3 → exec (.xmov f) s = .next (n.expose clsXC 2 (c.physW t)
      ((List.range 8).map fun j => ⟨.tile true (c.physW t) ((c.wrow.toNat + j) % 256) bitsOf, c.xRow (f.sa.toNat % 16) j⟩)))

namespace Sys2Proof.Claim

/-- An engine instruction that issues with no check of its own: its constructor, whether it is of the D slot, the values it
reads at issue, the operations it waits for beside its token fields, and the bundle before whose accesses a join waits. -/
structure EngRow where
  ins : FE → Instr
  dq : Bool
  vals : State → FE → List Word := fun _ _ => []
  after : State → FE → Nat → Prop := fun _ _ _ => False
  left : State → FE → List (Nat × Nat) := fun _ _ => []

/-- The register that six bits of ARG name. -/
def argReg (s : State) (f : FE) (lo : Nat) : Word := s.reg (f.arg.extractLsb' lo 6)

/-- The 32 bits of a pattern or operand (R236): the literal, or the low half of a register. -/
def pattern32 (s : State) (f : FE) : Word := match f.lit with
  | some l => l.setWidth 64
  | none => ((argReg s f 5).setWidth 32).setWidth 64

/-- An incomplete engine operation of the context. -/
def incomplete (s : State) (d : Nat) : Prop := ∃ e ∈ s.rd.core.eng, e.id = d

/-- An incomplete UPD of the context. -/
def incompleteUpd (s : State) (d : Nat) : Prop := ∃ e ∈ s.rd.core.eng, e.id = d ∧ ∃ g, e.ins = .upd g

/-- M instructions (R277, R283 to R286) and D instructions (R236, R239 to R251, R311, R314). -/
def engineTable : List EngRow := [
  { ins := .fmat, dq := false }, { ins := .fmata, dq := false }, { ins := .fgradx, dq := false },
  { ins := .fgradc, dq := false }, { ins := .fupd, dq := false }, { ins := .refine, dq := false }, { ins := .clearg, dq := false },
  { ins := .gemm, dq := false }, { ins := .gemmq, dq := false }, { ins := .gemms, dq := false }, { ins := .gemmt, dq := false },
  { ins := .fgrad, dq := false }, { ins := .mplane, dq := false }, { ins := .mldc, dq := false }, { ins := .mstc, dq := false },
  { ins := .mgrid, dq := false }, { ins := .mstat, dq := false }, { ins := .dcpy, dq := true }, { ins := .dmc, dq := true },
  { ins := .dgat, dq := true }, { ins := .dsct, dq := true }, { ins := .dzero, dq := true },
  { ins := .dfill, dq := true, vals := fun s f => [pattern32 s f] }, { ins := .dpref, dq := true }, { ins := .dflush, dq := true },
  { ins := .dinv, dq := true },
  { ins := .djoin, dq := true, after := fun s f d => f.arg.getLsbD 4 = true ∧ incomplete s d,
    left := fun s _ => [(s.rd.core.now.2, 0)] },
  { ins := .tmovOpr, dq := true, vals := fun s f => [pattern32 s f] }, { ins := .tmovQnt, dq := true }, { ins := .tmovDqn, dq := true },
  { ins := .tmovLzc, dq := true }, { ins := .tmovLzd, dq := true }, { ins := .tmovCrc, dq := true }, { ins := .tmovRes, dq := true },
  { ins := .ureg, dq := true, vals := fun s f => [argReg s f 15, argReg s f 5] },
  { ins := .ufence, dq := true, after := fun s _ d => incompleteUpd s d }]

/-- The operation holds what R56, R104 and R228 bind at issue: the instruction, its token register, the operations pending on
its token fields and those of `after`, the shapes that are live after its own swap, and the m registers. -/
def bindsAt (s : State) (i : Instr) (f : FE) (dq : Bool) (vals : List Word) (after : Nat → Prop) (left : List (Nat × Nat))
    (o : EngOp) : Prop :=
  o.id = s.cur.core.engNext ∧ o.ins = i ∧ o.vals = vals ∧ o.started = false ∧ o.status = 0 ∧ o.left = left ∧
    o.tok = (if f.tokp = 0 then 0 else s.rd.core.physS f.tokp.toNat) ∧
    (∀ d, d ∈ o.deps ↔ after d ∨ ∃ e ∈ s.rd.core.eng, e.id = d ∧
      ∃ r, (r = f.toka ∨ r = f.tokb ∨ r = f.tokc) ∧ r ≠ 0 ∧ e.tok = s.rd.core.physS r.toNat) ∧
    (∀ r k, r < 4 → k < 8 → shF (o.shapes.getD r []) k =
      s.rd.core.shapeField dq ((if dq then s.rd.core.dqLive else s.rd.core.mqLive) ^^ f.swp == 1) r k) ∧
    ∀ k, k < 8 → o.ms.getD k 0 = spGet 0 s.rd.core.m k

/-- The operation is the last of the queue, and the copies that SWP exchanges are exchanged; nothing else changes. -/
def queued (s : State) (f : FE) (dq : Bool) (o : EngOp) : State := s.setCore fun k => { k with
  mqLive := if dq then k.mqLive else k.mqLive ^^ f.swp == 1
  dqLive := if dq then k.dqLive ^^ f.swp == 1 else k.dqLive
  eng := k.eng ++ [o]
  engNext := k.engNext + 1 }

/-- The queue of 32 engine commands has room. -/
def room (s : State) : Prop := s.cur.core.eng.length < 32

/-- Runs cut at the edges of sectors, as engine operations access them (R238). -/
def cuts (l : List Run) : List Run := (l.map pieces).flatten

/-- An engine operation reads the piece with no fault: of a scratchpad, or at its home by a translation at hand, with no bin to
apply first; no byte of it is poisoned (R235, R238). -/
def pieceWell (m : Mach) (r : Run) : Prop := match m.engPlace r.1 .read with
  | (.ok (.pad key), none) => m.quad.poisoned key r.2 = false
  | (.ok (.home pa leaf), none) =>
    m.mem.bins = [] ∧ (m.mem.homeRead (effComp (leafComp leaf) (pa / 128)) (pa / 128)).2 = false
  | _ => False

/-- The bytes of a piece. -/
def pieceBytes (m : Mach) (r : Run) : List Byte := match (m.engPlace r.1 .read).1 with
  | .ok (.pad key) => (List.range r.2).map fun i => padByte m (key + i)
  | .ok (.home pa leaf) => (List.range r.2).map fun i => homeByte m.mem (effComp (leafComp leaf) (pa / 128)) (pa + i)
  | .error _ => []

/-- Runs that an engine operation reads with no fault, and the bytes that it reads there, in shape order. -/
def readsWell (m : Mach) (l : List Run) : Prop := ∀ r ∈ cuts l, pieceWell m r
def bytesSeen (m : Mach) (l : List Run) : List Byte := ((cuts l).map (pieceBytes m)).flatten

end Sys2Proof.Claim

/-! ## The engine queues (11_data_movement.md, 14_matrix_slot.md, 17_update_streams.md, 21_collectives.md) -/

/-- R56, R228, R236, R246, R277, R283 to R286, R311, R314: an engine instruction goes to the end of the queue and its bundle goes
on; it stalls while the queue is full. No memory, register or array state changes before the operation runs. -/
def Obligations.EngineIssue : Prop :=
  ∀ r ∈ engineTable, ∀ (f : FE) (s : State), Runs (r.ins f) s →
    (room s → ∃ o, bindsAt s (r.ins f) f r.dq (r.vals s f) (r.after s f) (r.left s f) o ∧
      exec (r.ins f) s = .next (queued (s.noteRead (r.ins f)) f r.dq o)) ∧
    (¬room s → exec (r.ins f) s = .next (s.noteRead (r.ins f)).stall)

/-- R278, R284, R288, R309, R312, R313: MCALL of an empty index raises 0x08, MWLOAD of the window 0x21, and MWLOAD, or MCALL of an
image that reads translated memory, of a page that it may not read the translation's cause; UREL and UPD of no registered region 0x35. Else, with room in the queue, they issue as the others; UREL marks its region
releasing, and comes after the context's earlier UPDs (log 30). -/
def Sys2Proof.Claim.EngineIssueChecked : Prop :=
  ∀ (f : FE) (s : State),
    (Runs (.mcall f) s → let n := s.noteRead (.mcall f)
      let idx := (f.arg.extractLsb' 15 6).toNat
      (s.rd.core.hasRoutine idx = false → exec (.mcall f) s = .next (n.raise 0x08 (BitVec.ofNat 64 idx))) ∧
      (s.rd.core.hasRoutine idx = true →
        let w := bindPages n.rd (((n.rd.routineShapes f).map fun q => ((shRuns q).map pieces).flatten).flatten)
        let m := w.1.foldl (fun s u => s.applyUpd (some u)) n
        (∀ cause va, w.2 = .error (cause, va) → exec (.mcall f) s = .next (m.raise cause (BitVec.ofNat 64 va))) ∧
        ∀ l, w.2 = .ok l → room m → ∃ o, bindsAt s (.mcall f) f false [] (fun _ => False) [] o ∧ o.pairs = l ∧
          exec (.mcall f) s = .next (queued m f false o))) ∧
    (Runs (.mwload f) s → let n := s.noteRead (.mwload f)
      let q := (List.range 8).map (s.rd.core.shapeField false (s.rd.core.mqLive ^^ f.swp == 1) (f.arg.extractLsb' 19 2).toNat)
      let w := bindPages n.rd ((shRuns q).map pieces).flatten
      let m := w.1.foldl (fun s u => s.applyUpd (some u)) n
      (inWindow (shBase q) = true → exec (.mwload f) s = .next (n.raise 0x21 (BitVec.ofNat 64 (shBase q)))) ∧
      (inWindow (shBase q) = false →
        (∀ cause va, w.2 = .error (cause, va) → exec (.mwload f) s = .next (m.raise cause (BitVec.ofNat 64 va))) ∧
        ∀ l, w.2 = .ok l → room m → ∃ o, bindsAt s (.mwload f) f false [] (fun _ => False) [] o ∧ o.pairs = l ∧
          exec (.mwload f) s = .next (queued m f false o))) ∧
    (∀ id r, id = argReg s f 5 → s.rd.core.region? id = some r → room s → s.verdict ≠ .stall →
      (Runs (.upd f) s → ∃ o, bindsAt s (.upd f) f true [id, r.base, BitVec.ofNat 64 r.len, BitVec.ofNat 64 r.opr]
          (fun _ => False) [] o ∧ exec (.upd f) s = .next (queued (s.noteRead (.upd f)) f true o)) ∧
      (Runs (.urel f) s → ∃ o, bindsAt s (.urel f) f true [id, r.base, BitVec.ofNat 64 r.len, BitVec.ofNat 64 r.opr]
          (incompleteUpd s) [] o ∧
        exec (.urel f) s = .next ((queued (s.noteRead (.urel f)) f true o).setCore fun c =>
          { c with regions := spSet none c.regions id.toNat (some { r with releasing := true }) }))) ∧
    (s.rd.core.region? (argReg s f 5) = none →
      (Runs (.upd f) s → exec (.upd f) s = .next ((s.noteRead (.upd f)).raise 0x35 (argReg s f 5))) ∧
      (Runs (.urel f) s → exec (.urel f) s = .next ((s.noteRead (.urel f)).raise 0x35 (argReg s f 5))))

/-- R218, R219: PHASE changes SPLIT at issue and marks pending the eighths that join the scratchpad; its moves are the eighths
between the old and the new boundary of each bank, and every byte of the scratchpads stays. A field above 8 raises 0x37; a
second PHASE waits (log 35). -/
def Sys2Proof.Claim.PhaseIssue : Prop :=
  ∀ (f : FE) (s : State), Runs (.phase f) s → s.verdict = .go → spWf 0 s.cur.quad.split = true → spWf false s.cur.quad.pending = true →
    let new := argReg s f 15
    let rank := s.rd.core.rank
    let old := s.rd.quad.splitOf rank
    ((∃ b, b < 16 ∧ 8 < bankField new b) → exec (.phase f) s = .next ((s.noteRead (.phase f)).raise 0x37 new)) ∧
    ((∀ b, b < 16 → bankField new b ≤ 8) →
      ((∃ e ∈ s.rd.core.eng, ∃ g, e.ins = .phase g) → exec (.phase f) s = .next (s.noteRead (.phase f)).stall) ∧
      ((∀ e ∈ s.rd.core.eng, ∀ g, e.ins ≠ .phase g) → room s →
        ∃ t o left, exec (.phase f) s = .next t ∧ t.cur.core.eng = s.cur.core.eng ++ [o] ∧
          bindsAt s (.phase f) f true [old, new] (incomplete s) left o ∧
          (∀ k e, (e, k) ∈ left ↔ e < 128 ∧
            ((k = 0 ∧ bankField old (e / 8) ≤ e % 8 ∧ e % 8 < bankField new (e / 8)) ∨
              (k = 1 ∧ bankField new (e / 8) ≤ e % 8 ∧ e % 8 < bankField old (e / 8)))) ∧
          t.cur.quad.splitOf rank = new ∧ (∀ r, r ≠ rank → t.cur.quad.splitOf r = s.cur.quad.splitOf r) ∧
          (∀ e, e < 128 → spGet false t.cur.quad.pending (rank * 128 + e) =
            (spGet false s.cur.quad.pending (rank * 128 + e) || decide ((e, 0) ∈ left))) ∧
          t.cur.quad.sp = s.cur.quad.sp ∧ t.cur.mem = s.cur.mem))

/-- R353, R356, R357: a CSEND or CRECV takes at issue its peer, and its number among those of its kind that name the peer; the
next one of that kind for the peer has the next number, and nothing else changes. A full queue stalls it. -/
def Sys2Proof.Claim.CollectiveIssue : Prop :=
  ∀ (f : FE) (s : State), s.verdict = .go → spWf 0 s.cur.coll.sent = true → spWf 0 s.cur.coll.recvd = true →
    let x := argReg s f 9
    let key := s.rd.countKey x
    (Runs (.csend f) s → let n := spGet 0 s.rd.coll.sent key
      (room s → ∃ o l, bindsAt s (.csend f) f true [x, argReg s f 3, BitVec.ofNat 64 n] (fun _ => False) [] o ∧
        exec (.csend f) s =
          .next ((queued (s.noteRead (.csend f)) f true o).setCur fun m => { m with coll := { m.coll with sent := l } }) ∧
        spGet 0 l key = n + 1 ∧ ∀ k, k ≠ key → spGet 0 l k = spGet 0 s.cur.coll.sent k) ∧
      (¬room s → exec (.csend f) s = .next (s.noteRead (.csend f)).stall)) ∧
    ∀ i, (i = .crecvStore f ∨ i = .crecvAddw f ∨ i = .crecvAddq f) → Runs i s → let n := spGet 0 s.rd.coll.recvd key
      (room s → ∃ o l, bindsAt s i f true [x, 0, BitVec.ofNat 64 n] (fun _ => False) [] o ∧
        exec i s = .next ((queued (s.noteRead i) f true o).setCur fun m => { m with coll := { m.coll with recvd := l } }) ∧
        spGet 0 l key = n + 1 ∧ ∀ k, k ≠ key → spGet 0 l k = spGet 0 s.cur.coll.recvd k) ∧
      (¬room s → exec i s = .next (s.noteRead i).stall)

/-- R229 to R231, R41: an operation starts once all that it waits for has completed and no acquire is outstanding; it
completes with its status and INFO in the completion word of its token register; a status other than 0 leaves the register
marked, and where the operation has no token, or its token overwrites an unread fault, the fault is the context's. That its
accesses are made at its completion, and M operations one by one, is the model's choice (log 8). -/
def Sys2Proof.Claim.EngineRuns : Prop :=
  (∀ (s : State) (o : EngOp), s.cur.core.op? o.id = some o →
    (mayStart s.cur o = true → ∃ t p, exec (.engineOpStart o.id) s = .next t ∧ t.cur.core.op? o.id = some p ∧ p.started = true ∧
      p.ins = o.ins ∧ p.tok = o.tok ∧ t.cur.quad = s.cur.quad ∧ ∀ id, id ≠ o.id → t.cur.core.op? id = s.cur.core.op? id) ∧
    (mayStart s.cur o = false → exec (.engineOpStart o.id) s = .next s.used) ∧
    (mayStart s.cur o = true → o.started = false ∧ s.cur.core.fenced = false ∧ ∀ d ∈ o.deps, s.cur.core.op? d = none)) ∧
  (∀ (s : State) (o : EngOp), s.cur.core.op? o.id = some o → s.cur.core.status ≠ .idle → mayComplete s.cur o = true →
    exec (.tokenComplete (.own o.id)) s =
      .next ((endOp s o).1.setCore fun c => completeOp c o (endOp s o).2.1 (endOp s o).2.2)) ∧
  ∀ (c : Core) (o : EngOp) (status info : Nat), status < 256 → info < 2 ^ 56 → spWf 0 c.s = true → spWf none c.marks = true →
    let d := completeOp c o status info
    let word := BitVec.ofNat 64 (status * 2 ^ 56 + info)
    d.op? o.id = none ∧
    (o.tok = 0 → d.engFault = (c.engFault || decide (status ≠ 0)) ∧ d.s = c.s ∧ d.marks = c.marks) ∧
    (o.tok ≠ 0 → spGet 0 d.s o.tok = word ∧ (∀ k, k ≠ o.tok → spGet 0 d.s k = spGet 0 c.s k) ∧
      (status ≠ 0 → spGet none d.marks o.tok = some ⟨true, word⟩ ∧ o.tok ∈ d.unread) ∧
      (status = 0 → spGet none d.marks o.tok = none ∧ o.tok ∉ d.unread) ∧
      d.engFault = (c.engFault || decide (o.tok ∈ c.unread)))

/-- R213, R218, R219, R240, R315, R318, R392: what an operation waits for beside its accesses. A cache eighth drains: its sectors
leave the die L2, and no home reads otherwise for it; a scratchpad eighth's bytes go as it is released, those of a pre-empted group
that still lie there to its saved state; a DMC lands in one rank's slice and writes nothing else; a pair reaches its bin, the clocks
rise to its count, and the copies of its sector go. Which slice a line has is the model's (log 52). -/
def Sys2Proof.Claim.EngineProgress : Prop :=
  ∀ (s : State) (o : EngOp) (f : FE), s.cur.core.op? o.id = some o → o.started = true →
    let alone := ∀ e ∈ s.cur.core.eng, (∃ g, e.ins = .phase g) → e.id = o.id
    (∀ bank k, o.ins = .phase f → o.left.find? (fun k => k.2 == 0 && k.1 / 8 == bank) = some k →
      ∃ t p, exec (.phaseCacheEighthDrained o.id bank) s = .next t ∧ t.cur.core.op? o.id = some p ∧
        p = { o with left := o.left.filter (· != k) } ∧ t.cur.quad = s.cur.quad ∧
        (s.cur.mem.l2 = [] → { t.cur.mem with pads := s.cur.mem.pads } = s.cur.mem) ∧
        (∀ comp, memSound s.cur.mem comp → l2Kept s.cur.mem comp →
          ∀ sec, shown comp sec → t.cur.mem.homeRead comp sec = s.cur.mem.homeRead comp sec) ∧
        (alone → k.1 < 128 → k.1 % 8 < bankField (s.cur.quad.splitOf s.cur.core.rank) (k.1 / 8) →
          s.cur.core.num * 128 + k.1 ∈ t.cur.mem.pads ∧ (s.cur.core.num * 128 + k.1 ∉ s.cur.mem.pads → spWf none s.cur.mem.l2 = true →
            ∀ key, eighthOf (key / 8) = s.cur.core.num * 128 + k.1 → spGet none t.cur.mem.l2 key = none))) ∧
    (∀ bank k, o.ins = .phase f → o.left.find? (fun k => k.2 == 1 && k.1 / 8 == bank) = some k → Memory.wf s.cur.quad.sp = true →
      let key8 := s.cur.core.rank * 128 + k.1
      ∃ t p, exec (.phaseScratchEighthReleased o.id bank) s = .next t ∧ t.cur.core.op? o.id = some p ∧
        p = { o with left := o.left.filter (· != k) } ∧
        (s.cur.mem.l2 = [] → { t.cur.mem with pads := s.cur.mem.pads } = s.cur.mem) ∧
        (∀ a, spGet 0 t.cur.quad.sp a = if a / 2 ^ 19 = key8 then 0 else spGet 0 s.cur.quad.sp a) ∧
        (∀ (n : Nat) (v : Saved), s.cur.disp.saved[n]? = some v → key8 ∈ v.left → ∃ w : Saved, t.cur.disp.saved[n]? = some w ∧ key8 ∉ w.left ∧
          ∀ c, c ∈ w.sp ↔ c ∈ v.sp ∨ (c ∈ s.cur.quad.sp ∧ c.1 / 2 ^ 19 = key8)) ∧
        (alone → k.1 < 128 → bankField (s.cur.quad.splitOf s.cur.core.rank) (k.1 / 8) ≤ k.1 % 8 →
          s.cur.core.num * 128 + k.1 ∉ t.cur.mem.pads)) ∧
    (∀ rank, o.ins = .dmc f → (rank, 0) ∈ o.left → rank < 4 → Memory.wf s.cur.quad.sp = true →
      ∃ t p, exec (.dmcLanding o.id rank) s = .next t ∧ t.cur.core.op? o.id = some p ∧ p.left = o.left.filter (· != (rank, 0)) ∧
        o.info ≤ p.info ∧ t.cur.mem = s.cur.mem ∧
        (s.cur.peerThere rank = false → p.status = worse o.status 0x08 ∧ t.cur.quad = s.cur.quad) ∧
        ∀ a, a / 2 ^ 26 ≠ rank → spGet 0 t.cur.quad.sp a = spGet 0 s.cur.quad.sp a) ∧
    ∀ index p, o.ins = .upd f → s.cur.core.pairsOut[index]? = some (o.id, p) → spWf none s.cur.mem.l1 = true →
      spWf none s.cur.mem.rdc = true →
      let c := s.cur.core
      let mem := s.cur.mem.acceptPair c.vmid.toNat (o.vals.getD 1 0) (o.vals.getD 3 0).toNat (c.launch, c.inst, o.id) p.1 p.2.1.toNat
      let count := mem.hcOf (homeDie p.1)
      let key := ckey false (p.1 / 128)
      ∃ t q, exec (.pairAccept (.own index)) s = .next t ∧ t.cur.core.op? o.id = some q ∧ q = { o with pairs := o.pairs.erase p } ∧
        t.cur.mem.dram = mem.dram ∧ t.cur.mem.bins = mem.bins ∧ t.cur.mem.l2 = mem.l2 ∧ t.cur.mem.msc = mem.msc ∧
        count ≤ t.cur.core.ocOf (homeDie p.1) ∧ count ≤ t.cur.mem.vcOf c.die (homeDie p.1) ∧
        spGet none t.cur.mem.l1 key = none ∧ spGet none t.cur.mem.rdc key = none ∧ t.cur.quad = s.cur.quad

/-- R306, R311, R313, R315, R318: what other contexts do to the update streams. A pair of theirs joins its bin, their die's clock
rises to its count, and the followed die's RDC drops the sector where the writer is of that die; a registration makes
them a holder of the physical region; neither touches the followed context, and a registration no memory. That they come as
events is the model's (log 6). -/
def Sys2Proof.Claim.OtherWriters : Prop :=
  (∀ (s : State) (p : ExtPair),
    let mem := s.cur.mem.acceptPair p.vmid p.base p.opr (p.launch, p.inst, p.upd) p.pa p.val
    ∃ t, exec (.pairAccept (.other p)) s = .next t ∧ t.cur.core = s.cur.core ∧ t.cur.quad = s.cur.quad ∧
      t.cur.mem.dram = mem.dram ∧ t.cur.mem.bins = mem.bins ∧ t.cur.mem.l2 = mem.l2 ∧ t.cur.mem.msc = mem.msc ∧
      (spWf 0 s.cur.mem.vc = true → mem.hcOf (homeDie p.pa) ≤ t.cur.mem.vcOf p.die (homeDie p.pa)) ∧
      (p.die = s.cur.core.die → spWf none s.cur.mem.rdc = true → spGet none t.cur.mem.rdc (ckey false (p.pa / 128)) = none) ∧
      (p.die ≠ s.cur.core.die → t.cur.mem.rdc = mem.rdc)) ∧
  ∀ (s : State) (r : ExtRegion),
    ∃ t, exec (.tokenComplete (.other r)) s = .next t ∧ t.cur.core = s.cur.core ∧ t.cur.quad = s.cur.quad ∧
      (r.release = false → t.cur.mem.dram = s.cur.mem.dram ∧ t.cur.mem.bins = s.cur.mem.bins ∧
        ∃ p ∈ t.cur.mem.pregions, p.same r.vmid r.base r.len r.opr = true ∧ (r.launch, r.inst) ∈ p.holders)

/-- R351, R353, R354, R356 to R358, R362: the life of a message. A CSEND that may transmit sends its message, the bytes of its
source, and for a scaled format the scale bytes beside it, as they are then, no earlier than its start time; a message of another
endpoint is held where its CRECV waits for it or the receive store has room; the peer's module answers an own one, once frames have
carried it; a CRECV takes the message of its number. Acceptance is an event whose answer is free (log 31), and the window is the
peer's (log 43). -/
def Sys2Proof.Claim.MessageLife : Prop :=
  (∀ (s : State) (o : EngOp) (f : FE), s.cur.core.op? o.id = some o → o.ins = .csend f → maySend s.cur o f = true →
    let q := o.sh f.qs
    let scaled := f.fmt.toNat = 3 ∨ f.fmt.toNat = 4
    ∃ t g p, exec (.csendTransmit o.id) s = .next t ∧ t.cur.coll.out = s.cur.coll.out ++ [(o.id, g)] ∧
      t.cur.core.op? o.id = some p ∧ (∀ k ∈ p.left, k.1 = 1) ∧ p.info = sendBytes o f ∧
      (o.vals.getD 1 0).toNat ≤ t.cur.ftime.toNat ∧ s.cur.ftime.toNat ≤ t.cur.ftime.toNat ∧
      g.seq = (o.vals.getD 2 0).toNat ∧ g.srcEp = s.cur.core.inst ∧ g.fmt = f.fmt.toNat ∧ g.gid = s.cur.gid ∧
      g.dstEp = peerEp (o.vals.getD 0 0) ∧ g.dstPkg = peerPkg (o.vals.getD 0 0) ∧ g.dstCampus = peerCampus (o.vals.getD 0 0) ∧
      g.ch = peerCh (o.vals.getD 0 0) ∧ t.cur.quad = s.cur.quad ∧
      t.cur.coll.store = s.cur.coll.store ++ (if s.cur.toSelf (o.vals.getD 0 0) = true then [g] else []) ∧
      (readsWell s.cur (shRuns q) → (scaled → readsWell s.cur [besideRun q (shTotal q / 32)]) →
        g.data = bytesSeen s.cur (shRuns q) ∧ g.bad = [] ∧ g.badScales = [] ∧ p.status = 0 ∧
        (scaled → g.scales = bytesSeen s.cur [besideRun q (shTotal q / 32)]) ∧ (¬scaled → g.scales = []))) ∧
  (∀ (s : State) (g : Message), s.cur.ours g = false ∨ (∀ k ∈ s.cur.coll.out, k.2 ≠ { g with notice := 0 }) →
    let held := ((s.cur.coll.store.filter fun h : Message => s.cur.mem.groupDev h.gid == s.cur.mem.groupDev g.gid).map fun h : Message =>
      h.data.length + h.scales.length).sum
    let takes := held + g.data.length + g.scales.length ≤ Config.receiveStore ∨ s.cur.awaits g = true
    (s.cur.addressed g = true → takes → ∃ a, exec (.messageAccept g) s =
        .next (s.setCur fun m => { m with coll := { m.coll with store := m.coll.store ++ [a] } }) ∧ { a with stamp := g.stamp } = g ∧
      (s.cur.isHere g.srcCampus g.srcPkg = true → a.stamp = g.stamp) ∧
      (s.cur.isHere g.srcCampus g.srcPkg = false → ∀ h, h < 9 → a.stamp.getD h 0 = s.cur.mem.hcOf h)) ∧
    (s.cur.addressed g = false ∨ ¬takes → exec (.messageAccept g) s = .next s) ∧
    (s.cur.mem.groupDev g.gid = none ∨ s.cur.isHere g.dstCampus g.dstPkg = false → s.cur.addressed g = false)) ∧
  (∀ (s : State) (g : Message) (k : Nat × Message) (o : EngOp),
    s.cur.coll.out.find? (fun k => k.2 == { g with notice := 0 } && s.cur.ours k.2) = some k →
    s.cur.core.op? k.1 = some o → s.cur.toSelf (o.vals.getD 0 0) = false → earlierOn s.cur o 1 = [] →
    let told := 0x60 ≤ g.notice ∧ g.notice ≤ 0x63
    (told ∨ s.cur.carried o = true →
      ∃ t p st, exec (.messageAccept g) s = .next t ∧ t.cur.core.op? k.1 = some p ∧ p.left = [] ∧ p.status = worse o.status st ∧
        (told → st = g.notice) ∧ (¬told → st = 0 ∨ st = 0x60 ∨ st = 0x61) ∧
        (¬told → s.cur.isHere g.dstCampus g.dstPkg = true → st ≠ 0x60) ∧ (∀ e ∈ t.cur.coll.out, e.1 ≠ k.1)) ∧
    (¬told → s.cur.carried o = false → exec (.messageAccept g) s = .next s)) ∧
  ∀ (s : State) (o : EngOp) (f : FE) (hop : Nat) (g : Message), s.cur.core.op? o.id = some o → crecvFE o.ins = some (f, hop) →
    o.left = [(0, 0)] → s.cur.messageFor o = some g → (∀ e ∈ s.cur.coll.out, e.2 ≠ g) →
    let told := 0x60 ≤ g.notice ∧ g.notice ≤ 0x63
    ∃ t p, exec (.crecvMatch o.id) s = .next t ∧ t.cur.coll.store = s.cur.coll.store.erase g ∧ t.cur.core.op? o.id = some p ∧
      p.left = [] ∧ (told → p.status = g.notice ∧ p.msg = none) ∧
      (¬told → g.fmt ≠ f.fmt.toNat → p.status = 0x61 ∧ p.msg = none) ∧
      (¬told → g.fmt = f.fmt.toNat → fits o f hop (g.data.length / wireBytes g.fmt) = true → p.status = 0 ∧ p.msg = some g)

namespace Sys2Proof.Claim

/-- Runs of the scratchpads that an engine operation of the context may write, no two pieces sharing a byte (R207, R208, R219). -/
def padRuns (m : Mach) (l : List Run) : Prop :=
  (∀ r ∈ cuts l, inWindow r.1 = true ∧ m.engPlace r.1 .write = (.ok (.pad (r.1 - qbase)), none)) ∧
    (cuts l).Pairwise fun a b => a.1 + a.2 ≤ b.1 ∨ b.1 + b.2 ≤ a.1

/-- The addresses of runs, in shape order, and the scratchpad bytes there. -/
def spots (l : List Run) : List Nat := bytesOf (cuts l)
def padBytes (m : Mach) (l : List Run) : List Byte := (spots l).map fun a => padByte m (a - qbase)

/-- The scratchpad runs hold these bytes; every other byte of the scratchpads, and all that any home reads as, is as it was. -/
def onlyWrote (s t : Mach) (l : List Run) (data : List Byte) : Prop :=
  padBytes t l = data ∧ (∀ k, qbase + k ∉ spots l → padByte t k = padByte s k) ∧
    t.quad.split = s.quad.split ∧ t.quad.pending = s.quad.pending ∧ t.core.s = s.core.s ∧
    ∀ comp sec, t.mem.homeRead comp sec = s.mem.homeRead comp sec

/-- The operation ends with status 0 and this INFO, having written these bytes to the scratchpads, and of the transform station's
results at most the one named. -/
def endsBy (s : State) (o : EngOp) (info : Nat) (l : List Run) (data : List Byte) (res : Option (Nat × Nat)) : Prop :=
  ∃ t, endOp s o = (t, 0, info) ∧ onlyWrote s.cur t.cur l data ∧ t.cur.arr = s.cur.arr ∧ t.cur.core.eng = s.cur.core.eng ∧
    t.cur.core.tmRes = match res with
      | none => s.cur.core.tmRes
      | some (unit, n) => spSet 0 s.cur.core.tmRes unit (BitVec.ofNat 32 n)

/-- The shape registers that QS, QD and QX name (R236). -/
def qS (o : EngOp) (f : FE) : List (BitVec 32) := o.shapes.getD (f.arg.extractLsb' 19 2).toNat []
def qD (o : EngOp) (f : FE) : List (BitVec 32) := o.shapes.getD (f.arg.extractLsb' 17 2).toNat []
def qX (o : EngOp) (f : FE) : List (BitVec 32) := o.shapes.getD (f.arg.extractLsb' 15 2).toNat []

/-- A shape that R237 lets pass. -/
def shapeOk (q : List (BitVec 32)) : Prop := shStatus q = 0

/-- Little-endian words of bytes, and values of elements. -/
def numsOf (n : Nat) (b : List Byte) : List Nat := (groups n b).map bytesNat
def elems (fmt : Nat) (b : List Byte) : List Val := (numsOf (if fmt = 0 then 4 else 2) b).map (decF fmt)

/-- Item k of n in a list of rows of n. -/
def chunk {α : Type} (n k : Nat) (l : List α) : List α := (l.drop (n * k)).take n

/-- Row t of a table shape (R241). -/
def tableRow (q : List (BitVec 32)) (t : Nat) : Run := ((((shBase q : Int) + t * (shF q 5).toInt) % 2 ^ 64).toNat, shN0 q)

/-- The code formats of QNT and DQN, with the largest magnitude of each (R249). -/
def codeFormats : List (Nat × Nat × Nat) := [(0, 3, 448), (1, 4, 57344), (2, 5, 127)]

/-- The scale of a block (R131, R249). -/
def blockScale (big : Nat) (x : List Val) : Nat := toSc8 2 ((x.foldl (fun a v => a.max v.abs) Val.zero).div (Val.ofInt big))

/-- The slot of a compressed block, padded with zeros (R250). -/
def slotBytes (b : List Byte) : List Byte := (storeBlock b).2 ++ List.replicate (4096 - (storeBlock b).2.length) 0

/-- Sectors that a metadata byte stands for (R220, R250). -/
def sectorsOf (md : Nat) : Nat := if md = 0xFF then 0 else if md = 0 then 32 else md

/-- The runs of block k of a compressed shape, word by word. -/
def blockRuns (q : List (BitVec 32)) (k : Nat) : List Run := joinRuns ((chunk 1024 k (wordsOf (shRuns q))).map fun w => (w, 4))

/-- Bytes off to off + n of an image are these, and every other byte is as it was. -/
def onlyImage (p p' : List Host.Cell) (off : Nat) (b : List Byte) : Prop :=
  cellsRead p' off b.length = b ∧ ∀ k, k < off ∨ off + b.length ≤ k → spGet 0 p' k = spGet 0 p k

/-- A word of the gradient image, a coefficient of a plane (R272). -/
def gradWord (a : ArrState) (cell e : Nat) : Nat := bytesNat (cellsRead a.grad (48 * cell + 4 * e) 4)
def coefOf (a : ArrState) (cell e : Nat) : Nat := bytesNat (cellsRead (a.plane false) (24 * cell + 2 * e) 2)

/-- The array images are in canonical form, and nothing of them is poisoned. -/
def arrClean (a : ArrState) : Prop :=
  Memory.wf a.plane0 = true ∧ Memory.wf a.plane1 = true ∧ Memory.wf a.grad = true ∧ (∀ c ∈ a.grad, c.1 < gradSize) ∧
    a.poi0 = [] ∧ a.poi1 = [] ∧ a.poiG = []

/-- The routines that take samples (R255, R279). -/
def samplers : List (FE → Instr) :=
  [.fmat, .fmata, .fgradx, .fgradc, .fgrad, .gemm, .gemmq, .gemms, .gemmt]

end Sys2Proof.Claim

/-! ## What engine operations leave behind -/

/-- What one write of an engine operation within a sector does at the home of a translation at hand: the bytes are there, every other
byte of memory is as it was, INFO counts them, and the issuing core's and die's copies go (R213, R230, R235). -/
def Sys2Proof.Claim.EngineWritesHome : Prop :=
  ∀ (e : Eng) (a pa : Nat) (leaf : Word) (b : List Byte), inWindow a = false → e.m.engPlace a .write = (.ok (.home pa leaf), none) →
    b ≠ [] → pa % 128 + b.length ≤ 128 → e.m.mem.bins = [] → present (pa / 128 * 128) = true →
    let comp := effComp (leafComp leaf) (pa / 128)
    memSound e.m.mem comp → l2Sound e.m.mem comp → shown comp (pa / 128) → spWf none e.m.mem.l1 = true → spWf none e.m.mem.rdc = true →
    ∃ k, e.writePiece a (plain b) = k ∧ k.status = e.status ∧ k.info = e.info + b.length ∧ k.m.quad = e.m.quad ∧ k.m.arr = e.m.arr ∧
      spGet none k.m.mem.l1 (ckey comp (pa / 128)) = none ∧ spGet none k.m.mem.rdc (ckey comp (pa / 128)) = none ∧
      ∀ x, shown comp (x / 128) → homeByte k.m.mem comp x =
        if pa ≤ x ∧ x < pa + b.length then b.getD (x - pa) 0 else homeByte e.m.mem comp x

/-- R239 to R242, R247 to R251: what copies, multicasts, gathers, scatters, fills and the transform station leave in the scratchpads.
What they read is read well, of a scratchpad or of memory. -/
def Sys2Proof.Claim.DataWrites : Prop :=
  ∀ (s : State) (o : EngOp) (f : FE), Memory.wf s.cur.quad.sp = true →
    let a := qS o f
    let d := qD o f
    let src := bytesSeen s.cur (shRuns a)
    (o.ins = .dcpy f → shapeOk a → shapeOk d → shTotal a = shTotal d → readsWell s.cur (shRuns a) → padRuns s.cur (shRuns d) →
      endsBy s o (shTotal d) (shRuns d) src none) ∧
    (∀ v, (o.ins = .dzero f ∧ v = 0) ∨ (o.ins = .dfill f ∧ v = o.vals.getD 0 0) → shapeOk d → padRuns s.cur (shRuns d) →
      endsBy s o (shTotal d) (shRuns d) ((List.range (shTotal d)).map fun i => byteAt v (i % 4)) none) ∧
    (o.ins = .dmc f → shapeOk a → shAligned d = 0 → shSize d = 0 → shTotal a = shTotal d → shF d 1 = 0 →
      bits (shF d 7).toNat 3 1 = 0 → readsWell s.cur (shRuns a) → f.arg.extractLsb' 11 4 ≠ 0 → ∀ free, ∃ m p,
        startOp s.cur o free = (m, p) ∧ p.status = 0 ∧ keptStream p.pairs = plain src ∧
          ∀ r k, (r, k) ∈ p.left ↔ k = 0 ∧ r < 4 ∧ f.arg.getLsbD (11 + r) = true) ∧
    (∀ rank data, o.ins = .dmc f → s.cur.core.op? o.id = some o → o.started = true → (rank, 0) ∈ o.left →
      s.cur.peerThere rank = true → keptStream o.pairs = plain data → data.length = shTotal d → (shF d 7).getLsbD 0 = false →
      (∀ r ∈ shRunsAt (shF d 0).toNat d, 0 ≤ r.1 ∧ r.1 + r.2 ≤ 2 ^ 26) →
      let l := (shRunsAt (shF d 0).toNat d).map fun r => (qbase + rank * 2 ^ 26 + r.1.toNat, r.2)
      padRuns s.cur l → ∃ t p, exec (.dmcLanding o.id rank) s = .next t ∧ onlyWrote s.cur t.cur l data ∧
        t.cur.core.op? o.id = some p ∧ p.status = o.status ∧ p.info = o.info + data.length) ∧
    (∀ tab packed, ((o.ins = .dgat f ∧ tab = a ∧ packed = d) ∨ (o.ins = .dsct f ∧ tab = d ∧ packed = a)) →
      let n := (shF (qX o f) 3).toNat
      let list : Run := (shBase (qX o f), 4 * n)
      (shapeOk tab → shapeOk packed → (shF (qX o f) 0).toNat % 4 = 0 → (n ≠ 0 → runSide list ≠ 9) → shTotal packed = n * shN0 tab →
        readsWell s.cur [list] → ∀ free, ∃ m p, startOp s.cur o free = (m, p) ∧ p.status = 0 ∧ p.listed = true ∧
          p.indices = numsOf 4 (bytesSeen s.cur [list])) ∧
      (o.listed = true → o.status = 0 → shTotal packed = o.indices.length * shN0 tab →
        let bad := if (o.indices.all fun t => decide (t < shN1 tab)) then 0 else 0x09
        (o.ins = .dgat f → (∀ t ∈ o.indices, t < shN1 tab → readsWell s.cur [tableRow tab t]) → padRuns s.cur (shRuns d) →
          ∃ t, endOp s o = (t, bad, shTotal d) ∧ t.cur.arr = s.cur.arr ∧ onlyWrote s.cur t.cur (shRuns d)
            (o.indices.flatMap fun t =>
              if t < shN1 tab then bytesSeen s.cur [tableRow tab t] else List.replicate (shN0 tab) 0)) ∧
        (o.ins = .dsct f → readsWell s.cur (shRuns a) → (∀ t ∈ o.indices, t < shN1 tab → padRuns s.cur [tableRow tab t]) →
          ∃ t info, endOp s o = (t, bad, info) ∧ t.cur.arr = s.cur.arr ∧
            (∀ comp sec, t.cur.mem.homeRead comp sec = s.cur.mem.homeRead comp sec) ∧
            (∀ k, (∀ x ∈ o.indices, x < shN1 tab → qbase + k ∉ spots [tableRow tab x]) → padByte t.cur k = padByte s.cur k) ∧
            ∀ (pre post : List Nat) (x : Nat), o.indices = pre ++ x :: post → x < shN1 tab →
              (∀ y ∈ post, y < shN1 tab → ∀ k ∈ spots [tableRow tab x], k ∉ spots [tableRow tab y]) →
              padBytes t.cur [tableRow tab x] = chunk (shN0 tab) pre.length src))) ∧
    (o.ins = .tmovOpr f → endOp s o = (s.setCore fun c => { c with tmOpr := (o.vals.getD 0 0).setWidth 32 }, 0, 0)) ∧
    (o.ins = .tmovRes f → shapeOk d → padRuns s.cur [(shBase d, 4)] → endsBy s o 4 [(shBase d, 4)]
      ((List.range 4).map fun i => byteAt ((spGet 0 s.cur.core.tmRes (f.arg.extractLsb' 14 3).toNat).setWidth 64) i) none) ∧
    (o.ins = .tmovCrc f → shapeOk a → readsWell s.cur (shRuns a) →
      endsBy s o (crc32c s.cur.core.tmOpr src).toNat [] [] (some (4, (crc32c s.cur.core.tmOpr src).toNat))) ∧
    (∀ opn qf big, (opn, qf, big) ∈ codeFormats → (f.arg.extractLsb' 2 3).toNat = opn → shapeOk a → shapeOk d →
      f.fmt.toNat ≤ 1 → let es := if f.fmt.toNat = 0 then 4 else 2
      (o.ins = .tmovQnt f → let n := shTotal d / 32
        shTotal d = 32 * n → shTotal a = 32 * n * es → besideStatus d n = 0 → readsWell s.cur (shRuns a) →
        padRuns s.cur (shRuns d ++ [besideRun d n]) →
        let row (k : Nat) : List Val := chunk 32 k (elems f.fmt.toNat src)
        endsBy s o (33 * n) (shRuns d ++ [besideRun d n])
          (((List.range n).flatMap fun k => (row k).map fun x =>
              BitVec.ofNat 8 (roundTo qf f.rnd.toNat true (scaled x (blockScale big (row k)) true))) ++
            (List.range n).map fun k => BitVec.ofNat 8 (blockScale big (row k))) (some (0, n))) ∧
      (o.ins = .tmovDqn f → let n := shTotal a / 32
        shTotal a = 32 * n → shTotal d = 32 * n * es → besideStatus a n = 0 → readsWell s.cur (shRuns a) →
        readsWell s.cur [besideRun a n] → padRuns s.cur (shRuns d) →
        let sc := bytesSeen s.cur [besideRun a n]
        endsBy s o (shTotal d) (shRuns d)
          ((List.range n).flatMap fun k => (chunk 32 k src).flatMap fun x =>
            natBytes (roundF f.fmt.toNat f.rnd.toNat (scaled (valOf qf x.toNat) (sc.getD k 0).toNat false)) es) (some (1, n)))) ∧
    (shapeOk a → shapeOk d → shTotal a % 4096 = 0 → shTotal d = shTotal a → let n := shTotal a / 4096
      (o.ins = .tmovLzc f → besideStatus d n = 0 → readsWell s.cur (shRuns a) → padRuns s.cur (shRuns d ++ [besideRun d n]) →
        let block (k : Nat) : List Byte := chunk 4096 k src
        endsBy s o (shTotal d + n) (shRuns d ++ [besideRun d n])
          (((List.range n).flatMap fun k => slotBytes (block k)) ++ (List.range n).map fun k => BitVec.ofNat 8 (storeBlock (block k)).1)
          (some (2, ((List.range n).map fun k => sectorsOf (storeBlock (block k)).1).sum))) ∧
      (o.ins = .tmovLzd f → besideStatus a n = 0 → ∀ out : Nat → List Byte,
        (∀ k, k < n → readsWell s.cur (blockRuns a k) ∧ readsWell s.cur [((besideRun a n).1 + k, 1)] ∧
          expandBlock (bytesSeen s.cur (blockRuns a k)) (bytesNat (bytesSeen s.cur [((besideRun a n).1 + k, 1)])) = some (out k) ∧
          (out k).length = 4096) →
        padRuns s.cur (shRuns d) → endsBy s o (shTotal d) (shRuns d) ((List.range n).flatMap out) (some (3, n))))

/-- R254, R257, R266, R267, R272, R283 to R286: what loads, stores and updates of the array leave in the planes, the gradient image and
the scratchpads. Nothing of the array is poisoned here. -/
def Sys2Proof.Claim.ArrayWrites : Prop :=
  ∀ (s : State) (o : EngOp) (f : FE), Memory.wf s.cur.quad.sp = true → arrClean s.cur.arr →
    let q := qS o f
    let arr := s.cur.arr
    let src := bytesSeen s.cur (shRuns q)
    (∀ off size, (o.ins = .mldc f ∧ off = 0 ∧ size = planeSize) ∨ (o.ins = .mgrid f ∧ off = cellPart ∧ size = 2048) →
      shapeOk q → shTotal q = size → allOwn s.cur.core.rank (shRuns q) = true → readsWell s.cur (shRuns q) →
      ∃ t, endOp s o = (t, 0, size) ∧ t.cur.quad = s.cur.quad ∧ t.cur.arr.plane false = arr.plane false ∧ t.cur.arr.grad = arr.grad ∧
        t.cur.arr.active = arr.active ∧ onlyImage (arr.plane true) (t.cur.arr.plane true) off src) ∧
    (o.ins = .mwload f → shapeOk q → shTotal q = cellPart → s.cur.mem.bins = [] → (o.pairs.map fun p => p.2.2).sum = cellPart →
      (∀ p ∈ o.pairs, p.1 % 128 + p.2.2 ≤ 128 ∧ (s.cur.mem.sideRead (effComp (leafComp p.2.1) (p.1 / 128)) (p.1 / 128)).2 = false) →
      ∃ t, endOp s o = (t, 0, cellPart) ∧ t.cur.quad = s.cur.quad ∧ t.cur.arr.plane false = arr.plane false ∧
        t.cur.arr.grad = arr.grad ∧ t.cur.arr.active = arr.active ∧ onlyImage (arr.plane true) (t.cur.arr.plane true) 0
          (o.pairs.flatMap fun p => (List.range p.2.2).map fun i =>
            (s.cur.mem.sideRead (effComp (leafComp p.2.1) (p.1 / 128)) (p.1 / 128)).1.extractLsb' (8 * (p.1 % 128 + i)) 8)) ∧
    (∀ img size, ((f.arg.extractLsb' 17 2 = 2 ∧ img = arr.grad ∧ size = gradSize) ∨
        (f.arg.extractLsb' 17 2 = 1 ∧ img = arr.plane true ∧ size = planeSize) ∨
        (f.arg.extractLsb' 17 2 = 0 ∧ img = arr.plane false ∧ size = planeSize)) →
      o.ins = .mstc f → shapeOk q → shTotal q = size → allOwn s.cur.core.rank (shRuns q) = true → padRuns s.cur (shRuns q) →
      endsBy s o size (shRuns q) ((List.range size).map (spGet 0 img)) none) ∧
    (o.ins = .mplane f → ∃ t, endOp s o = (t, 0, 0) ∧ t = s.setCur fun m => { m with arr := { m.arr with active := !m.arr.active } }) ∧
    (o.ins = .clearg f → ∃ t, endOp s o = (t, 0, 0) ∧ t = s.setCur fun m => { m with arr := { m.arr with grad := [], poiG := [] } }) ∧
    (o.ins = .mstat f → ∃ info, endOp s o = (s, 0, info) ∧ (info % 2 = 1 ↔ arr.active = true) ∧
      info / 2 ^ 24 = (validRows (arr.plane false)).length ∧ info / 2 % 8 = 0 ∧
      (info / 16 % 2 = 1 ↔ badGrid (arr.plane false) = true)) ∧
    (o.ins = .fupd f → ∃ t info, endOp s o = (t, 0, info) ∧ t.cur.quad = s.cur.quad ∧ t.cur.mem = s.cur.mem ∧
      t.cur.arr.plane true = arr.plane true ∧ t.cur.arr.active = arr.active ∧
      (∀ k, cellPart ≤ k → spGet 0 (t.cur.arr.plane false) k = spGet 0 (arr.plane false) k) ∧
      ∀ cell e, cell < 16384 → e < 12 → gradWord t.cur.arr cell e = 0 ∧
        cellsRead (t.cur.arr.plane false) (24 * cell + 2 * e) 2 =
          if gradWord arr cell e = 0 then cellsRead (arr.plane false) (24 * cell + 2 * e) 2
          else natBytes (roundF 1 0 ((decF 1 (coefOf arr cell e)).add 0
            ((decF 0 ((o.ms.getD 3 0).toNat % 2 ^ 32)).mul (decF 0 (gradWord arr cell e))).neg)) 2) ∧
    (o.ins = .refine f → let p := arr.plane false
      (badGrid p = true → endOp s o = (s, 0x40, 0)) ∧
      (badGrid p = false → (∃ i ∈ validRows p, refuse (gridRec p i) ≠ 0) → ∃ st, endOp s o = (s, st, 0) ∧ (st = 0x40 ∨ st = 0x41)) ∧
      (badGrid p = false → (∀ i ∈ validRows p, refuse (gridRec p i) = 0) →
        ∃ t, endOp s o = (t, 0, (validRows p).length) ∧ t.cur.quad = s.cur.quad ∧ t.cur.mem = s.cur.mem ∧
          t.cur.arr.plane true = arr.plane true ∧ t.cur.arr.active = arr.active ∧
          ∀ i, i < 128 → let r := gridRec p i
            let p' := t.cur.arr.plane false
            (r.valid = false → cellsRead p' (cellPart + 16 * i) 16 = cellsRead p (cellPart + 16 * i) 16 ∧
              cellsRead p' (3072 * i) 3072 = cellsRead p (3072 * i) 3072) ∧
            (r.valid = true → cellsRead p' (cellPart + 16 * i) 16 = cellsRead p (cellPart + 16 * i) 4 ++
                natBytes (roundF 0 0 ((decF 0 r.invh).mul (Val.ofInt 2))) 4 ++ natBytes (roundF 0 0 ((decF 0 r.h).div (Val.ofInt 2))) 4 ++
                natBytes (r.gctl + r.g) 4 ∧
              ∀ j, j < 128 → let c := 128 * i + j
                cellsRead p' (24 * c) 24 =
                  (refineEntries r ((List.range 12).map fun e => coefOf arr c e)).flatMap (natBytes · 2) ∧
                ∀ e, e < 12 → gradWord t.cur.arr c e = 0)))

/-- R255, R257, R262 to R265, R268 to R271, R276, R279 to R281: a routine takes its samples one after another; each reads its rows,
writes its output row and adds its gradients, and touches nothing else. A row index past the shape reads zeros with status 0x09
(R276). -/
def Sys2Proof.Claim.SampleWrites : Prop :=
  (∀ (s : State) (o : EngOp) (f : FE), o.ins ∈ samplers.map (· f) →
    let p := s.cur.arr.plane false
    let st := worse (preStreams s.cur.core.rank o f) (if isSpline f.ridx ∧ badGrid p then 0x40 else 0)
    (st ≠ 0 → endOp s o = (s, st, 0)) ∧
    (st = 0 → arrClean s.cur.arr → ∃ e, endOp s o = ({ s with cur := e.m }, e.status, sampleCount o f) ∧
      e = (List.range (sampleCount o f)).foldl (sample o f []) ⟨s.cur, o.status, 0⟩)) ∧
  ∀ (o : EngOp) (f : FE) (e : Eng) (n : Nat), f.ridx ≤ 3 ∨ (7 ≤ f.ridx ∧ f.ridx ≤ 11) → Memory.wf e.m.quad.sp = true →
    let st := streamsOf f.ridx f.fmt.toNat
    let r := if f.gath then (o.pairs.getD n (0, 0, 0)).1 else n
    let inX := r < (shF (o.sh 0) 3).toNat
    let byBlocks := f.ridx = 8 ∧ f.fmt.toNat ≠ 5
    let xRun := rowRunOf (o.sh 0) r st.x
    let gRun := rowRunOf (o.sh 2) (if byBlocks then r else n) (st.g.getD 0)
    let outRun := rowRunOf (o.sh 1) n (st.out.getD 0)
    let adds := f.ridx = 1 ∨ f.arg.getLsbD 14 = true
    let p := e.m.arr.plane false
    let x := if inX then bytesSeen e.m [xRun] else List.replicate st.x 0
    let g := if st.g.isSome ∧ (byBlocks → inX) then bytesSeen e.m [gRun] else []
    let start := if adds then numsOf 4 (bytesSeen e.m [outRun]) else List.replicate (st.out.getD 0 / 4) 0
    (inX → readsWell e.m [xRun]) → (st.g.isSome → (byBlocks → inX) → readsWell e.m [gRun]) → (st.out.isSome → adds → readsWell e.m [outRun]) →
    (st.out.isSome → padRuns e.m [outRun]) →
    ∃ k, sample o f [] e n = k ∧ k.status = (if inX then e.status else worse e.status 0x09) ∧
      (if st.out.isSome then onlyWrote e.m k.m [outRun]
          ((sampleOut p f (o.ms.getD 2 0) (plain x) (plain g) (byBlocks ∧ ¬inX) start).flatMap (natBytes · 4))
        else k.m.quad = e.m.quad ∧ ∀ comp sec, k.m.mem.homeRead comp sec = e.m.mem.homeRead comp sec) ∧
      k.m.arr = if f.ridx = 3 ∨ f.ridx = 11 then
          { e.m.arr with grad := (validRows p).foldl (rowGrad p (valsOf f.fmt.toNat (plain x)) (valsOf f.fmt.toNat (plain g))) e.m.arr.grad }
        else e.m.arr

/-- R305, R306, R311 to R317: what the operations on update regions leave in the region table and in memory: UREG takes the lowest free
entry, UREL gives it up and applies the bins with the context's pairs, UPD sends a pair for each index that skips nothing and lies in
the region, and an entry of a bin changes its element by the operator and nothing else. -/
def Sys2Proof.Claim.RegionWrites : Prop :=
  (∀ (s : State) (o : EngOp) (f : FE) (entry : Nat), o.ins = .ureg f → spWf none s.cur.core.regions = true →
    let base := o.vals.getD 0 0
    let len := (o.vals.getD 1 0).toNat
    let opr := (f.arg.extractLsb' 0 5).toNat
    let vmid := s.cur.core.vmid.toNat
    ((∀ k, k < 256 → spGet none s.cur.core.regions k ≠ none) → endOp s o = (s, 0x50, 0)) ∧
    (entry < 256 → spGet none s.cur.core.regions entry = none → (∀ k, k < entry → spGet none s.cur.core.regions k ≠ none) →
      base.toNat % 512 = 0 → len % 512 = 0 → 512 ≤ len → len / oprEs opr ≤ 2 ^ 32 - 1 →
      (∀ va, base.toNat ≤ va → va < base.toNat + len → (va = base.toNat ∨ va % 65536 = 0) → inWindow va = false ∧ ∃ leaf pa,
        s.cur.translate vmid va .region (.die s.cur.core.die) = (.ok leaf pa, none) ∧ inHbm pa = true) →
      (∀ r ∈ s.cur.mem.pregions, r.vmid = vmid → r.same vmid base len opr = true ∨
        r.base.toNat + r.len ≤ base.toNat ∨ base.toNat + len ≤ r.base.toNat) →
      (∃ r ∈ s.cur.mem.pregions, r.same vmid base len opr = true) ∨
        (s.cur.mem.pregions.filter fun r => r.vmid == vmid).length < s.cur.mem.vdev vmid 42 2 →
      ∃ t, endOp s o = (t, 0, entry) ∧ spGet none t.cur.core.regions entry = some ⟨base, len, opr, false⟩ ∧
        (∀ k, k ≠ entry → spGet none t.cur.core.regions k = spGet none s.cur.core.regions k) ∧
        (∃ r ∈ t.cur.mem.pregions, r.same vmid base len opr = true ∧ (s.cur.core.launch, s.cur.core.inst) ∈ r.holders) ∧
        t.cur.mem.dram = s.cur.mem.dram ∧ t.cur.mem.bins = s.cur.mem.bins ∧ t.cur.quad = s.cur.quad)) ∧
  (∀ (s : State) (o : EngOp) (f : FE), o.ins = .urel f → spWf none s.cur.core.regions = true →
    let vmid := s.cur.core.vmid.toNat
    let me := (s.cur.core.launch, s.cur.core.inst)
    ∃ t n, endOp s o = (t, 0, n) ∧ spGet none t.cur.core.regions (o.vals.getD 0 0).toNat = none ∧
      (∀ b ∈ t.cur.mem.bins, b ∈ s.cur.mem.bins) ∧
      (∀ b ∈ t.cur.mem.bins, b.vmid = vmid → b.base = o.vals.getD 1 0 → b.opr = (o.vals.getD 3 0).toNat → b.ownedBy me = false) ∧
      (s.cur.mem.bins = [] → t.cur.mem.dram = s.cur.mem.dram ∧ n = 0) ∧ t.cur.quad = s.cur.quad) ∧
  (∀ (m : Mach) (o : EngOp) (base len opr n : Nat) (ia va : List Nat), readsWell m (joinRuns (ia.map fun a => (a, 1))) →
    let i := bytesNat (bytesSeen m (joinRuns (ia.map fun a => (a, 1))))
    let v := bytesNat (bytesSeen m (joinRuns (va.map fun a => (a, 1))))
    (i = 0xFFFFFFFF → (planPair base len opr (m, o) n ia va).2 = o) ∧
    (i ≠ 0xFFFFFFFF → len / oprEs opr ≤ i → (planPair base len opr (m, o) n ia va).2 = { o with status := worse o.status 0x55 }) ∧
    (i ≠ 0xFFFFFFFF → i < len / oprEs opr → readsWell m (joinRuns (va.map fun a => (a, 1))) → ∀ leaf pa,
      m.translate m.core.vmid.toNat (base + i * oprEs opr) .region (.die m.core.die) = (.ok leaf pa, none) →
      (planPair base len opr (m, o) n ia va).2 = { o with pairs := o.pairs ++ [(pa, BitVec.ofNat 64 v, n)], info := o.info + 1 })) ∧
  ∀ (b : Bin) (m : Mem) (a : Nat) (v : Word), present (a / 128 * 128) = true → memSound m false → m.l2 = [] → a % oprEs b.opr = 0 →
    (m.homeRead false (a / 128)).2 = false →
    let old := bytesNat ((List.range (oprEs b.opr)).map fun i => homeByte m false (a + i))
    ∀ x, homeByte (applyEntry b m (a, some v)) false x =
      if a ≤ x ∧ x < a + oprEs b.opr then (natBytes (combine b.opr old v.toNat) (oprEs b.opr)).getD (x - a) 0 else homeByte m false x

/-- R243 to R245: DPREF changes no content and reports no fault; DFLUSH leaves no dirty copy of the lines it names in the die L2, and
with INV no copy at all above the memory side; DINV drops the copies of its scope; no home reads otherwise for any of them. -/
def Sys2Proof.Claim.CacheOps : Prop :=
  ∀ (s : State) (o : EngOp) (f : FE), let q := qS o f
    let memory (r : Run) (pa : Nat) : Prop := ∃ leaf, s.cur.engPlace r.1 .read = (.ok (.home pa leaf), none)
    let line (key : Nat) : Prop := ∃ r ∈ cuts (shRuns q), ∃ pa, memory r pa ∧ key / 8 = pa / 512
    shapeOk q → (o.ins = .dpref f → ∃ t info, endOp s o = (t, 0, info) ∧ t.cur.quad = s.cur.quad ∧ t.cur.arr = s.cur.arr) ∧
    ∀ comp, (∀ r ∈ cuts (shRuns q), inWindow r.1 = true ∨ ∃ pa, memory r pa) → s.cur.mem.bins = [] → memSound s.cur.mem comp →
    l2Kept s.cur.mem comp → spWf none s.cur.mem.l1 = true → spWf none s.cur.mem.rdc = true →
    let same (t : State) : Prop := t.cur.quad = s.cur.quad ∧ t.cur.arr = s.cur.arr ∧
      ∀ sec, shown comp sec → t.cur.mem.homeRead comp sec = s.cur.mem.homeRead comp sec
    (o.ins = .dpref f → ∃ t, same t ∧
      endOp s o = (t, 0, (((cuts (shRuns q)).filter fun r => !inWindow r.1).map (·.2)).sum) ∧ t.cur.mem.l2 = s.cur.mem.l2 ∧ t.cur.mem.msc = s.cur.mem.msc) ∧
    (o.ins = .dflush f → ∃ t, endOp s o = (t, 0, shTotal q) ∧ same t ∧
      ∀ key c, line key → spGet none t.cur.mem.l2 key = some c → c.dirty = false ∧ f.arg.getLsbD 0 = false) ∧
    (o.ins = .dinv f → ∃ t, endOp s o = (t, 0, 0) ∧ same t ∧ ∀ key, line key → spGet none t.cur.mem.l1 key = none ∧
      (2 ≤ (f.arg.extractLsb' 0 3).toNat → spGet none t.cur.mem.rdc key = none) ∧
      (3 ≤ (f.arg.extractLsb' 0 3).toNat → spGet none t.cur.mem.l2 key = none ∧ spGet none t.cur.mem.msc key = none))

namespace Sys2Proof.Claim

/-- The value of a move's source port (R328, R330), its low 64 bits and its 512 bits. -/
def srcWord (s : State) (f : FMv) : Word := (s.rd.oas.source f).1.setWidth 64
def srcWide (s : State) (f : FMv) : BitVec 512 :=
  if (s.rd.oas.source f).2 = 64 then fromLanes fun _ => (s.rd.oas.source f).1.toNat % 2 ^ 32 else (s.rd.oas.source f).1

/-- The unit of a trigger, and an operand register of it. -/
def unitOf (f : FMv) : Nat := f.dst.toNat / 256 - 1
def operandOf (s : State) (unit reg : Nat) : BitVec 512 := spGet 0 s.cur.oas.opr (unit * 4 + reg)
def wordOperand (s : State) (unit reg : Nat) : Word := (operandOf s unit reg).setWidth 64

/-- The IALU's operations (R334), whether each names a guard, and its value from A and T. -/
noncomputable def ialuOps : List ((FMv → Instr) × Bool × (Word → Word → Word)) := [
  (.ialuAdd, false, (· + ·)), (.ialuSub, false, (· - ·)), (.ialuMul, false, (· * ·)), (.ialuAnd, false, (· &&& ·)),
  (.ialuOr, false, (· ||| ·)), (.ialuXor, false, (· ^^^ ·)), (.ialuShl, false, fun a t => a <<< (t.toNat % 64)),
  (.ialuShr, false, fun a t => a >>> (t.toNat % 64)), (.ialuSar, false, fun a t => a.sshiftRight (t.toNat % 64)),
  (.ialuMinu, false, fun a t => if a.ule t then a else t), (.ialuMaxu, false, fun a t => if a.ule t then t else a),
  (.ialuCeq, true, fun a t => truth 64 (a == t)), (.ialuCne, true, fun a t => truth 64 (a != t)),
  (.ialuClt, true, fun a t => truth 64 (a.slt t)), (.ialuCltu, true, fun a t => truth 64 (a.ult t)),
  (.ialuCle, true, fun a t => truth 64 (a.sle t))]

/-- The VALU's operations on sixteen 32-bit lanes (R335): a lane's result from those of A, B and T. -/
noncomputable def valuLaneOps : List ((FMv → Instr) × (Nat → Nat → Nat → Nat)) :=
  let fp (g : Val → Val → Val → Val) (a b t : Nat) : Nat := roundF 0 0 (g (decF 0 a) (decF 0 b) (decF 0 t))
  [(.valuFadd, fp fun a _ t => a.add 0 t), (.valuFsub, fp fun a _ t => a.sub 0 t), (.valuFmul, fp fun a _ t => a.mul t),
   (.valuFma, fp fun a b t => (a.mul t).add 0 b), (.valuFmax, fp fun a _ t => a.max t), (.valuFmin, fp fun a _ t => a.min t),
   (.valuIadd, fun a _ t => (a + t) % 2 ^ 32), (.valuAnd, fun a _ t => a &&& t), (.valuOr, fun a _ t => a ||| t),
   (.valuXor, fun a _ t => a ^^^ t)]

/-- A result that reaches its R after `lat` words (R333). -/
def inFlight (s : State) (unit lat : Nat) (v : BitVec 512) (guard : Nat) : State :=
  s.setOas fun o => { o with flight := o.flight ++ [⟨unit, lat, v, guard⟩] }

/-- The LSU's operations (R336): number, alignment, access. -/
noncomputable def lsuOps : List ((FMv → Instr) × Nat × Nat × Access) := [
  (.lsuLdd, 0, 8, .read), (.lsuLdw, 1, 4, .read), (.lsuLdy, 2, 64, .read), (.lsuStd, 3, 8, .write), (.lsuStw, 4, 4, .write),
  (.lsuSty, 5, 64, .write), (.lsuMdrd, 6, 65536, .read), (.lsuMdwr, 7, 65536, .write)]

/-- The place of an access in the own stack, and what its walk leaves. -/
def placedAt (s : State) (va : Word) (acc : Access) (leaf : Word) (pa : Nat) (u : Option TlbUpd) : Prop :=
  s.cur.oasPlace va.toNat acc = (.ok leaf pa, u)

/-- Bits 23:10 of two addresses and their subarray are the same (R338). -/
def rowsAgree (a b : Nat) : Prop := a / 2 ^ 10 % 2 ^ 14 = b / 2 ^ 10 % 2 ^ 14 ∧ a / 2 ^ 33 = b / 2 ^ 33

/-- An operation joins those under way. -/
def underway (s : State) (p : OasOp) : State := s.setOas fun o => { o with ops := o.ops ++ [p] }

/-- The operation makes a write of SYS: a store that a fence precedes, or a signal (R295, R342). -/
def releases (s : State) (p : OasOp) : Prop :=
  (p.unit = 3 ∧ 3 ≤ p.op ∧ p.op ≤ 5 ∧ s.cur.oas.relFence = true) ∨ (p.unit = 6 ∧ 3 ≤ p.op)

/-- No store of the followed context is on its way to a home that is not on its die. -/
def noneAway (c : Core) : Prop := ∀ o ∈ c.transit, homeDie o.pa = c.die

/-- n bytes of p's data stand at its place, and every other byte that the mapping shows is as it was. -/
def storedThere (m m' : Mem) (comp : Bool) (p : OasOp) (n : Nat) : Prop :=
  ∀ a, shown comp (a / 128) → homeByte m' comp a =
    if p.pa ≤ a ∧ a < p.pa + n then p.data.extractLsb' (8 * (a - p.pa)) 8 else homeByte m comp a

/-- The DRAM and its poison are in canonical form. -/
def dramWf (m : Mem) : Prop := Memory.wf m.dram = true ∧ spWf false m.poison = true

end Sys2Proof.Claim

/-! ## Oasis cores (19_oasis_cores.md) -/

/-- R328, R330, R331, R333 to R335: what a move's source supplies; MV writes a register, guard or operand register and nothing
else; an IALU operation's result flies for one word and names the guard in C where it compares, a VALU operation's for three. -/
def Obligations.OasisMoves : Prop :=
  ∀ (f : FMv) (s : State),
    (let p := f.src.toNat
     (p = 0 → srcWord s f = 0 ∧ srcWide s f = 0) ∧
     (0x020 ≤ p → p < 0x040 → srcWord s f = spGet 0 s.rd.oas.o (p - 0x020)) ∧
     (0x040 ≤ p → p < 0x050 → srcWide s f = spGet 0 s.rd.oas.y (p - 0x040)) ∧
     (0x061 ≤ p → p < 0x068 → srcWord s f = truth 64 (s.rd.oas.gd.getLsbD (p - 0x060))) ∧
     (p = 0x310 ∨ p = 0x410 → srcWide s f = spGet 0 s.rd.oas.res (p / 256 - 1)) ∧
     (p % 256 = 0x10 → 0x100 ≤ p → p < 0x1000 → srcWord s f = (spGet 0 s.rd.oas.res (p / 256 - 1)).setWidth 64) ∧
     (p = 0x1EFF → ∀ l, f.lit = some l → srcWord s f = l.signExtend 64) ∧
     (0x1F00 ≤ p → srcWord s f = (f.src.setWidth 8).signExtend 64)) ∧
    (Moves f s → spWf 0 s.cur.oas.o = true → spWf 0 s.cur.oas.y = true → spWf 0 s.cur.oas.opr = true →
      ∃ t, exec (.mv f) s = .next t ∧ t = s.setOas (fun _ => t.cur.oas) ∧
        (let p := f.dst.toNat
         let o := s.cur.oas
         (p = 0 → t = s) ∧
         (0x020 ≤ p → p < 0x040 → ∃ r, t.cur.oas = { o with o := r } ∧
            ∀ n, spGet 0 r n = if n = p - 0x020 then srcWord s f else spGet 0 o.o n) ∧
         (0x040 ≤ p → p < 0x050 → ∃ r, t.cur.oas = { o with y := r } ∧
            ∀ n, spGet 0 r n = if n = p - 0x040 then srcWide s f else spGet 0 o.y n) ∧
         (0x061 ≤ p → p < 0x068 → ∃ g w, t.cur.oas = { o with gd := g, wrote := w } ∧ w.getLsbD (p - 0x060) = true ∧
            ∀ n, n < 8 → g.getLsbD n = if n = p - 0x060 then decide ((s.rd.oas.source f).1 ≠ 0) else o.gd.getLsbD n) ∧
         (0x100 ≤ p → ∃ r, t.cur.oas = { o with opr := r } ∧
            (unitOf f = 2 ∨ (unitOf f = 3 ∧ p % 4 = 1) → spGet 0 r (unitOf f * 4 + p % 4) = srcWide s f) ∧
            (unitOf f ≠ 2 → (unitOf f ≠ 3 ∨ p % 4 ≠ 1) → spGet 0 r (unitOf f * 4 + p % 4) = (srcWord s f).setWidth 512) ∧
            ∀ n, n ≠ unitOf f * 4 + p % 4 → spGet 0 r n = spGet 0 o.opr n))) ∧
    (∀ op ∈ ialuOps, Moves f s → exec (op.1 f) s = .next (inFlight s (unitOf f) 1
      ((op.2.2 (wordOperand s (unitOf f) 0) (srcWord s f)).setWidth 512)
      (if op.2.1 then (wordOperand s (unitOf f) 2).toNat % 8 else 0))) ∧
    (∀ op ∈ valuLaneOps, Moves f s → ∃ v, exec (op.1 f) s = .next (inFlight s 2 3 v 0) ∧
      ∀ k, k < 16 → lane32 v k = op.2 (lane32 (operandOf s 2 0) k) (lane32 (operandOf s 2 1) k) (lane32 (srcWide s f) k)) ∧
    (Moves f s → ∃ v, exec (.valuBfwide f) s = .next (inFlight s 2 3 v 0) ∧
      ∀ k, k < 16 → lane32 v k = convert 1 0 0 false ((srcWide s f).extractLsb' (16 * k) 16).toNat) ∧
    (Moves f s → ∃ v, exec (.valuBfnarrow f) s = .next (inFlight s 2 3 v 0) ∧
      ∀ k, k < 32 → (v.extractLsb' (16 * k) 16).toNat = if k < 16 then convert 0 1 0 false (lane32 (srcWide s f) k) else 0)

/-- R336 to R338, R341 to R343: a trigger of the LSU, ROW, CVS or SYNC starts an operation at its address, translated now and
in the own stack; a misaligned address, one that no page or another stack holds, rows that do not agree, and a slot above 63
end the kernel by their causes. A range of which every page is known without a walk is accepted whole. The order of CPY's
checks, and that ranges need no permission, is the model's reading (log 44). -/
def Obligations.OasisTriggers : Prop :=
  ∀ (f : FMv) (s : State), Moves f s →
    let t := srcWord s f
    (∀ op ∈ lsuOps,
      (t.toNat % op.2.2.1 ≠ 0 → exec (op.1 f) s = .next (s.oasFault 0x30 t)) ∧
      (t.toNat % op.2.2.1 = 0 →
        (∀ leaf pa u, placedAt s t op.2.2.2 leaf pa u →
          exec (op.1 f) s = .next (underway (s.applyUpd u) ⟨3, op.2.1, t, 0, pa, pa, leaf, operandOf s 3 1⟩)) ∧
        ∀ c u, s.cur.oasPlace t.toNat op.2.2.2 = (.fault c, u) → exec (op.1 f) s = .next ((s.applyUpd u).oasFault c t))) ∧
    (t.toNat % 1024 ≠ 0 → exec (.rowZero f) s = .next (s.oasFault 0x30 t) ∧ exec (.rowCpy f) s = .next (s.oasFault 0x30 t)) ∧
    (∀ leaf pa u, t.toNat % 1024 = 0 →
      (placedAt s t .write leaf pa u → exec (.rowZero f) s = .next (underway (s.applyUpd u) ⟨4, 1, t, 0, pa, pa, leaf, 0⟩)) ∧
      ((wordOperand s 4 1).toNat ≤ 63 → placedAt s t .read leaf pa u →
        exec (.rowTobuf f) s = .next (underway (s.applyUpd u) ⟨4, 2, t, wordOperand s 4 1, pa, pa, leaf, 0⟩)) ∧
      ((wordOperand s 4 1).toNat ≤ 63 → placedAt s t .write leaf pa u →
        exec (.rowFrombuf f) s = .next (underway (s.applyUpd u) ⟨4, 3, t, wordOperand s 4 1, pa, pa, leaf, 0⟩))) ∧
    (63 < (wordOperand s 4 1).toNat →
      exec (.rowTobuf f) s = .next (s.oasFault 0x02 (moveTval s.rd.oas.slot f)) ∧
      exec (.rowFrombuf f) s = .next (s.oasFault 0x02 (moveTval s.rd.oas.slot f))) ∧
    (∀ leaf src leaf2 dst, t.toNat % 1024 = 0 → (wordOperand s 4 0).toNat % 1024 = 0 → placedAt s t .read leaf src none →
      placedAt s (wordOperand s 4 0) .write leaf2 dst none →
      (rowsAgree dst src → exec (.rowCpy f) s = .next (underway s ⟨4, 0, t, 0, dst, src, leaf, 0⟩)) ∧
      (¬rowsAgree dst src → exec (.rowCpy f) s = .next (s.oasFault 0x39 t))) ∧
    (∀ (i : Instr) unit op, (i = .cvsApply f ∧ unit = 5 ∧ op = 0) ∨ (i = .syncInv f ∧ unit = 6 ∧ op = 0) ∨
        (i = .syncWbinv f ∧ unit = 6 ∧ op = 1) →
      let a := wordOperand s unit 0
      ((∀ va, a.toNat ≤ va → va < a.toNat + t.toNat → ∃ leaf pa, s.cur.oasPlace va .range = (.ok leaf pa, none)) →
        exec i s = .next (underway s ⟨unit, op, a, t, 0, 0, 0, 0⟩)) ∧
      ∀ c u, 0 < t.toNat → s.cur.oasPlace a.toNat .range = (.fault c, u) → exec i s = .next ((s.applyUpd u).oasFault c a)) ∧
    exec (.cvsCount f) s = .next (underway s ⟨5, 1, 0, 0, 0, 0, 0, 0⟩) ∧
    exec (.syncFence f) s = .next (underway s ⟨6, 2, 0, 0, 0, 0, 0, 0⟩) ∧
    (∀ leaf pa u, (wordOperand s 6 0).toNat % 8 = 0 → placedAt s (wordOperand s 6 0) .write leaf pa u →
      exec (.syncSignal f) s = .next (underway (s.applyUpd u) ⟨6, 3, wordOperand s 6 0, 0, pa, pa, leaf, t.setWidth 512⟩)) ∧
    (let pc := s.rd.oas.pc
     exec (.pcJump f) s = .next (s.setOas fun o => { o with jump := some (pc + t) }) ∧
     (s.rd.oas.stack.length < 8 → exec (.pcCall f) s =
       .next (s.setOas fun o => { o with jump := some (pc + t), stack := (pc + 16) :: s.rd.oas.stack })) ∧
     (8 ≤ s.rd.oas.stack.length → ∃ x, exec (.pcCall f) s = .next (s.used.oasFault 0x0A x)) ∧
     (∀ r l, s.rd.oas.stack = r :: l → exec (.pcRet f) s = .next (s.setOas fun o => { o with jump := some r, stack := l })) ∧
     (s.rd.oas.stack = [] → exec (.pcRet f) s = .next (s.setOas fun o => { o with status := .ending })) ∧
     exec (.pcHalt f) s = .next (s.setOas fun o => { o with status := .ending }) ∧
     exec (.pcYield f) s = .next (s.setOas fun o => { o with yielded := o.preempt }))

/-- R333, R336 to R339, R341, R342: results reach their ports. An exposed result sets R and the guard it names, but for a
guard that the word before wrote. Loads and stores act at the home, whatever the caches hold; row operations on what lies below the
die L2; CVS_APPLY applies the device's bins of its range; SYNC_INV drops the copies of its range, SYNC_WBINV writes them back first; a
fence makes the stores after it releases (R295), and a release sends what its die has on the way first (R300). The order of results
due together is free (log 44), and where the metadata lie too (log 22). -/
def Sys2Proof.Claim.OasisResults : Prop :=
  (∀ (s : State) (unit : Nat) (r : OasRes), s.cur.oas.flight.find? (fun r => r.unit == unit && r.left == 0) = some r →
    spWf 0 s.cur.oas.res = true → r.guard < 8 →
    ∃ t, exec (.oasisResultLand unit) s = .next t ∧ spGet 0 t.cur.oas.res unit = r.val ∧
      (∀ k, k ≠ unit → spGet 0 t.cur.oas.res k = spGet 0 s.cur.oas.res k) ∧ t.cur.oas.flight = s.cur.oas.flight.erase r ∧
      (∀ k, k < 8 → t.cur.oas.gd.getLsbD k = if k = r.guard ∧ k ≠ 0 ∧ s.cur.oas.wrote.getLsbD k = false then r.val.getLsbD 0
        else s.cur.oas.gd.getLsbD k) ∧ t.cur.mem = s.cur.mem ∧ t.cur.oas.o = s.cur.oas.o) ∧
  (∀ (s : State) (p : OasOp), s.cur.oas.ready 5 = some p → p.op ≠ 0 → spWf 0 s.cur.oas.res = true →
    ∃ t, exec (.oasisOpComplete 5) s = .next t ∧ t.cur.mem = s.cur.mem ∧ spGet 0 t.cur.oas.res 5 = BitVec.ofNat 512
      (s.cur.mem.bins.filter fun b => b.vmid == s.cur.oas.vmid && inStack (s.cur.oas.num / 8) (b.line * 512)).length) ∧
  ∀ (s : State) (p : OasOp), s.cur.oas.ready p.unit = some p → 3 ≤ p.unit → p.unit ≤ 6 → spWf 0 s.cur.oas.res = true →
    let m := s.cur.mem
    let comp := effComp (leafComp p.leaf) (p.pa / 128)
    let die := s.cur.oas.die
    let hit (line : Nat) : Bool := lineMeets (s.cur.opRuns p) line
    let mine (b : Bin) : Bool := b.vmid == s.cur.oas.vmid && inStack (s.cur.oas.num / 8) (b.line * 512) && hit b.line
    ∃ t, exec (.oasisOpComplete p.unit) s = .next t ∧ t.cur.oas.ops = s.cur.oas.ops.erase p ∧ t.cur.quad = s.cur.quad ∧
      ((releases s p → die = s.cur.core.die → noneAway s.cur.core) → t.cur.core = s.cur.core) ∧
      (releases s p → (die = s.cur.core.die → noneAway t.cur.core) ∧ (spWf [] m.relClk = true → spWf 0 m.vc = true →
        ∀ h, h < 9 → m.vcOf die h ≤ (spGet [] t.cur.mem.relClk (p.pa / 128)).getD h 0)) ∧
      (∀ n, p.unit = 3 → (p.op = 0 ∧ n = 8) ∨ (p.op = 1 ∧ n = 4) ∨ (p.op = 2 ∧ n = 64) → p.pa % n = 0 → m.bins = [] →
        (m.homeRead comp (p.pa / 128)).2 = false →
          { t.cur.mem with fills := m.fills, l2Use := m.l2Use, mscUse := m.mscUse } = m ∧ t.cur.oas.poisonR = none ∧
          ∀ k, k < 64 → (spGet 0 t.cur.oas.res 3).extractLsb' (8 * k) 8 = if k < n then homeByte m comp (p.pa + k) else 0) ∧
      (∀ n, (p.unit = 3 ∧ ((p.op = 3 ∧ n = 8) ∨ (p.op = 4 ∧ n = 4) ∨ (p.op = 5 ∧ n = 64))) ∨ (p.unit = 6 ∧ p.op = 3 ∧ n = 8) →
        p.pa % n = 0 → m.bins = [] → present (p.pa / 128 * 128) = true → memSound m comp → l2Sound m comp → shown comp (p.pa / 128) →
        (releases s p → die = s.cur.core.die → noneAway s.cur.core) →
        (p.unit = 3 → t.cur.oas.res = s.cur.oas.res) ∧ storedThere m t.cur.mem comp p n) ∧
      (p.unit = 3 → p.op = 6 → t.cur.mem = m ∧
        ∀ k, k < 64 → (spGet 0 t.cur.oas.res 3).extractLsb' (8 * k) 8 = if k < 16 then m.metaOf (p.pa / 4096 + k) else 0) ∧
      (p.unit = 3 → 7 ≤ p.op → dramWf m → t.cur.oas.res = s.cur.oas.res ∧
        (∀ k, t.cur.mem.metaOf k =
          if p.pa / 4096 ≤ k ∧ k < p.pa / 4096 + 16 then p.data.extractLsb' (8 * (k - p.pa / 4096)) 8 else m.metaOf k) ∧
        ∀ a, (∀ k, k < 16 → a ≠ metaAddr (p.pa / 4096 + k)) → spGet 0 t.cur.mem.dram a = spGet 0 m.dram a) ∧
      (p.unit = 4 → p.pa % 1024 = 0 → p.pb % 1024 = 0 → (p.op ≠ 0 → p.pb = p.pa) → present (p.pa / 1024 * 1024) = true →
        present (p.pb / 1024 * 1024) = true → m.bins = [] → memSound m false → spWf 0 s.cur.oas.bufs = true →
        spWf false s.cur.oas.bufPoison = true →
        spGet 0 t.cur.oas.res 4 = 1024 ∧ t.cur.mem.l2 = m.l2 ∧
        (∀ sec, t.cur.mem.sideRead false sec =
          if p.op ≠ 2 ∧ sec / 8 = p.pa / 1024 then
            (if p.op = 0 then m.sideRead false (p.pb / 128 + sec % 8)
              else if p.op = 1 then (0, false)
              else (spGet 0 s.cur.oas.bufs (p.len.toNat * 8 + sec % 8), spGet false s.cur.oas.bufPoison (p.len.toNat * 8 + sec % 8)))
          else m.sideRead false sec) ∧
        (p.op = 2 → ∀ k, (spGet 0 t.cur.oas.bufs k, spGet false t.cur.oas.bufPoison k) =
          if k / 8 = p.len.toNat then m.sideRead false (p.pb / 128 + k % 8)
          else (spGet 0 s.cur.oas.bufs k, spGet false s.cur.oas.bufPoison k))) ∧
      (p.unit = 5 → p.op = 0 → spGet 0 t.cur.oas.res 5 = BitVec.ofNat 512 (m.bins.filter mine).length ∧
        t.cur.mem.bins = (m.bins.filter fun b => !mine b) ∧ ((∀ b ∈ m.bins, mine b = false) → t.cur.mem = m)) ∧
      (p.unit = 6 → spGet 0 t.cur.oas.res 6 = 0 ∧
        (p.op ≤ 1 → ∀ key, let l (c : Sp (Option Sector)) := spGet none c key
          (hit (key / 8) = true → l t.cur.mem.l1 = none ∧ l t.cur.mem.l2 = none ∧ l t.cur.mem.rdc = none) ∧
          (hit (key / 8) = false → l t.cur.mem.l1 = l m.l1 ∧ l t.cur.mem.l2 = l m.l2 ∧ l t.cur.mem.rdc = l m.rdc)) ∧
        (p.op = 0 → ∀ k sec, t.cur.mem.homeRead k sec = if hit (sec / 4) then m.sideRead k sec else m.homeRead k sec) ∧
        (p.op = 1 → ∀ k, memSound m k → l2Kept m k → ∀ sec, shown k sec → t.cur.mem.homeRead k sec = m.homeRead k sec) ∧
        (p.op = 2 → spWf 0 m.vc = true → t.cur.mem.dram = m.dram ∧ t.cur.oas.relFence = true ∧
          ∀ h, h < 9 → t.cur.mem.vcOf die h = max (m.vcOf die h) (m.hcOf h)))

/-- R340, R346: a refresh that falls due while a row operation uses its bank is postponed, up to four times; an instance that
the dispatcher preempts leaves with its whole state once its operations are complete, and its group waits to be placed. -/
def Sys2Proof.Claim.OasisRefreshAndPreempt : Prop :=
  (∀ (s : State) bank,
    ((∀ p ∈ s.cur.oas.ops, p.unit = 4 → p.pa / 2 ^ 20 % 16 ≠ bank ∧ p.pb / 2 ^ 20 % 16 ≠ bank) →
      exec (.dramRefreshDue bank) s = .next s) ∧
    ((∃ p ∈ s.cur.oas.ops, p.unit = 4 ∧ (p.pa / 2 ^ 20 % 16 = bank ∨ p.pb / 2 ^ 20 % 16 = bank)) →
      ∃ n, n ≤ 4 ∧ (s.cur.oas.postponed < 4 → n = s.cur.oas.postponed + 1) ∧
        exec (.dramRefreshDue bank) s = .next (s.setOas fun o => { o with postponed := n }))) ∧
  ∀ (s : State) (p : Placed), s.cur.disp.groupOf s.cur.oas.num true = some p → s.cur.oas.preempt = true →
    s.cur.oas.status = .running → s.cur.oas.ops = [] →
    ∃ t v, exec .oasisPreempt s = .next t ∧ t.cur.disp.saved = s.cur.disp.saved ++ [v] ∧
      v.oasis = some { s.cur.oas with preempt := false, yielded := false } ∧ v.launch = p.launch ∧ v.group = p.group ∧
      t.cur.oas.status = .idle ∧ t.cur.oas.num = s.cur.oas.num ∧ (∀ q ∈ t.cur.disp.placed, q ≠ p) ∧ t.cur.mem = s.cur.mem ∧
      t.cur.quad = s.cur.quad

namespace Sys2Proof.Claim

/-- A launch of this number, after its record has been changed by f, everywhere else as before. -/
def launchIs (t : State) (id : Nat) (l : Launch) : Prop := t.cur.disp.launch? id = some l

/-- A cycle has passed, and perhaps more: CYCLE has counted one at least, unless it stands at its greatest, and neither it nor FTIME
falls (R109, R112; log 10). -/
def cyclePassed (s t : State) : Prop :=
  min (s.cur.cycle.toNat + 1) (2 ^ 64 - 1) ≤ t.cur.cycle.toNat ∧ s.cur.ftime.toNat ≤ t.cur.ftime.toNat

/-- A cycle has passed for the running bank: every entry's count has fallen, and the entries that were then due are gone (R66, R68). -/
def bankFell (s t : State) : Prop :=
  (t.cur.core.bank s.cur.core.tlevel).map entryName =
    (((s.cur.core.bank s.cur.core.tlevel).map fun p => p.pass.fall).filter fun p => !(p.overdue && p.arrived)).map entryName

end Sys2Proof.Claim

/-! ## The sequencer's own steps (02_execution_model.md, 24_scheduling.md) -/

/-- R66 to R68, R153: NOP's empty bundles and the drain of END or ERET each pass a cycle, in which every entry of the running bank
falls by one, at the same PC, with no byte of memory changed. A due entry is written and freed, and an entry of an earlier landing index that stays keeps only
what it has not overwritten; one that is not due stays; a
value that comes late is written at once where its level runs, and waits where it does not. -/
def Sys2Proof.Claim.SequencerCycles : Prop :=
  (∀ s : State,
    (s.cur.core.empties = 0 → exec .nopEmptyBundle s = .next s) ∧
    (0 < s.cur.core.empties → ∃ t, exec .nopEmptyBundle s = .next t ∧ cyclePassed s t ∧ t.cur.mem = s.cur.mem ∧
      t.cur.core.empties + 1 = s.cur.core.empties ∧ t.cur.core.pc = s.cur.core.pc ∧ t.cur.core.eng = s.cur.core.eng ∧
      bankFell s t) ∧
    ((s.cur.core.status = .ending ∨ s.cur.core.tlevel ≠ 0) → ∃ t, exec .drainCycle s = .next t ∧ cyclePassed s t ∧
      t.cur.mem = s.cur.mem ∧ t.cur.core.pc = s.cur.core.pc ∧ t.cur.core.status = s.cur.core.status ∧ bankFell s t) ∧
    (s.cur.core.status ≠ .ending → s.cur.core.tlevel = 0 → exec .drainCycle s = .next s)) ∧
  (∀ (s : State) (p : Pending), let b := s.cur.core.bank s.cur.core.tlevel
    (p ∈ b → p.overdue = true → p.arrived = true → b.filter (·.slot == p.slot) = [p] →
      ∃ t, exec (.pendingWriteLand p.slot) s = .next t ∧ t.cur.mem = s.cur.mem ∧ t.cur.core.s = (landAll s.cur p.writes).core.s ∧
        t.cur.core.v = (landAll s.cur p.writes).core.v ∧ t.cur.quad = (landAll s.cur p.writes).quad ∧
        t.cur.core.bank s.cur.core.tlevel = (b.filter fun q => q.slot != p.slot).map (·.under p)) ∧
    ((∀ q ∈ b, q.slot = p.slot → (q.overdue && q.arrived) = false) → exec (.pendingWriteLand p.slot) s = .next s)) ∧
  ∀ (s : State) (level entry : Nat), level ≤ 2 →
    (level ≠ s.cur.core.tlevel → ∃ t, exec (.overdueValueArrive level entry) s = .next t ∧ t.cur.mem = s.cur.mem ∧
      t.cur.core.s = s.cur.core.s ∧ t.cur.core.v = s.cur.core.v ∧
      t.cur.core.bank level = (s.cur.core.bank level).map fun p => if p.slot = entry then { p with arrived := true } else p) ∧
    (level = s.cur.core.tlevel → ∃ t, exec (.overdueValueArrive level entry) s = .next t ∧ t.cur.mem = s.cur.mem ∧
      ∀ p ∈ t.cur.core.bank level, p.slot = entry → p.overdue = false)

/-- R41, R368, R372, R422: a context whose END has nothing left to wait for retires, and its launch counts it: the last one makes
the launch draining, and an engine fault that nothing read, or a token nothing read, is the launch's fault. Another core's
instance retires once it may issue, with the fault that its tokens gave it, and its update regions are released first (R313). An instance of a
killed launch stops. A store lost to a store-layer shutdown raises 0x32 at the next bundle, asynchronously. -/
def Sys2Proof.Claim.InstancesEnd : Prop :=
  (∀ (s : State) (p : Placed) (l : Launch), s.cur.core.num < 144 → s.cur.disp.groupOf s.cur.core.num false = some p →
    s.cur.disp.launch? p.launch = some l → s.cur.core.num ∉ p.retired → s.cur.core.status = .ending → s.cur.core.eng = [] →
    s.cur.core.busy = false → s.cur.core.tlbinv = none → s.cur.core.bank0 = [] → s.cur.core.bank1 = [] → s.cur.core.bank2 = [] →
    ∀ fault, ∃ t k, exec (.instRetire ⟨s.cur.core.num, fault⟩) s = .next t ∧ t.cur.core.status = .idle ∧ t.cur.core.num = s.cur.core.num ∧
      t.cur.core.regions = [] ∧ launchIs t p.launch k ∧ k.retired = l.retired + 1 ∧ k.killed = l.killed ∧
      k.engFault = (l.engFault || s.cur.core.engFault || decide (s.cur.core.unread ≠ [])) ∧
      k.state = if l.retired + 1 = l.instances ∧ l.killed = false then .draining else l.state) ∧
  (∀ (s : State) (p : Placed) (l : Launch), s.cur.disp.groupOf s.cur.oas.num true = some p → s.cur.disp.launch? p.launch = some l →
    s.cur.oas.num ∉ p.retired → s.cur.oas.status = .ending → s.cur.oas.ops = [] →
    ∀ fault, ∃ t k, exec (.instRetire ⟨144 + s.cur.oas.num, fault⟩) s = .next t ∧
      t.cur.oas = { s.cur.oas with status := .idle, jump := none, preempt := false, yielded := false } ∧
      launchIs t p.launch k ∧ k.retired = l.retired + 1 ∧ t.cur.mem = s.cur.mem) ∧
  (∀ (s : State) (p : Placed) (l : Launch) n fault, n < 144 → n ≠ s.cur.core.num → s.cur.disp.groupOf n false = some p →
    s.cur.disp.launch? p.launch = some l →
    (n ∉ p.retired → n ∉ p.halted → (l.gang = false ∨ l.unplaced = []) →
      ∃ t k, exec (.instRetire ⟨n, fault⟩) s = .next t ∧ t.cur.core = s.cur.core ∧ launchIs t p.launch k ∧
        k.retired = l.retired + 1 ∧ k.engFault = (l.engFault || fault) ∧
        let me := (p.launch, p.group * p.size + (n - p.base))
        (∀ r ∈ t.cur.mem.pregions, me ∉ r.holders) ∧
        ((∀ r ∈ s.cur.mem.pregions, me ∉ r.holders) → (∀ x ∈ s.cur.mem.pairPoison, (x.1, x.2.1) ≠ me) → t.cur.mem = s.cur.mem)) ∧
    (n ∈ p.retired ∨ n ∈ p.halted ∨ (l.gang = true ∧ l.unplaced ≠ []) → exec (.instRetire ⟨n, fault⟩) s = .next s)) ∧
  (∀ (s : State) (p : Placed) (l : Launch), s.cur.core.num < 144 → s.cur.disp.groupOf s.cur.core.num false = some p →
    s.cur.disp.launch? p.launch = some l →
    (l.killed = true → ∃ t, exec (.instStop s.cur.core.num) s = .next t ∧ t.cur.core.status = .idle ∧ t.cur.core.loops = [] ∧
      t.cur.core.bank0 = [] ∧ t.cur.core.bank1 = [] ∧ t.cur.core.bank2 = [] ∧ (∀ o ∈ t.cur.core.eng, o.started = true) ∧
      t.cur.core.memq = s.cur.core.memq ∧ t.cur.mem = s.cur.mem) ∧
    (l.killed = false → exec (.instStop s.cur.core.num) s = .next s)) ∧
  ∀ (s : State) (pa : Word), s.cur.core.status = .running → s.cur.core.lost = some pa → s.cur.core.empties = 0 →
    s.cur.core.endDue = false → s.cur.core.tlevel = 0 → s.cur.core.thandler ≠ 0 →
    ∃ t, exec (.storeLostFault pa) s = .next t ∧ t.cur.core.tlevel = 1 ∧ t.cur.core.pc = s.cur.core.thandler ∧
      t.cur.core.trap1.cause = 256 + 0x32 ∧ t.cur.core.trap1.epc = s.cur.core.pc ∧ t.cur.core.trap1.val = pa ∧
      t.cur.core.lost = none ∧ t.cur.core.s = s.cur.core.s ∧ t.cur.mem = s.cur.mem

namespace Sys2Proof.Claim

/-- What stands at a link after an event; every other link, and everything else of the machine, as before. -/
def onlyLink (s t : State) (n : Nat) (l : Link) : Prop :=
  t.cur = s.cur.setLink n l

/-- A frame that its link accepts under an epoch, with what it carries (R412, R413). -/
def opens (l : Link) (f : Frame) (e : Nat) (p : List Byte) : Prop :=
  l.step = 6 ∧ l.epochOf f = some e ∧ (l.window e).has f.seq.toNat = false ∧
    ∃ whole, aesOpen ((epochKeys l e).take 32) (epochIv (epochKeys l e) f.seq.toNat) (frameHead f) f.payload f.tag = some whole ∧
      p = whole.take f.len.toNat

/-- The four events of a frame's arrival, by the frame's type. -/
noncomputable def frameEvents : List (Nat × (Nat → Frame → Instr)) :=
  [(0, .frameDataReceive), (1, .frameAckReceive), (2, .frameNackReceive), (3, .frameIdleReceive)]

/-- The sender's epoch is over: its SEQ values are used up, or 3,600 s have passed (R413). -/
def epochSpent (s : State) (l : Link) : Prop := l.seq = 2 ^ 32 ∨ l.epochAt.toNat + 3600 * 10 ^ 9 ≤ s.cur.ftime.toNat

/-- The operation waits on link n, which fails: a CSEND whose frames went over it, or one bound to it, or a CRECV, whose peer no other
trained link leads to (R361). -/
def cutOff (s : State) (n : Nat) (o : EngOp) : Prop :=
  let x := o.vals.getD 0 0
  o.started = true ∧ o.left ≠ [] ∧ s.cur.isHere (peerCampus x) (peerPkg x) = false ∧
    ((isCsend o = true ∧ o.route = some n ∧ ∃ k ∈ o.left, k.1 = 1) ∨
      ((∀ k, k < 36 → k ≠ n → (s.cur.link k).step ≠ 6) ∧
        ((isCsend o = true ∧ o.route = some n) ∨ (isCsend o = false ∧ (crecvFE o.ins).isSome = true))))

end Sys2Proof.Claim

/-! ## Links (26_links_bringup_and_health.md) -/

/-- R412 to R415: what cannot be opened is dropped and counted; a frame once taken is not taken again; a payload in order is
delivered in order; a frame of any kind that runs more than 8 ahead is answered by a NACK; an ACK releases what it names, a NACK sends
again what it asks for and halves the rate, down to a 64th of the line's; timers acknowledge, resend, and end an epoch, and no frame
is sealed under one that is over. How a receiver finds room, when the rate rises, and how many frames are overdue is free (log 14). -/
def Obligations.LinkFrames : Prop :=
  (∀ ev ∈ frameEvents, ∀ (s : State) (n : Nat) (f : Frame), let l := s.cur.link n
    (f.ftype.toNat = ev.1 → (∀ e p, ¬opens l f e p) →
      ∃ t, exec (ev.2 n f) s = .next t ∧ onlyLink s t n { l with errors := l.errors + 1 }) ∧
    (f.ftype.toNat ≠ ev.1 → f.ftype.toNat < 4 → exec (ev.2 n f) s = .next s) ∧
    ∀ e p, f.ftype.toNat = ev.1 → opens l f e p → ∃ t k, exec (ev.2 n f) s = .next t ∧ onlyLink s t n k ∧ k.step = 6 ∧
      ((l.window e).cum + 8 < f.seq.toNat → ∃ x, k.outbox = l.outbox ++ x ∧ ∃ g ∈ x, g.ftype = 2)) ∧
  (∀ (s : State) (n : Nat) (f : Frame) p, let l := s.cur.link n
    f.ftype = 0 → opens l f l.peerEpoch p → l.win.beyond = [] → l.win.inOrder = [] → f.seq.toNat = l.win.cum → l.win.sinceAck < 15 →
      ∃ t k, exec (.frameDataReceive n f) s = .next t ∧ onlyLink s t n k ∧
        ((k.delivered = l.delivered ++ [p] ∧ k.win.cum = l.win.cum + 1 ∧ k.outbox = l.outbox) ∨
          (k.delivered = l.delivered ∧ k.win = l.win ∧ k.errors = l.errors + 1 ∧ k.outbox.length = l.outbox.length + 1))) ∧
  (∀ (s : State) (n : Nat) (f : Frame) e p, let l := s.cur.link n
    let near := f.seq.toNat ≤ (l.window e).cum + 8 ∧ (l.window e).sinceAck < 16
    let left := fun c : Nat × Nat × Nat => l.unacked.any fun x => !acked p x && x.1 == c.2.1 && x.2.seq.toNat == c.2.2
    opens l f e p → l.queue = [] →
      (f.ftype = 1 → ∃ t k, exec (.frameAckReceive n f) s = .next t ∧ onlyLink s t n k ∧
        k.unacked = (l.unacked.filter fun x => !acked p x) ∧ k.carry = l.carry.filter left ∧ (near → k.outbox = l.outbox) ∧
        (k.rate = l.rate ∨ k.rate = moreRate l.rate)) ∧
      (f.ftype = 2 → ∃ t k, exec (.frameNackReceive n f) s = .next t ∧ onlyLink s t n k ∧
        k.unacked = (l.unacked.filter fun x => !acked p x) ∧ k.carry = l.carry.filter left ∧ k.rate = halfRate l.rate ∧
        (near → k.outbox = l.outbox ++ (l.unacked.filter fun x => !acked p x && asked p x).map Prod.snd))) ∧
  (∀ r : Nat × Nat, let h := halfRate r
    let m := moreRate r
    (64 * r.1 < 2 * 2 ^ r.2 → h = (1, 6)) ∧ (2 * 2 ^ r.2 ≤ 64 * r.1 → h.1 * (2 * 2 ^ r.2) = r.1 * 2 ^ h.2) ∧
      (64 * 2 ^ r.2 ≤ 64 * r.1 + 2 ^ r.2 → m.1 = 2 ^ m.2) ∧
      (64 * r.1 + 2 ^ r.2 < 64 * 2 ^ r.2 → m.1 * (64 * 2 ^ r.2) = (64 * r.1 + 2 ^ r.2) * 2 ^ m.2)) ∧
  ∀ (s : State) (n : Nat), let l := s.cur.link n
    (l.step = 6 → 0 < l.win.sinceAck → l.next.sinceAck = 0 → ∃ t k f, exec (.ackTimer n) s = .next t ∧ onlyLink s t n k ∧
      k.win.sinceAck = 0 ∧ k.outbox = l.outbox ++ [f] ∧ f.ftype = 1 ∧
      (epochSpent s l → f.epoch = BitVec.ofNat 8 (l.epoch + 1) ∧ f.seq = 0) ∧
      (¬epochSpent s l → f.epoch = BitVec.ofNat 8 l.epoch ∧ f.seq = BitVec.ofNat 64 l.seq)) ∧
    (l.step = 6 → l.unacked ≠ [] → ∃ t k m, exec (.retransmitTimeout n) s = .next t ∧ onlyLink s t n k ∧ 1 ≤ m ∧ m ≤ l.unacked.length ∧
      k.outbox = l.outbox ++ (l.unacked.take m).map Prod.snd ∧ k.rate = halfRate l.rate ∧ k.unacked = l.unacked) ∧
    (l.step ≠ 6 ∨ l.unacked = [] → exec (.retransmitTimeout n) s = .next s) ∧
    (l.step = 6 → epochSpent s l →
      exec (.epochEnd n) s = .next (s.setCur fun m => m.setLink n { l with epoch := l.epoch + 1, seq := 0, epochAt := m.ftime })) ∧
    (¬(l.step = 6 ∧ epochSpent s l) → exec (.epochEnd n) s = .next s)

/-- R361, R414, R416, R417: a link trains by HELLO, PROOF and READY, each taken in its step only; a step that fails starts the
training again and counts, the eighth in a row retires the link; READY opens epoch 0 with FTIME no lower than the peer's; a
trained link that gets no acknowledgement for its limit fails; a CSEND that its frames were carrying, and what waits on a peer that no
other trained link leads to, completes UNREACHABLE, and everything else waits on. -/
def Obligations.LinkTraining : Prop :=
  (∀ (s : State) (n : Nat), let l := s.cur.link n
    n < 36 → l.retired = false → s.cur.linkUsable n = true → s.cur.framed n = true → l.step = 0 → spWf none s.cur.links = true →
      (∃ t f, exec (.linkTrain n true) s = .next t ∧ (t.cur.link n).step = 3 ∧ (t.cur.link n).peer = none ∧
        (t.cur.link n).outbox = l.outbox ++ [f] ∧ f.ftype = 4 ∧ f.seq = 0 ∧ f.tag = List.replicate 16 0) ∧
      (l.failures < 7 → ∃ t, exec (.linkTrain n false) s = .next t ∧ (t.cur.link n).step = 0 ∧
        (t.cur.link n).failures = l.failures + 1 ∧ t.cur.info = s.cur.info) ∧
      (7 ≤ l.failures → ∃ t, exec (.linkTrain n false) s = .next t ∧ (t.cur.link n).retired = true ∧ t.cur.linkUsable n = false)) ∧
  (∀ (s : State) (n : Nat) (h : Hello), let l := s.cur.link n
    l.step = 3 → l.peer = none → h.reservedZero = true → (∀ c ∈ h.chain, c.reservedZero = true) → spWf none s.cur.links = true →
    l.failures < 7 →
      (validChain h.chain = true → h.admitted = true → ∃ t f, exec (.hello n h) s = .next t ∧ (t.cur.link n).peer = some h ∧
        (t.cur.link n).step = 3 ∧ (t.cur.link n).outbox = l.outbox ++ [f] ∧ f.ftype = 4) ∧
      (validChain h.chain = false ∨ h.admitted = false → ∃ t, exec (.hello n h) s = .next t ∧ (t.cur.link n).step = 0 ∧
        (t.cur.link n).peer = none ∧ (t.cur.link n).failures = l.failures + 1)) ∧
  (∀ (s : State) (n : Nat) (h : Hello) (sig : List Byte), let l := s.cur.link n
    l.step = 3 → l.peer = some h → spWf none s.cur.links = true → l.failures < 7 →
      let key := (h.chain.map (·.subject)).headD []
      (edVerify key (proofDigest s.cur n l h) sig = false → ∃ t, exec (.proof n sig true) s = .next t ∧
        (t.cur.link n).step = 0 ∧ (t.cur.link n).failures = l.failures + 1) ∧
      (edVerify key (proofDigest s.cur n l h) sig = true → ∃ t, exec (.proof n sig true) s = .next t ∧
        (((t.cur.link n).step = 5 ∧ (t.cur.link n).peer = some h) ∨
          ((t.cur.link n).step = 0 ∧ (t.cur.link n).failures = l.failures + 1)))) ∧
  (∀ (s : State) (n : Nat) (buf ft : Word), (s.cur.link n).step = 5 → spWf none s.cur.links = true →
    ∃ t, exec (.ready n buf ft true) s = .next t ∧ (t.cur.link n).step = 6 ∧ (t.cur.link n).failures = 0 ∧ (t.cur.link n).epoch = 0 ∧
      (t.cur.link n).seq = 0 ∧ (t.cur.link n).unacked = [] ∧ t.cur.ftime.toNat = max s.cur.ftime.toNat ft.toNat) ∧
  (∀ (s : State) (n step reason : Nat), let l := s.cur.link n
    3 ≤ l.step → l.step < 6 → l.failures < 7 → spWf none s.cur.links = true →
      ∃ t, exec (.abort n step reason true) s = .next t ∧ (t.cur.link n).step = 0 ∧ (t.cur.link n).failures = l.failures + 1) ∧
  ∀ (s : State) (n : Nat), let l := s.cur.link n
    let limit := if 32 ≤ n then 2000000000 else 50000000
    (l.step = 6 → l.unacked ≠ [] → l.ackedAt.toNat + limit ≤ s.cur.ftime.toNat → spWf none s.cur.links = true →
      ∃ t, exec (.linkFail n) s = .next t ∧ (t.cur.link n).step = 0 ∧ (t.cur.link n).unacked = [] ∧ (t.cur.link n).queue = [] ∧
        ∀ o ∈ s.cur.core.eng,
          (cutOff s n o → (∃ p ∈ t.cur.core.eng, p.id = o.id ∧ p.left = [] ∧ p.status = worse o.status 0x62) ∧
            ∀ k ∈ t.cur.coll.out, k.1 ≠ o.id) ∧
          ((∀ e ∈ s.cur.core.eng, e.id = o.id → ¬cutOff s n e) → o ∈ t.cur.core.eng)) ∧
    (¬(l.step = 6 ∧ l.unacked ≠ [] ∧ l.ackedAt.toNat + limit ≤ s.cur.ftime.toNat) → exec (.linkFail n) s = .next s)

/-! ## Fabric accesses, the control window, and health (25_translation_and_virtual_devices.md, 26_links_bringup_and_health.md) -/

/-- R409, R410, R226, R296: a VIRT access that is not admitted, lies in the quad window or beyond the address space, or fails
translation returns an error completion and changes no memory; a module without firmware answers nothing (R418); one within a page is made at the home, and one that releases
stamps the sectors it writes with every die's counter. The hub's translations serve it (log 55). Longer than a frame's payload
it is no access of the model (log 49). -/
def Sys2Proof.Claim.FabricAccesses : Prop :=
  ∀ (s : State) (a : FabricAccess) (n : Nat), n = (match a.write with
      | some b => b.length
      | none => a.len) → 0 < n → n ≤ 4064 → a.ctl = false →
    (s.cur.up = false → exec (.fabricVirtAccess a) s = .next s) ∧ (s.cur.up = true →
    let xlate := fun acc => s.cur.translate a.vmid a.va.toNat acc (.die 4)
    ((s.cur.admitted a.vmid a.campus a.pkg = false ∨ 96 ≤ a.vmid ∨ inWindow a.va.toNat = true ∨ 2 ^ 52 < a.va.toNat + n) →
      exec (.fabricVirtAccess a) s = .next (s.setCur fun m => { m with replies := m.replies ++ [none] })) ∧
    (s.cur.admitted a.vmid a.campus a.pkg = true → a.vmid < 96 → inWindow a.va.toNat = false → a.va.toNat + n ≤ 2 ^ 52 →
      a.va.toNat % 65536 + n ≤ 65536 →
      (∀ c u, a.write = none → xlate .read = (.fault c, u) → exec (.fabricVirtAccess a) s =
        .next (s.setCur fun m => { m with replies := m.replies ++ [none] })) ∧
      (∀ leaf pa, a.write = none → xlate .read = (.ok leaf pa, none) → s.cur.mem.bins = [] →
        let comp := effComp (leafComp leaf) (pa / 128)
        ∃ t r, exec (.fabricVirtAccess a) s = .next t ∧ t.cur.replies = s.cur.replies ++ [some r] ∧ r.length = n ∧
          { t.cur.mem with l2Use := s.cur.mem.l2Use, mscUse := s.cur.mem.mscUse } = s.cur.mem ∧
          ((∀ k, k < n → (s.cur.mem.homeRead comp ((pa + k) / 128)).2 = false) → ∀ k, k < n →
            r.getD k 0 = homeByte s.cur.mem comp (pa + k))) ∧
      (∀ b c u, a.write = some b → xlate .token = (.fault c, u) →
        ∃ t, exec (.fabricVirtAccess a) s = .next t ∧ t.cur.replies = s.cur.replies ++ [none] ∧ t.cur.mem = s.cur.mem) ∧
      (∀ b leaf pa u, a.write = some b → xlate .token = (.ok leaf pa, u) → spWf [] s.cur.mem.relClk = true →
        let mem := (s.cur.applyUpd u).mem.store (effComp (leafComp leaf) (pa / 128)) pa b
        ∃ t, exec (.fabricVirtAccess a) s = .next t ∧ t.cur.replies = s.cur.replies ++ [some []] ∧
          t.cur.mem = { mem with relClk := t.cur.mem.relClk } ∧ (a.release = false → t.cur.mem.relClk = mem.relClk) ∧
          (a.release = true → ∀ sec, pa / 128 ≤ sec → 128 * sec < pa + n →
            spGet [] t.cur.mem.relClk sec = (List.range 9).map mem.hcOf))))

/-- R379, R406, R409, R411, R420, R425, R426: the control window. A doorbell of an admitted endpoint, or of a privileged
context, notes the arrival of the packets up to TAIL where the queue's ring is enabled, not stopped by an error, and holds any; an endpoint's read returns the
block, and its write is the window's; FEATURE_ACCEPT is taken once per bring-up, and no feature that
is not offered; bit 63 of REPLACE is cleared and the rest kept; an image request waits until it has been answered. Whole
fields only, and the free order of two refusals of an image, are the model's (log 49). -/
def Sys2Proof.Claim.ControlWindow : Prop :=
  (∀ (s : State) (src : CtlSource) vmid queue value m hdr h, src = .context ∨ (∃ c p, src = .endpoint c p ∧ s.cur.admitted vmid c p = true) →
    queue < 64 → s.cur.enabledDev vmid = true → s.cur.ring vmid queue = (m, some (hdr, h)) →
    (∃ t, exec (.doorbell src vmid queue value) s = .next t ∧ t.cur = { m with disp := t.cur.disp } ∧
      exec (.ctlWrite src (0x100000 + 4096 * vmid + 8 * queue) (natBytes value.toNat 8)) s = .next t ∧
      (field h 17 1 % 2 = 1 → field h 18 1 = 0 → ahead (field h 8 8) (field h 0 8) ≠ 0 →
        t.cur.disp = { m.disp with bells := t.cur.disp.bells } ∧ ⟨vmid, queue, hdr, m.ftime, 0, field h 0 8⟩ ∈ t.cur.disp.bells ∧
        ∀ b, (b.vmid ≠ vmid ∨ b.queue ≠ queue) → (b ∈ t.cur.disp.bells ↔ b ∈ m.disp.bells)) ∧
      (field h 17 1 % 2 = 0 ∨ field h 18 1 ≠ 0 ∨ ahead (field h 8 8) (field h 0 8) = 0 → t.cur.disp = m.disp))) ∧
  (∀ (s : State) c p vmid queue value, s.cur.admitted vmid c p = false → exec (.doorbell (.endpoint c p) vmid queue value) s = .next s) ∧
  (∀ (s : State) (x : BitVec 512),
    (s.cur.info.state = 1 → s.cur.info.accepted = false → exec (.featureAccept x) s = .next (s.setCur fun m => { m with
      info := { m.info with accept := x &&& m.info.offer, accepted := true, state := 2 } })) ∧
    (s.cur.info.state ≠ 1 ∨ s.cur.info.accepted = true → exec (.featureAccept x) s = .next s)) ∧
  (∀ s : State, ∃ t, exec .replaceClear s = .next t ∧ t = s.setCur (fun m => { m with info := { m.info with replace := t.cur.info.replace } }) ∧
    t.cur.info.replace.getLsbD 63 = false ∧ ∀ k, k < 63 → t.cur.info.replace.getLsbD k = s.cur.info.replace.getLsbD k) ∧
  (∀ (s : State) (pa : Word),
    (s.cur.info.imgstat ≠ 0xFF → exec (.imgaddr pa) s =
      .next (s.setCur fun m => { m with info := { m.info with imgaddr := pa, imgstat := 0xFF } })) ∧
    (s.cur.info.imgstat = 0xFF → exec (.imgaddr pa) s = .next s) ∧
    (s.cur.info.imgstat ≠ 0xFF → exec .imgstatWrite s = .next s)) ∧
  (∀ s : State, s.cur.info.imgstat = 0xFF → ∃ t st, exec .imgstatWrite s = .next t ∧ t.cur.info.imgstat = BitVec.ofNat 64 st ∧
    (st = 0 ∨ st = 1 ∨ st = 2 ∨ st = 3) ∧ (st ≠ 0 → t.cur.images = s.cur.images) ∧
    (s.cur.info.imgaddr.toNat % 64 ≠ 0 → st = 3) ∧
    (st = 0 → ∃ i, 32 ≤ i.1 ∧ i.1 ≤ 63 ∧ t.cur.images = (s.cur.images.filter fun k => k.1 != i.1) ++ [i])) ∧
  (∀ (s : State) (a : FabricAccess), s.cur.up = true → a.ctl = true → a.write = none → a.va = 0 → a.len = 512 →
    ∃ t b, exec (.fabricVirtAccess a) s = .next t ∧ t.cur = { s.cur with replies := s.cur.replies ++ [some b] } ∧ b.length = 512 ∧
      field b 0 64 = s.cur.info.offer.toNat ∧ field b 64 64 = s.cur.info.accept.toNat ∧ field b 128 8 = 0x100000 ∧
      field b 136 8 = s.cur.info.quadMask.toNat ∧ field b 144 2 = s.cur.info.stackMask.toNat ∧ field b 146 4 = s.cur.info.isthMask.toNat ∧
      field b 150 1 = s.cur.info.portMask.toNat ∧ field b 151 1 = s.cur.info.state.toNat ∧ field b 152 8 = s.cur.info.hbmcap.toNat ∧
      field b 160 128 = s.cur.info.pcret.toNat ∧ field b 288 8 = s.cur.info.replace.toNat ∧ field b 296 8 = s.cur.info.imgaddr.toNat ∧
      field b 304 8 = s.cur.info.imgstat.toNat ∧ field b 312 2 = s.cur.info.vbrange.toNat ∧ field b 314 198 = 0) ∧
  (∀ (s u : State) (a : FabricAccess) b, s.cur.up = true → a.ctl = true → a.write = some b →
    exec (.ctlWrite (.endpoint a.campus a.pkg) a.va.toNat b) s = .next u →
    exec (.fabricVirtAccess a) s = .next (u.setCur fun m => { m with replies := m.replies ++ [some []] })) ∧
  ∀ (s : State) (src : CtlSource) off data, off < 0x100000 →
    (∀ c p, src = .endpoint c p → s.cur.admitted 0 c p = false → exec (.ctlWrite src off data) s = .next s) ∧
    (src = .context →
      (off = 64 → data.length = 64 → exec (.ctlWrite src off data) s = exec (.featureAccept (BitVec.ofNat 512 (bytesNat data))) s) ∧
      (off = 296 → data.length = 8 → exec (.ctlWrite src off data) s = exec (.imgaddr (BitVec.ofNat 64 (bytesNat data))) s) ∧
      (off = 288 → data.length = 8 → bytesNat data < 2 ^ 63 → exec (.ctlWrite src off data) s = exec .replaceClear s) ∧
      (off = 312 → data.length = 2 → 1 ≤ bytesNat data → bytesNat data ≤ 125 → exec (.ctlWrite src off data) s =
        .next (s.setCur fun m => { m with info := { m.info with vbrange := BitVec.ofNat 16 (bytesNat data) } })))

/-- R8, R17, R112, R411, R414, R416 to R420, R424: bring-up rebuilds everything but FTIME, which never falls, the events still to
come, and the counts that no training key or nonce comes twice by; with firmware that fails verification the module offers
nothing; else each test that fails retires its resource, the Strait retry buffers come out of the capacity, the links are all to
be trained, and the module offers its features when none is left to train. What bring-up rebuilds is the model's reading
(log 49). -/
def Sys2Proof.Claim.BringUpRebuilds : Prop :=
  (∀ (r : BringUp) (s : State), ∃ t, exec (.bringUp r) s = .next t ∧ t.cur.ftime = s.cur.ftime ∧ t.cur.core.num = s.cur.core.num ∧
    t.cur.oas.num = s.cur.oas.num ∧ t.cur.core.status = .idle ∧ t.cur.oas.status = .idle ∧ t.cur.quad.sp = [] ∧
    t.cur.disp.launches = [] ∧ t.cur.disp.placed = [] ∧ t.cur.disp.saved = [] ∧ t.cur.tlb = [] ∧ t.cur.info.accepted = false ∧
    t.cur.inbox = s.cur.inbox ∧ t.cur.replies = s.cur.replies ∧
    (spWf none s.cur.links = true → ∀ n, (t.cur.link n).step ≠ 6 ∧ (t.cur.link n).attempt = (s.cur.link n).attempt ∧
      (t.cur.link n).queue = [] ∧ (t.cur.link n).unacked = []) ∧
    (r.firmwareOk = false → t.cur.up = false ∧ t.cur.info.state = 0 ∧ t.cur.info.offer = 0) ∧
    (r.firmwareOk = true → t.cur.up = true ∧ t.cur.info.campus = r.campus ∧ t.cur.info.pkg = r.pkg ∧
      t.cur.info.stackMask = r.stackMask ∧ t.cur.info.strait = r.strait ∧
      ((∃ n, n < 36 ∧ t.cur.linkUsable n = true ∧ t.cur.framed n = true) → t.cur.info.state = 0 ∧ t.cur.info.offer = 0) ∧
      ((∀ n, n < 36 → t.cur.linkUsable n = false ∨ t.cur.framed n = false) → t.cur.info.state = 1 ∧ t.cur.info.offer = offerOf t.cur.info) ∧
      (r.badChannels = [] → t.cur.info.hbmcap.toNat = r.hbmcap.toNat - 134217728 * ((List.range 4).filter fun n => r.strait.getLsbD n).length) ∧
      (∀ q, q < 36 → t.cur.info.quadMask.getLsbD q = !((r.badCores.any fun c => c / 4 == q) || r.badBuses.contains q)) ∧
      (r.badBuses.any (fun q => decide (q < 36) && !(r.badCores.any fun c => c / 4 == q)) = true → 4 ∈ t.cur.info.mctp) ∧
      (∀ n, n < 32 → t.cur.info.isthMask.getLsbD n = !(r.badLinks.contains n)) ∧
      (∀ n, n < 4 → t.cur.info.portMask.getLsbD n = !(r.badPorts.contains n)) ∧
      (∀ c n, c < 16 → n < 64 → t.cur.info.pcret.getLsbD (64 * c + n) = r.badChannels.any fun x => 64 * x.1 + x.2 == 64 * c + n && decide (x.2 < 64)))) ∧
  ∀ m : Mach, m.up = true → m.info.state = 0 →
    ((∀ n, n < 36 → m.linkUsable n = true → m.framed n = true → (m.link n).step = 6) →
      m.offerNow = { m with info := { m.info with offer := offerOf m.info, state := 1 } }) ∧
    ((∃ n, n < 36 ∧ m.linkUsable n = true ∧ m.framed n = true ∧ (m.link n).step ≠ 6) → m.offerNow = m)

/-- R421 to R423: a temperature that has moved by more than VBRANGE marks the die for retest; the retest waits for an empty
die, and takes spares or retires quads; a store layer that trips moves the home function to the memory side, loses its dirty
copies at the deadline as poison, and restarts once it is 10 °C below the trip point; a power cap costs time only. The moments of these events, and trips counted
per die, are the model's (log 49). -/
def Sys2Proof.Claim.HeatAndPower : Prop :=
  (∀ (s : State) (die : Nat), spWf none s.cur.dies = true → die < 9 →
    (∀ temp, ∃ t, exec (.temperatureSwing die temp) s = .next t ∧ (t.cur.health die).now = temp ∧
      (t.cur.health die).temp = (s.cur.health die).temp ∧ t.cur.mem = s.cur.mem ∧
      (t.cur.health die).retest = ((s.cur.health die).retest || decide (s.cur.info.vbrange.toNat < (temp - (s.cur.health die).temp).natAbs))) ∧
    ((s.cur.health die).retest = true → (s.cur.health die).testing = false → s.cur.dieEmpty die = true →
      ∃ t, exec (.vbusRetest die) s = .next t ∧ (t.cur.health die).testing = true ∧ t.cur.disp = s.cur.disp) ∧
    (s.cur.dieEmpty die = false → exec (.vbusRetest die) s = .next s) ∧
    (∀ lost quads, (s.cur.health die).testing = true → ∃ t, exec (.vbusRetestDone die lost quads) s = .next t ∧
      (t.cur.health die).testing = false ∧ (t.cur.health die).retest = false ∧ (t.cur.health die).temp = (s.cur.health die).now ∧
      (t.cur.health die).spares = (s.cur.health die).spares - lost ∧
      (lost ≤ (s.cur.health die).spares → t.cur.info = s.cur.info) ∧
      ((s.cur.health die).spares < lost → ∀ q, q < 36 →
        t.cur.info.quadMask.getLsbD q = (s.cur.info.quadMask.getLsbD q && !(quads.contains q && q / 4 == die && !s.cur.quadHeld q)) ∧
        (s.cur.info.quadMask.getLsbD q = true → q ∈ quads → q / 4 = die →
          (s.cur.quadHeld q = false → t.cur.info.replace.getLsbD 63 = true ∧ t.cur.info.replace.toNat % 2 ^ 16 = 4) ∧
          (s.cur.quadHeld q = true → ∃ r ∈ t.cur.retiring, r.1 = q)))) ∧
    ((s.cur.health die).tripped = false → ∃ t, exec (.storeLayerTrip die) s = .next t ∧ (t.cur.health die).tripped = true ∧
      (t.cur.health die).lost = false ∧ t.cur.mem = { s.cur.mem with down := s.cur.mem.down ++ [die] } ∧ t.cur.core = s.cur.core) ∧
    ((s.cur.health die).lost = true → Config.tripPoint - 10 < (s.cur.health die).now → exec (.storeLayerRestart die) s = .next s) ∧
    ((s.cur.health die).lost = true → (s.cur.health die).now ≤ Config.tripPoint - 10 → ∃ t, exec (.storeLayerRestart die) s = .next t ∧ (t.cur.health die).tripped = false ∧
      (t.cur.health die).lost = false ∧ die ∉ t.cur.mem.down ∧ t.cur.mem.dram = s.cur.mem.dram)) ∧
  (∀ (s : State) (die : Nat), spWf none s.cur.dies = true → die < 9 → (s.cur.health die).tripped = true → (s.cur.health die).lost = false →
    ∃ t, exec (.storeLayerDeadline die) s = .next t ∧ (t.cur.health die).lost = true ∧
      (∀ e ∈ t.cur.mem.l2, homeDie (e.1 / 2 * 128) ≠ die) ∧
      (∀ comp key c, memSound s.cur.mem comp → (∀ k x, spGet none s.cur.mem.l2 k = some x → (k % 2 == 1) = comp ∧ shown comp (k / 2)) →
        spGet none s.cur.mem.l2 key = some c → c.dirty = true → homeDie (key / 2 * 128) = die →
        (t.cur.mem.homeRead comp (key / 2)).2 = true) ∧
      (s.cur.core.die ≠ die → t.cur.core = s.cur.core ∧ t.cur.quad = s.cur.quad) ∧
      (s.cur.core.die = die → t.cur.quad = ⟨[], [], [], []⟩ ∧ t.cur.mem.rdc = [] ∧
        (s.cur.core.status ≠ .idle → t.cur.core.lost.isSome = true))) ∧
  ∀ s : State, ∃ t, exec .powerCap s = .next t ∧ cyclePassed s t ∧ t.cur = { s.cur with cycle := t.cur.cycle, ftime := t.cur.ftime }

/-- The array state whose bytes the followed core stores: what a pre-empted context left, until another takes the array (R256). -/
def Sys2Proof.Claim.stored (m : Mach) : ArrState := m.arrLeft.getD m.arr

/-- R226, R257, R317, R390, R391, R424, R425: an uncorrectable error poisons what it falls on and leaves every byte as it is; a resource
that retires is withdrawn from the masks, or its share from the capacity, and asks for replacement: PENDING, one more in COUNT,
and the REASON; of a quad that holds a group the group is asked to leave first, as by R391. Where an error in a sector falls is the model's reading (log 49). -/
def Obligations.ErrorsAndRetirement : Prop :=
  (∀ s : State,
    (∀ rank sector, rank < 4 → sector < 2 ^ 19 → spWf false s.cur.quad.spPoison = true →
      ∃ t, exec (.uncorrectableError (.scratch rank sector)) s = .next t ∧ t.cur.quad.sp = s.cur.quad.sp ∧
        ∀ k, spGet false t.cur.quad.spPoison k = (spGet false s.cur.quad.spPoison k || k == rank * 2 ^ 19 + sector)) ∧
    (∀ cell, cell < 16384 → spWf false (stored s.cur).poiG = true → ∃ t, exec (.uncorrectableError (.gradient cell)) s = .next t ∧
      (stored t.cur).grad = (stored s.cur).grad ∧ (∀ k, spGet false (stored t.cur).poiG k = (spGet false (stored s.cur).poiG k || k == cell)) ∧
      (s.cur.arrLeft.isSome = true → t.cur.arr = s.cur.arr)) ∧
    (∀ plane cell, cell < 16384 → spWf false (stored s.cur).poi0 = true → spWf false (stored s.cur).poi1 = true →
      ∃ t, exec (.uncorrectableError (.cell plane cell)) s = .next t ∧ (stored t.cur).plane0 = (stored s.cur).plane0 ∧
        (stored t.cur).plane1 = (stored s.cur).plane1 ∧ spGet false (if plane then (stored t.cur).poi1 else (stored t.cur).poi0) cell = true ∧
        (s.cur.arrLeft.isSome = true → t.cur.arr = s.cur.arr)) ∧
    (∀ n, dramWf s.cur.mem → present (n * 128) = true → s.cur.mem.l2 = [] → s.cur.mem.msc = [] →
      ∃ t, exec (.uncorrectableError (.sector n)) s = .next t ∧ t.cur.mem.dram = s.cur.mem.dram ∧
        (t.cur.mem.homeRead false n).2 = true ∧ (t.cur.mem.homeRead false n).1 = (s.cur.mem.homeRead false n).1)) ∧
  ∀ s : State, let count := s.cur.info.replace.toNat / 2 ^ 16 % 2 ^ 32
    let asked (t : State) (reason : Nat) : Prop := t.cur.info.replace.getLsbD 63 = true ∧
      t.cur.info.replace.toNat % 2 ^ 16 = reason ∧ t.cur.info.replace.toNat / 2 ^ 16 % 2 ^ 32 = (count + 1) % 2 ^ 32 ∧
      t.cur.info.mctp = s.cur.info.mctp ++ [reason]
    (∀ n, n < 144 → s.cur.info.quadMask.getLsbD (n / 4) = true →
      (s.cur.quadHeld (n / 4) = false → ∃ t, exec (.resourceRetire (.core n)) s = .next t ∧ asked t 1 ∧
        exec (.resourceRetire (.quad (n / 4))) s = .next t ∧ ∀ q, q < 36 → t.cur.info.quadMask.getLsbD q =
          (s.cur.info.quadMask.getLsbD q && q != n / 4)) ∧
      (s.cur.quadHeld (n / 4) = true → ∃ t, exec (.resourceRetire (.core n)) s = .next t ∧ t.cur.info = s.cur.info ∧
        (∀ p ∈ s.cur.disp.placed, onQuad (n / 4) p = true → p.preempt = none → p.noAsk.toNat ≤ s.cur.ftime.toNat →
          ∀ q ∈ s.cur.disp.together p, q.preempt = none → { q with preempt := some s.cur.ftime } ∈ t.cur.disp.placed) ∧
        (∀ p ∈ t.cur.disp.placed, onQuad (n / 4) p = true → p.preempt.isSome = true ∨ s.cur.ftime.toNat < p.noAsk.toNat) ∧
        t.cur.mayLeave (n / 4) = false ∧
        (∃ r ∈ t.cur.retiring, r.1 = n / 4) ∧ ∀ without k, k / 4 = n / 4 → t.cur.coreFree without k = false)) ∧
    (∀ stack bit, stack < 16 → bit < 64 → s.cur.info.pcret.getLsbD (64 * stack + bit) = false →
      ∃ t, exec (.resourceRetire (.channel stack bit)) s = .next t ∧ asked t 2 ∧ t.cur.info.pcret.getLsbD (64 * stack + bit) = true ∧
        t.cur.info.hbmcap = s.cur.info.hbmcap - 1500004352 ∧ t.cur.mem = s.cur.mem) ∧
    (∀ n, n < 32 → s.cur.linkUsable n = true → (s.cur.link n).unacked = [] → (s.cur.link n).queue = [] → spWf none s.cur.links = true →
      ∃ t, exec (.resourceRetire (.link n)) s = .next t ∧ asked t 3 ∧ t.cur.linkUsable n = false ∧ (t.cur.link n).retired = true) ∧
    ∀ n, n < 4 → s.cur.linkUsable (32 + n) = true → (s.cur.link (32 + n)).unacked = [] → (s.cur.link (32 + n)).queue = [] →
      ∃ t, exec (.resourceRetire (.port n)) s = .next t ∧ asked t 3 ∧ t.cur.linkUsable (32 + n) = false

namespace Sys2Proof.Claim

/-- The policy's choice once the placed instances have been charged (R388, R389). -/
def chosen (s : State) (l : Launch) (group base : Nat) : Prop := (chargeAll s.cur).choice = some (l, group, base)

/-- The launch has a group fewer to place, and one more is placed; its device's flags are taken (R405). -/
def placedAs (s t : State) (l : Launch) (group base size : Nat) (oasis : Bool) : Prop :=
  (∃ p, t.cur.disp.placed = s.cur.disp.placed ++ [p] ∧ p.launch = l.id ∧ p.group = group ∧ p.base = base ∧ p.size = size ∧
    p.oasis = oasis ∧ p.halted = [] ∧ p.preempt = none ∧ p.placedAt = s.cur.ftime) ∧
  (spWf none s.cur.disp.vflags = true → spGet none t.cur.disp.vflags l.vmid = some (s.cur.mem.vdev l.vmid 0 4)) ∧
  ∀ k, s.cur.disp.launch? l.id = some k → ∃ j, launchIs t l.id j ∧ j.unplaced = l.unplaced.filter (· != group) ∧
    j.state = if j.unplaced = [] ∨ k.state = .running then .running else .placing

/-- A launch has been added under the next id, a complete one of that id gone (R380). -/
def addsLaunch (s t : State) (l : Launch) : Prop :=
  t.cur.disp.launches = (s.cur.disp.launches.filter fun x => !(x.id == l.id && x.done)) ++ [l] ∧ l.id = s.cur.disp.nextId ∧
    t.cur.disp.nextId = max 1 ((s.cur.disp.nextId + 1) % 2 ^ 32)

/-- Checks 2 to 5 of R382 but for the gang's room: what every packet meets, then what its level asks. -/
def packetOk (m : Mach) (l : Launch) (known killOk : Bool) : Prop :=
  l.ctl < 256 ∧ l.num 62 2 = 0 ∧ bytesNat (l.packet.drop 96) = 0 ∧ bits l.ctl 7 5 ≤ 4 ∧ l.args % 8 = 0 ∧ l.killb % 128 = 0 ∧
    killOk = true ∧ handlesOk m l = true ∧ groupOk m l = true ∧
  ((l.level = 2 ∧ l.sysq = true) ∨
    (l.level ≤ 1 ∧ l.num 8 8 % 64 = 0 ∧ known = true ∧
      (l.level = 0 → splitOk l.split = true ∧
        (∀ n, n < 6 → l.trip n ≠ 0 → n ∈ l.kernel.spatial 1 ++ l.kernel.spatial 2) ∧ l.perTuple % l.gsize = 0 ∧
        (l.gang = true → (l.kernel.spatial 2 = [] ∨ l.perTuple ≤ 16))) ∧
      (l.level = 1 → l.kernel.oasis = true ∧ bits l.ctl 7 5 = 0 ∧ l.gang = false ∧ (∀ n, n < 5 → l.trip (n + 1) = 0) ∧
        l.stacks ≠ 0 ∧ l.trip 0 ≤ 8 * popCount l.stacks ∧ l.stacks &&& (65535 - m.mem.vdev l.vmid 40 2) = 0)))

/-- The gang has room (R27), the depth is allowed (R38), and the features asked for are accepted (R27). -/
def roomOk (m : Mach) (l : Launch) : Prop := l.level = 0 → l.gang = true → l.instances ≤ 4 * popCount (m.mem.vdev l.vmid 32 8)
def depthOk (l : Launch) : Prop := l.ancestors.length ≤ 8
def featOk (m : Mach) (l : Launch) : Prop := l.level ≠ 2 → l.kernel.feat &&& ~~~m.info.accept = 0

/-- The checks of R382 on a launch, all of them. -/
def acceptable (m : Mach) (l : Launch) (known killOk : Bool) : Prop := packetOk m l known killOk ∧ roomOk m l ∧ depthOk l ∧ featOk m l

/-- The status of a launch that fails a check, the first in the order of R382. -/
def failsWith (m : Mach) (l : Launch) (known killOk : Bool) (st : Nat) : Prop :=
  (¬packetOk m l known killOk ∧ st = 0x10) ∨ (packetOk m l known killOk ∧ ¬roomOk m l ∧ st = 0x11) ∨
  (packetOk m l known killOk ∧ roomOk m l ∧ ¬depthOk l ∧ st = 0x12) ∨ (packetOk m l known killOk ∧ roomOk m l ∧ depthOk l ∧ ¬featOk m l ∧ st = 0x13)

/-- A token is written, a release at SYS: its word, after which the sector's release clock holds every die's counter (R28, R382). -/
def tokenWritten (mem : Mem) (t : State) (at_ : Nat × Bool) (status info : Nat) : Prop :=
  let written := mem.store at_.2 at_.1 (natBytes (status * 2 ^ 56 + info) 8)
  t.cur.mem = { written with relClk := t.cur.mem.relClk } ∧
    (spWf [] mem.relClk = true → spGet [] t.cur.mem.relClk (at_.1 / 128) = (List.range 9).map written.hcOf)

/-- The queue has stopped: ERR and ERRSEQ of its header are written, and what it announced is served no more (R378, R382). -/
def queueStops (m : Mach) (t : State) (b : Bell) (err seq : Nat) : Prop :=
  t.cur = { ((m.vwrite b.vmid (b.ring + 18) [BitVec.ofNat 8 err] .read).1.vwrite b.vmid (b.ring + 24) (natBytes seq 8) .read).1 with
    disp := { m.disp with bells := t.cur.disp.bells } } ∧
  ∀ x, x ∈ t.cur.disp.bells ↔ x ∈ m.disp.bells ∧ ¬(x.vmid = b.vmid ∧ x.queue = b.queue)

/-- The registers that a live mask names are those of the innermost level, else the kernel's (R36, R114). -/
def liveMasks (c : Core) : Word × Word := match c.loops.head? with
  | some l => (l.lrec.livev, l.lrec.livew)
  | none => ((c.kernel.map (·.livev)).getD 0, (c.kernel.map (·.livew)).getD 0)

/-- A group that a launch may ask for its cores (R390, R391). -/
def mayBeAsked (m : Mach) (l : Launch) (allowed : Placed → Prop) (p : Placed) : Prop :=
  p ∈ m.disp.placed ∧ p.oasis = (l.level == 1) ∧ p.preempt = none ∧ p.noAsk.toNat ≤ m.ftime.toNat ∧ allowed p

/-- The launch's next group fits once one group has gone, the first in the order of R390, and that goes by itself. -/
def oneMakesRoom (m : Mach) (l : Launch) (allowed : Placed → Prop) (p : Placed) : Prop :=
  ∃ g, l.unplaced.head? = some g ∧ m.fit [] l g = none ∧ (m.fit [p] l g).isSome = true ∧ (∀ q ∈ m.disp.placed, q.preempt = none) ∧
    mayBeAsked m l allowed p ∧ (∀ q, mayBeAsked m l allowed q → q ≠ p → m.takenFirst p q = true) ∧ m.disp.together p = [p]

/-- That group is asked, and nothing else changes but the charges of R389. -/
def asksOnly (s t : State) (p : Placed) : Prop :=
  let m := chargeAll s.cur
  t.cur = { m with
    disp := { m.disp with placed := s.cur.disp.placed.map fun q => if q = p then { q with preempt := some s.cur.ftime } else q }
    oas := if p.oasis ∧ p.base = s.cur.oas.num then { s.cur.oas with preempt := true } else s.cur.oas }

end Sys2Proof.Claim

/-! ## Launches and placement (04_assembly_and_objects.md, 24_scheduling.md) -/

/-- R27, R378, R380, R382: the packet that arrived first is accepted once, or rejected with a token, or its queue stops with an
error; a launch that is accepted has met every check of R382 that the model names, here those on its packet. A queue whose
packet is not the first waits. What is not checked of a packet is the model's reading (log 46). -/
def Sys2Proof.Claim.LaunchAcceptance : Prop :=
  (∀ (s : State) vmid ring queue (b : Bell), ring = .host ∨ ring = .device → s.cur.nextBell = some b →
    (b.vmid ≠ vmid ∨ b.queue ≠ queue + (if ring = .host then 0 else 64) → exec (.launchAccept vmid ring queue) s = .next s) ∧
    (b.vmid = vmid → b.queue = queue + (if ring = .host then 0 else 64) → ∃ t, exec (.launchAccept vmid ring queue) s = .next t ∧
      t.cur.disp.placed = s.cur.disp.placed ∧ t.cur.core = s.cur.core ∧ t.cur.quad = s.cur.quad ∧
      ((∃ m err seq, (err = 1 ∨ err = 2) ∧ m.disp = s.cur.disp ∧ queueStops m t b err seq) ∨
       ∃ l, addsLaunch s t l ∧ l.vmid = vmid ∧ l.killed = false ∧ l.retired = 0 ∧ (l.sysq = true → vmid = 0) ∧
        ((l.state = .rejected ∧ ∃ mem st, 0x10 ≤ st ∧ st ≤ 0x13 ∧ tokenWritten mem t l.tokenAt st 0) ∨
         (l.state = .accepted ∧ l.args % 8 = 0 ∧ l.killb % 128 = 0 ∧ l.ctl < 256 ∧ l.level ≠ 3 ∧
          l.ancestors.length ≤ 8 ∧ (l.level = 2 → l.sysq = true) ∧ (l.level = 0 → splitOk l.split = true) ∧
          (l.level = 1 → l.kernel.oasis = true ∧ l.gang = false ∧ l.stacks ≠ 0) ∧
          l.unplaced = List.range l.groups))))) ∧
  (∀ (s : State) vmid ring queue, ring = .host ∨ ring = .device → s.cur.nextBell = none →
    exec (.launchAccept vmid ring queue) s = .next s) ∧
  ∀ (s : State) vmid queue x, s.cur.disp.elsewhere x.launch s.cur.core.num = false →
    exec (.launchAccept vmid (.pushed x) queue) s = exec (.launchAccept vmid .device queue) s

/-- R27, R378 to R382, R385: the packet that arrived first, in the slot after its ring's HEAD: a ring that holds more than its
slots stops with ERR 2, a TOKEN that cannot be written stops it with ERR 1; else HEAD advances, and with every check of R382 met
a launch is added with the next id, its packet, its kernel and its groups, and without handles or a collective group it depends
on nothing and no more memory changes; the first check that is not met names the status of a token, written as a release at SYS.
Another core's packet is none of this statement's (log 6). -/
def Sys2Proof.Claim.LaunchAccepted : Prop :=
  ∀ (s : State) vmid ring queue (b : Bell) m h,
    ring = .host ∨ ring = .device → s.cur.nextBell = some b → b.vmid = vmid →
    b.queue = queue + (if ring = .host then 0 else 64) →
    s.cur.vread vmid b.ring 64 = (m, some h) →
    let head := field h 8 8
    (2 ^ field h 16 1 < ahead head (field h 0 8) → ∃ t, exec (.launchAccept vmid ring queue) s = .next t ∧
      queueStops m t b 2 ((head + 2 ^ field h 16 1) % 2 ^ 64)) ∧
    (ahead head (field h 0 8) ≤ 2 ^ field h 16 1 →
      ∀ m1 packet, m.vread vmid (slotAt b.ring (field h 16 1) head) 128 = (m1, some packet) →
      (field packet 24 8 % 8 ≠ 0 → ∃ t, exec (.launchAccept vmid ring queue) s = .next t ∧ queueStops m1 t b 1 head) ∧
      (field packet 24 8 % 8 = 0 → ∀ m2, m1.wordAt vmid (field packet 24 8) = (m2, none) →
        ∃ t, exec (.launchAccept vmid ring queue) s = .next t ∧ queueStops m2 t b 1 head) ∧
      (field packet 24 8 % 8 = 0 → ∀ m2 tokenAt m3 killAt, m1.wordAt vmid (field packet 24 8) = (m2, some tokenAt) →
        m2.wordAt vmid (field packet 32 8) = (m3, killAt) →
        let m4 := (m3.vwrite vmid (b.ring + 8) (natBytes (head + 1) 8) .read).1
        let sysq := vmid == 0 && field h 17 1 / 2 % 2 == 1
        let l := (m4.launchFor b sysq packet tokenAt (killAt.getD (0, false))).1
        let known := (m4.launchFor b sysq packet tokenAt (killAt.getD (0, false))).2
        (acceptable m4 l known killAt.isSome →
          ∃ t k, exec (.launchAccept vmid ring queue) s = .next t ∧ addsLaunch s t k ∧ k.vmid = vmid ∧ k.state = .accepted ∧
            k.packet = packet ∧ k.sysq = sysq ∧ k.kernel = l.kernel ∧ k.ancestors = l.ancestors ∧ k.unplaced = List.range k.groups ∧
            k.retired = 0 ∧ k.killed = false ∧ k.tokenAt = tokenAt ∧ k.killAt = killAt.getD (0, false) ∧ t.cur.core = s.cur.core ∧
            t.cur.disp.placed = s.cur.disp.placed ∧
            (l.kernel.nbufr + l.kernel.nbufw = 0 → l.cgroup = 0 → k.deps = [] ∧ t.cur.mem = m4.mem)) ∧
        ∀ st, failsWith m4 l known killAt.isSome st →
          ∃ t k, exec (.launchAccept vmid ring queue) s = .next t ∧ addsLaunch s t k ∧ k.state = .rejected ∧ k.packet = packet ∧
            k.tokenAt = tokenAt ∧ tokenWritten m4.mem t tokenAt st 0 ∧ t.cur.core = s.cur.core))

/-- R28, R40 to R42, R383, R385 to R387: a launch becomes ready once all that it depends on is done; a control packet kills
the launch it names and completes; a launch completes when its children have, nothing of it runs, and it has drained or been
killed, or at once, cancelled, where an ancestor was killed before any of its groups was placed. The target of a control
packet is the model's reading (log 46). -/
def Sys2Proof.Claim.LaunchLife : Prop :=
  ∀ (s : State) (id : Nat) (l : Launch), s.cur.disp.launch? id = some l →
    let met : Prop := ∀ d ∈ l.deps, ∀ x, s.cur.disp.launch? d = some x → x.done = true
    (l.state = .accepted → met → ∃ t k, exec (.launchReady id) s = .next t ∧ launchIs t id k ∧ k.readyAt = s.cur.ftime ∧
      k.state = (if l.level ≠ 2 ∧ l.unplaced = [] then .draining else .ready) ∧ t.cur.core = s.cur.core ∧ t.cur.quad = s.cur.quad) ∧
    (l.state ≠ .accepted ∨ ¬met → exec (.launchReady id) s = .next s) ∧
    (l.level = 2 → l.state = .ready → ∃ t k, exec (.controlKill id) s = .next t ∧ launchIs t id k ∧ k.state = .complete ∧
      ∀ x ∈ s.cur.disp.launches, x.vmid = l.vmid → x.token = l.num 8 8 → x.done = false → x.id ≠ id →
        (∀ y ∈ s.cur.disp.launches, y.vmid = l.vmid → y.token = l.num 8 8 → y.done = false → y.id ≠ id → y = x) →
        (∀ y ∈ s.cur.disp.launches, y.id = x.id → y = x) → ∃ y, launchIs t x.id y ∧ y.killed = true) ∧
    (l.level ≠ 2 ∨ l.state ≠ .ready → exec (.controlKill id) s = .next s) ∧
    (∀ status st, s.cur.completion l = some (status, st) → ∃ t k, exec (.launchComplete id) s = .next t ∧ launchIs t id k ∧
      k.state = st ∧ k.unplaced = [] ∧ (∃ mem, tokenWritten mem t l.tokenAt status (l.retired % 2 ^ 56)) ∧ (∀ v ∈ t.cur.disp.saved, v.launch ≠ id) ∧ t.cur.disp.placed = s.cur.disp.placed) ∧
    (s.cur.completion l = none → exec (.launchComplete id) s = .next s) ∧
    (l.done = true ∨ l.level = 2 → s.cur.completion l = none) ∧
    (l.done = false → l.level ≠ 2 → l.id = id →
      (s.cur.disp.doomed l = true → s.cur.completion l = some (0x03, .cancelled)) ∧
      (s.cur.disp.doomed l = false → (s.cur.disp.childless id = false ∨ s.cur.quiet id = false ∨
          ∃ p ∈ s.cur.disp.placed, p.launch = id) → s.cur.completion l = none) ∧
      (s.cur.disp.doomed l = false → s.cur.disp.childless id = true → s.cur.quiet id = true →
        (∀ p ∈ s.cur.disp.placed, p.launch ≠ id) →
        (l.killed = true → s.cur.completion l = some (0x02, .killed)) ∧
        (l.killed = false → l.state = .draining → s.cur.completion l = some (if l.engFault then 0x01 else 0x00, .complete))))

/-- R92, R93, R98: a rejected object leaves only its status; an accepted one its kernels, each at its virtual device. Magic
and version are checked first, in that order. Where an object is placed is the event's to say (log 48). -/
def Sys2Proof.Claim.ObjectsLoad : Prop :=
  ∀ (s : State) vmid (img : List Byte) (base : Word),
    let st := loadStatus s.cur vmid img (placeFrom base.toNat (sects img))
    (st ≠ 0 → exec (.objectLoad vmid img base) s = .next (s.setCur fun m => { m with loadStatus := some st })) ∧
    (st = 0 → ∃ (t : State) (ks : List Kernel), exec (.objectLoad vmid img base) s = .next t ∧ t.cur.loadStatus = some 0 ∧ ks.length = (kdescs img).length ∧
      (∀ k ∈ ks, k.vmid = vmid) ∧ (∀ k ∈ ks, k ∈ t.cur.kernels) ∧ t.cur.core = s.cur.core ∧ t.cur.disp = s.cur.disp ∧
      ∀ k ∈ t.cur.kernels, k ∈ ks ∨ k ∈ s.cur.kernels) ∧
    (field img 0 4 ≠ 0x4F4B4C46 → st = 1) ∧
    (field img 0 4 = 0x4F4B4C46 → field img 4 2 ≠ 1 ∨ field img 6 2 ≠ 0 → st = 2)

/-- R24, R99, R100, R364, R388, R256: the policy's choice is placed, and a fresh context begins at the kernel's entry, at
level 0, with its argument and indices, the device's handler, and nothing pending; an Oasis instance at the word after the
entry with its argument, index and core in O0 to O2. Another launch's turn changes nothing. How the policy breaks ties is the
model's (log 47). -/
def Sys2Proof.Claim.GroupsPlaced : Prop :=
  (∀ (s : State) (l : Launch) g base, chosen s l g base → l.level = 0 → (chargeAll s.cur).disp.saved? l.id g = none →
    ∃ t, exec (.groupPlace l.id) s = .next t ∧ placedAs s t l g base l.gsize false ∧
      (base ≤ s.cur.core.num → s.cur.core.num < base + l.gsize →
        let c := t.cur.core
        c.status = .running ∧ c.num = s.cur.core.num ∧ c.pc = l.kernel.entry ∧ c.tlevel = 0 ∧ c.karg = BitVec.ofNat 64 l.args ∧
          c.inst = g * l.gsize + (s.cur.core.num - base) ∧ c.sidx = l.sidx (g * l.gsize + (s.cur.core.num - base)) ∧
          c.launch = l.id ∧ c.kernel = some l.kernel ∧ c.s = [] ∧ c.loops = [] ∧ c.bank0 = [] ∧ c.eng = [] ∧ c.marks = [] ∧
          t.cur.mem.l1 = [] ∧ (spWf 0 s.cur.quad.split = true → t.cur.quad.splitOf (s.cur.core.num % 4) = l.split)) ∧
      (s.cur.core.num < base ∨ base + l.gsize ≤ s.cur.core.num → t.cur.core = s.cur.core)) ∧
  (∀ (s : State) (l : Launch) g base, chosen s l g base → l.level = 1 → (chargeAll s.cur).disp.saved? l.id g = none →
    ∃ t, exec (.oasisInstPlace l.id) s = .next t ∧ placedAs s t l g base 1 true ∧ t.cur.quad = s.cur.quad ∧ t.cur.core = s.cur.core ∧
      (base ≠ s.cur.oas.num → t.cur.oas = s.cur.oas ∧ t.cur.mem.dram = s.cur.mem.dram) ∧
      (base = s.cur.oas.num → let o := t.cur.oas
        o.status = .running ∧ o.num = base ∧ o.pc = l.kernel.entry + 16 ∧ o.inst = g ∧ o.vmid = l.vmid ∧ o.launch = l.id ∧
          spGet 0 o.o 0 = BitVec.ofNat 64 l.args ∧ spGet 0 o.o 1 = BitVec.ofNat 64 g ∧ spGet 0 o.o 2 = BitVec.ofNat 64 base ∧
          o.ops = [] ∧ o.flight = [] ∧ o.stack = [])) ∧
  ∀ (s : State) id, (∀ l g base, chosen s l g base → l.id ≠ id) →
    exec (.groupPlace id) s = .next s ∧ exec (.oasisInstPlace id) s = .next s

/-- R36, R37, R256, R391 to R393, R405: a saved group that the policy chooses goes on with the saved state, what its device's
record says of it taken again; scratchpads left in place stand there. -/
def Sys2Proof.Claim.GroupsResume : Prop :=
  ∀ (s : State) (l : Launch) g base (v : Saved), chosen s l g base → (chargeAll s.cur).disp.saved? l.id g = some v →
    ∃ t, exec (.groupResume l.id g) s = .next t ∧ (∀ w ∈ t.cur.disp.saved, w.launch = l.id → w.group = g → ∃ w' ∈ s.cur.disp.saved,
        w' ≠ v ∧ w'.launch = l.id ∧ w'.group = g) ∧
      (l.level = 1 → placedAs s t l g base 1 true ∧ ∀ o, v.oasis = some o → base = s.cur.oas.num → t.cur.oas = { o with num := base }) ∧
      (l.level = 0 → placedAs s t l g base l.gsize false) ∧
      (l.level = 0 → ∀ c, v.core = some c → base ≤ c.num → c.num < base + l.gsize →
        t.cur.core = { c with
          status := .running, thandler := BitVec.ofNat 64 (t.cur.mem.vdev l.vmid 16 8)
          thsize := BitVec.ofNat 64 (t.cur.mem.vdev l.vmid 24 8), zeroed := t.cur.mem.vdev l.vmid 0 4 / 2 % 2 == 1 }) ∧
      (l.level = 0 → base = v.base → (∀ x ∈ v.splits, ∀ k ∈ eighthsOf x.1 x.2, k ∈ v.left) →
        (∀ r ∈ s.cur.ranks base l.gsize, ∃ x ∈ v.splits, x.1 = r) → t.cur.quad.sp = s.cur.quad.sp)

/-- R26, R35 to R37, R361, R390 to R392: a member halts at a point of pre-emption once its group is asked; when all have, and
their started work is complete, the group is saved, and a PKG_GANG launch's other groups with it: every register but the v and w
registers outside the live masks, and the engine operations, which have not started, or are a CSEND to the context itself that is
stored; the group leaves its cores, its eighths and array state in place. A request that is not met in time is withdrawn, of every
group of the launch. -/
def Sys2Proof.Claim.GroupsPreempted : Prop :=
  (∀ (s : State) (p : Placed), let n := s.cur.core.num
    n < 144 → s.cur.disp.groupOf n false = some p → n ∉ p.halted → n ∉ p.retired →
      (p.preempt.isSome = true → s.cur.core.atHalt = true → ∃ t q, exec (.memberHalt n) s = .next t ∧ t.cur.core.status = .halted ∧
        t.cur.core = { s.cur.core.settleLoads with status := .halted } ∧ t.cur.disp.groupOf n false = some q ∧ n ∈ q.halted) ∧
      (p.preempt = none ∨ s.cur.core.atHalt = false → exec (.memberHalt n) s = .next s)) ∧
  (∀ (s : State) (p : Placed) n oasis, n < 144 → n ≠ (if oasis then s.cur.oas.num else s.cur.core.num) →
    s.cur.disp.groupOf n oasis = some p → n ∉ p.halted → n ∉ p.retired → p.preempt.isSome = true →
      ∃ t q, exec (.memberHalt (if oasis then 144 + n else n)) s = .next t ∧ t.cur.core = s.cur.core ∧ t.cur.oas = s.cur.oas ∧
        t.cur.disp.groupOf n oasis = some q ∧ n ∈ q.halted) ∧
  (∀ (s : State) (p : Placed), let n := s.cur.core.num
    s.cur.disp.placed? p.launch p.group = some p → p.oasis = false → p.covers n = true → n ∈ p.halted →
    (∀ q ∈ s.cur.disp.together p, q.preempt.isSome = true ∧ q.stopped = true ∧ (q ≠ p → q.covers n = false)) → s.cur.drained = true →
    ∃ t v c, exec (.groupSave p.launch p.group) s = .next t ∧ v ∈ t.cur.disp.saved ∧ v.launch = p.launch ∧ v.group = p.group ∧
      v.base = p.base ∧ v.core = some c ∧ c = { s.cur.core with v := c.v, w := c.w, eng := c.eng } ∧
      (∀ r, r < 64 → (liveMasks s.cur.core).1.getLsbD r = true → ∀ k, k < 256 →
        spGet 0 c.v (256 * s.cur.core.physV r + k) = spGet 0 s.cur.core.v (256 * s.cur.core.physV r + k)) ∧
      (∀ r, r < 64 → (liveMasks s.cur.core).2.getLsbD r = true → ∀ k, k < 256 →
        spGet 0 c.w (256 * s.cur.core.physW r + k) = spGet 0 s.cur.core.w (256 * s.cur.core.physW r + k)) ∧
      (∀ e ∈ c.v, e ∈ s.cur.core.v) ∧ (∀ e ∈ c.w, e ∈ s.cur.core.w) ∧
      c.eng.map (fun o => (o.id, o.ins, o.vals)) = s.cur.core.eng.map (fun o => (o.id, o.ins, o.vals)) ∧
      (∀ o ∈ c.eng, o.started = true → isCsend o = true ∧ s.cur.toSelf (o.vals.getD 0 0) = true) ∧
      (∀ x ∈ v.splits, ∀ k ∈ eighthsOf x.1 x.2, k ∈ v.left ∨ k ∈ phasePending s.cur.core) ∧
      (∀ r, r < p.size → p.base + r ≠ n → p.base + r ∉ p.retired → p.base + r ∈ v.away) ∧
      (∀ q ∈ s.cur.disp.together p, (∃ u ∈ t.cur.disp.saved, u.launch = q.launch ∧ u.group = q.group ∧ u.base = q.base) ∧
        q ∉ t.cur.disp.placed) ∧
      t.cur.core = { Core.reset with num := n } ∧ t.cur.quad.sp = s.cur.quad.sp ∧ t.cur.arr = s.cur.arr ∧
      (s.cur.mem.l2 = [] → t.cur.mem = { s.cur.mem with pads := t.cur.mem.pads })) ∧
  ∀ (s : State) (p : Placed), s.cur.disp.placed? p.launch p.group = some p → p.oasis = false → p.preempt.isSome = true →
    (∃ q ∈ s.cur.disp.together p, q.preempt = none ∨ q.stopped = false) →
    ∃ t q, exec (.abandonInterval p.launch p.group) s = .next t ∧ t.cur.disp.placed? p.launch p.group = some q ∧
      q = { p with preempt := none, halted := [], noAsk := s.cur.ftime + Config.preemptDelay.setWidth 64 } ∧
      (∀ q ∈ t.cur.disp.placed, (∃ r ∈ s.cur.disp.together p, r.launch = q.launch ∧ r.group = q.group) → q.preempt = none ∧ q.halted = []) ∧
      (p.halted.contains s.cur.core.num = true → s.cur.core.status = .halted → t.cur.core = { s.cur.core with status := .running }) ∧
      exec (.groupSave p.launch p.group) s = .next s

/-- R389, R390: a round credits each device that has work with its weight, up to twice that; waiting launches age by whole
intervals; a request to give up cores goes only to groups of less urgent launches, or of devices without credit, and moves
none of them. The order of victims is completed by the model (log 47). -/
def Sys2Proof.Claim.PolicyRounds : Prop :=
  (∀ s : State, ∃ t, exec .drrRound s = .next t ∧ t.cur.disp.roundAt = s.cur.ftime ∧ t.cur.disp.placed = s.cur.disp.placed ∧
    t.cur.disp.launches = s.cur.disp.launches ∧
    ∀ v, v < 96 → spWf 0 s.cur.disp.deficit = true → let w : Int := (s.cur.mem.vdev v 4 4 : Nat)
      let was := (chargeAll s.cur).disp.deficitOf v
      let works := (∃ p ∈ s.cur.disp.placed, s.cur.disp.vmidOf p.launch = v) ∨
        ∃ l ∈ s.cur.disp.launches, l.vmid = v ∧ (chargeAll s.cur).disp.waiting l = true
      (works → t.cur.disp.deficitOf v = min (was + w) (2 * w)) ∧ (¬works → t.cur.disp.deficitOf v = was) ∧
        (spWf 0 s.cur.disp.weight = true → (spGet 0 t.cur.disp.weight v : Nat) = s.cur.mem.vdev v 4 4)) ∧
  (∀ s : State, exec .ageingInterval s = .next (s.setDisp fun d => { d with launches := d.launches.map fun l =>
    if l.state = .ready then { l with aged := (s.cur.ftime - l.readyAt).toNat / Config.ageing.toNat } else l })) ∧
  ∀ (s : State) (i : Instr) (id : Nat) (l : Launch), i = .priorityPreempt id ∨ i = .timeSlicePreempt id →
    s.cur.disp.launch? id = some l → ∃ t, exec i s = .next t ∧ t.cur.core = s.cur.core ∧ t.cur.disp.launches = s.cur.disp.launches ∧
      t.cur.disp.placed.map (fun p => (p.launch, p.group, p.base)) = s.cur.disp.placed.map (fun p => (p.launch, p.group, p.base)) ∧
      ∀ p ∈ t.cur.disp.placed, p ∈ s.cur.disp.placed ∨ (p.preempt = some s.cur.ftime ∧
        (i = .priorityPreempt id → ∃ k, s.cur.disp.launch? p.launch = some k ∧ (k.vmid ≠ l.vmid ∨ l.cls < k.cls)) ∧
        (i = .timeSlicePreempt id → s.cur.disp.vmidOf p.launch ≠ l.vmid ∧
          (chargeAll s.cur).disp.deficitOf (s.cur.disp.vmidOf p.launch) ≤ 0))

/-- R26, R389 to R391: a launch of a device with credit that has waited longer than PREEMPT_DELAY, in READY or as a gang that
holds reservations, asks the first group in the order of R390 for its cores, where that one makes room; so does a launch whose
device has credit, of a group whose device has none and that has run longer than the slice. Among groups of its own device,
priority asks only those of a lower effective class. -/
def Sys2Proof.Claim.CoresAskedBack : Prop :=
  ∀ (s : State) (id : Nat) (l : Launch) (p : Placed), let m := chargeAll s.cur
    s.cur.disp.launch? id = some l → m.disp.waiting l = true → m.disp.served l.vmid = true →
    ((l.state = .ready ∨ (l.gang = true ∧ l.state = .placing)) → Config.preemptDelay.toNat < (s.cur.ftime - l.readyAt).toNat →
      oneMakesRoom m l (fun q => ∃ k, s.cur.disp.launch? q.launch = some k ∧ (k.vmid ≠ l.vmid ∨ l.cls < k.cls)) p →
      ∃ t, exec (.priorityPreempt id) s = .next t ∧ asksOnly s t p) ∧
    (oneMakesRoom m l (fun q => m.disp.vmidOf q.launch ≠ l.vmid ∧ m.disp.deficitOf (m.disp.vmidOf q.launch) ≤ 0 ∧
        Config.slice.toNat < (s.cur.ftime - q.placedAt).toNat) p →
      ∃ t, exec (.timeSlicePreempt id) s = .next t ∧ asksOnly s t p)

namespace Sys2Proof.Claim

/-- Nothing but the next bundle stands before the followed context (R35, R41, R153, R160, R372). -/
def atBundle (s : State) : Prop :=
  s.turn = .main ∧ s.idle ∧ s.cur.killedHere = false ∧ s.cur.core.binit = none ∧
    s.cur.core.empties = 0 ∧ s.cur.core.endDue = false ∧ s.cur.core.status = .running ∧ s.cur.haltsHere = false ∧ s.cur.core.lost = none

/-- The PC is where a bundle may stand: a multiple of 4, and the first word within the code range of the level (R47). -/
def pcInRange (s : State) : Prop :=
  s.cur.core.pc.toNat % 4 = 0 ∧ s.cur.core.range.1 ≤ s.cur.core.pc.toNat ∧
    s.cur.core.pc.toNat + 4 ≤ s.cur.core.range.1 + s.cur.core.range.2

/-- The state in which a bundle's slots read and write: its length and SAFE bit noted, its transfer consumed, and its issue
cycle begun (R47, R48). -/
def issuing (s : State) (h : Header) : State := (s.setCore fun c => { c with blen := h.len, safe := h.safe, xfer := none }).beginIssue

/-- A step goes on with what follows the slots. -/
def thenFinish (o : Host.Outcome State Fault Refusal) : Host.Outcome State Fault Refusal := match o with
  | .next t => .next t.finish
  | .fault r => .fault r
  | .refused r => .refused r

/-- Nothing but the next word stands before the followed Oasis core (R327, R333, R346). -/
def atWord (s : State) : Prop :=
  s.turn = .oasis ∧ s.idle ∧ s.cur.oas.landing = [] ∧ s.cur.oas.status = .running ∧
    s.cur.killedOas = false ∧ s.cur.oas.yielded = false ∧ s.cur.oas.jump = none ∧
    (s.cur.oas.pc - s.cur.oas.base).toNat + 16 ≤ 16 * s.cur.oas.words

/-- The state in which a word's moves read and write. -/
def wordIssuing (s : State) (l : List (Nat × FMv)) : State :=
  { s.passTime with snap := some s.passTime.cur, verdict := .go }.setOas fun o => { o.prewrite l with jump := none, wrote := 0 }

/-- A slot instruction of the family that R363 keeps to privileged contexts. -/
inductive PrivilegedOnly : Instr → Prop
  | eret (f : FR) : PrivilegedOnly (.eret f)
  | pcsrr (f : FR) : PrivilegedOnly (.pcsrr f)
  | pcsrw (f : FR) : PrivilegedOnly (.pcsrw f)
  | tlbinv (f : FR) : PrivilegedOnly (.tlbinv f)
  | csrr (f : FR) : 0x100 ≤ f.csrn → PrivilegedOnly (.csrr f)
  | csrw (f : FR) : 0x100 ≤ f.csrn → PrivilegedOnly (.csrw f)

/-- Words that the spec writes out (R54, R140, R141, R154, R187, R188, R195, R252, R287), by slot, word and literal. -/
def specWords : List (Slot × BitVec 64 × Option (BitVec 32) × Instr) := [
  (.s0, 0x00051460, none, .add ⟨0, 5, 5, 6, 0, 0, none⟩),
  (.s0, 0x4A041000, some 0x000186A0, .addi ⟨0, 4, 4, 0, some 100000⟩),
  (.s0, 0x60041234, none, .lih ⟨0, 4, 0x1234, none⟩),
  (.s0, 0x0A031058, none, .div ⟨0, 3, 4, 5, 1, 0, none⟩),
  (.s0, 0x80113FFA, none, .br ⟨0, 2, 9, 0x1FFA, none⟩),
  (.s0, 0x942A0000, some 0x1000, .qsetf ⟨0, 42, 0, 0, 0, 0, some 0x1000⟩),
  (.s1, 0x88070804, none, .ldw ⟨0, 7, 2, 4, none⟩),
  (.s1, 0xA00628BA, none, .amoadd ⟨0, 6, 10, 11, 1, 2, none⟩),
  (.s1, 0x9807090B, none, .ld ⟨0, 7, 2, 1, 0, 1, 3, none⟩),
  (.s1, 0xB60C0C00, none, .barr ⟨0, 12, 3, 0, 0, 0, none⟩),
  (.l, 0x00084802, none, .ldsc ⟨0, 4, 9, 2, none⟩),
  (.v0, 0x082100C0C1014000, none, .vfma .v0 ⟨0, 2, 1, 0, 3, 3, 4, 5, 0, 0, 0⟩),
  (.v1, 0x0020020202400000, none, .vadd .v1 ⟨0, 2, 0, 0, 8, 8, 9, 0, 0, 0, 0⟩),
  (.v0, 0x6411028101400007, none, .vsort .v0 ⟨0, 1, 1, 0, 10, 4, 5, 0, 0, 0, 7⟩),
  (.x, 0x000000C080000002, none, .xrcp ⟨0, 0, 0, 0, 3, 2, 0, 0, 0, 0, 2⟩),
  (.x, 0x0200000040000051, none, .xmov ⟨0, 0, 0, 0, 0, 1, 0, 0, 0, 0, 0x51⟩),
  (.d, 0x0000040600020000, none, .dcpy ⟨0, 0, 0, 0, 0, 8, 3, 0, 0, 0x20000, none⟩),
  (.d, 0x0A00028000020000, some 0x3F803F80, .dfill ⟨0, 0, 0, 0, 0, 5, 0, 0, 0, 0x20000, some 0x3F803F80⟩),
  (.m, 0x000124800004C000, none, .gemms ⟨0, 0, 1, 0, 1, 9, 0, 0, 0, 0x4C000, none⟩),
  (.m, 0x06000380001C0000, none, .mstc ⟨0, 0, 0, 0, 0, 7, 0, 0, 0, 0x1C0000, none⟩)]

end Sys2Proof.Claim

/-! ## Traps, privilege and refusals (02_execution_model.md, 22_privileged_state_and_traps.md) -/

/-- R61, R69, R366, R368 to R370: a precise fault of a bundle. Nothing of the bundle stands. From level 0 with a handler, and from
level 1, the next level begins at the handler, with cause and level in TCAUSE, the bundle's PC in TEPC and the value in TVAL; the fault marks of registers are cleared; its
scratch register, every general register, every pending entry and loop level, and every byte of memory are as they were when
the bundle began. -/
def Sys2Proof.Claim.TrapEntry : Prop :=
  ∀ (s : State) (cause : Nat) (tval : Word), cause < 256 → let m := s.rd
    let t := s.raise cause tval
    t.verdict = .done ∧
    (m.core.tlevel = 0 → m.core.thandler ≠ 0 →
      t.cur = { m with core := t.cur.core, pool := [] } ∧ t.cur.core.tlevel = 1 ∧ t.cur.core.pc = m.core.thandler ∧
        t.cur.core.trap1 = { m.core.trap1 with cause := BitVec.ofNat 64 cause, epc := m.core.pc, val := tval } ∧
        t.cur.core.trap2 = m.core.trap2) ∧
    (m.core.tlevel = 1 →
      t.cur = { m with core := t.cur.core, pool := [] } ∧ t.cur.core.tlevel = 2 ∧ t.cur.core.pc = m.core.thandler ∧
        t.cur.core.trap2 = { m.core.trap2 with cause := BitVec.ofNat 64 (512 + cause), epc := m.core.pc, val := tval } ∧
        t.cur.core.trap1 = m.core.trap1) ∧
    (m.core.tlevel = 1 ∨ (m.core.tlevel = 0 ∧ m.core.thandler ≠ 0) →
      t.cur.core.marks = [] ∧ t.cur.core.s = m.core.s ∧ t.cur.core.v = m.core.v ∧ t.cur.core.w = m.core.w ∧ t.cur.core.x = m.core.x ∧ t.cur.core.m = m.core.m ∧
        t.cur.core.c = m.core.c ∧ t.cur.core.vm = m.core.vm ∧ t.cur.core.wm = m.core.wm ∧ t.cur.core.vrow = m.core.vrow ∧
        t.cur.core.bank0 = m.core.bank0 ∧ t.cur.core.bank1 = m.core.bank1 ∧ t.cur.core.loops = m.core.loops ∧
        t.cur.core.sb = m.core.sb ∧ t.cur.core.eng = m.core.eng ∧ t.cur.core.memq = m.core.memq ∧ t.cur.core.tsave = m.core.tsave ∧
        t.cur.core.kstat = m.core.kstat)

/-- R368, R369, R372, R373: a fault at level 2, or at level 0 without a handler, kills the launch: the context stops, its banks are gone,
engine work that has not started is dropped, and the launch is killed; the first kill writes the record, and of kills in one cycle
the one of the lowest core. -/
def Sys2Proof.Claim.FaultKills : Prop :=
  ∀ (s : State) (cause : Nat) (tval : Word), let m := s.rd
    let t := s.raise cause tval
    (m.core.tlevel = 2 ∨ (m.core.tlevel = 0 ∧ m.core.thandler = 0)) →
      t.verdict = .done ∧ t.cur.core.status = .idle ∧ t.cur.core.tlevel = 0 ∧ t.cur.core.bank0 = [] ∧ t.cur.core.bank1 = [] ∧
        t.cur.core.bank2 = [] ∧ t.cur.core.loops = [] ∧ (∀ o ∈ t.cur.core.eng, o.started = true ∧ o ∈ m.core.eng) ∧
        t.cur.core.memq = m.core.memq ∧ t.cur.core.s = m.core.s ∧ t.cur.quad = m.quad ∧
        ∀ l, m.disp.launch? m.core.launch = some l → ∃ k, launchIs t m.core.launch k ∧
          let later := l.killed = true ∧ ∀ n, l.killer = some (n, m.cycle) → n ≤ m.core.num
          (later → k = l ∧ t.cur.mem = m.mem) ∧
          (¬later → k = { l with killed := true, killer := some (m.core.num, m.cycle) } ∧
            ∃ record, t.cur.mem = m.mem.store l.killAt.2 l.killAt.1 record ∧ record.length = 128 ∧
              field record 0 4 = 1 ∧ field record 4 2 = m.core.num % 2 ^ 16 ∧ field record 6 1 = (if m.core.tlevel = 0 then 1 else 0) ∧
              field record 8 8 = m.core.inst % 2 ^ 64 ∧ (cause < 256 → field record 64 8 = 512 * m.core.tlevel + cause) ∧
              field record 72 8 = m.core.pc.toNat ∧ field record 80 8 = tval.toNat ∧ field record 88 8 = m.cycle.toNat ∧
              field record 104 8 = m.core.kstat.toNat ∧
              (m.core.tlevel = 0 → field record 16 48 = 0) ∧
              (m.core.tlevel = 2 → field record 16 8 = m.core.trap1.cause.toNat ∧ field record 24 8 = m.core.trap1.epc.toNat ∧
                field record 40 8 = m.core.trap2.cause.toNat ∧ field record 48 8 = m.core.trap2.epc.toNat))

/-- R61, R363: an encoding that its context may not run or that the checks refuse, or a port of the wrong direction, raises the cause, in the order
of step 2 (R55), whatever the instruction, with
nothing else done; the instructions that R363 keeps to privileged contexts raise 0x0D in any other. -/
def Obligations.RefusedEncodings : Prop :=
  (∀ (i : Instr) (s : State) (cause : Nat), (slotOf i).isSome = true → s.reached → s.rd.core.checks i = some cause →
    ∃ v, exec i s = .next (s.raise cause v)) ∧
  (∀ (i : Instr) (s : State), PrivilegedOnly i → s.reached → s.rd.core.priv = false →
    ∃ v, exec i s = .next (s.raise 0x0D v)) ∧
  ∀ c : Core, c.priv = true ↔ c.tlevel ≠ 0 ∨ (c.sysq = true ∧ ∃ k, c.kernel = some k ∧ k.priv = true)

/-! ## The whole machine -/

/-- The machine after reset is sound. It lists nothing, follows an idle core at level 0 and an idle Oasis core, and no feature is
accepted (R411, R418); the values that the spec does not give are the model's (log 2). -/
def Obligations.ResetSound : Prop :=
  State.reset.Inv ∧ State.reset.cur.core.status = .idle ∧ State.reset.cur.core.tlevel = 0 ∧ State.reset.cur.oas.status = .idle ∧
    State.reset.cur.mem.dram = [] ∧ State.reset.cur.quad.sp = [] ∧ State.reset.cur.disp.launches = [] ∧
    State.reset.cur.info.accepted = false ∧ State.reset.cur.info.state = 0 ∧
    (∀ n, State.reset.cur.core.readS n = 0) ∧ (∀ n, State.reset.cur.core.lanes false n = BitVec.allOnes 128)

/-- R45 to R48, R61, R63: the bundle at the PC that decodes and passes its checks issues: step runs the decoded instruction of
each slot, in slot order but with TRAP and a handler's ERET last, on the machine as the cycle's beginning leaves it, and then
what follows the bundle. With an illegal header, or a bundle that a check refuses, it takes that fault and nothing issues; where
the first word cannot be fetched it takes that cause, and it stalls while a walk or a register is awaited. The
place of cause 0x07 among the checks (log 17) and the TVAL of unreadable words (log 33, 38) are the model's readings. -/
def Sys2Proof.Claim.StepRunsBundle : Prop :=
  ∀ (s u : State) (w : BitVec 32), atBundle s → pcInRange s →
    let t := { s with turn := .any }
    let pc := s.cur.core.pc.toNat
    let h := decHeader w
    (∀ cause va, t.fetch 1 pc = (u, .error (cause, va)) →
      step s = .next (if cause = 0 then u.stallCycle coreIdle else (u.raise cause va).close)) ∧
    (t.fetch 1 pc = (u, .ok [w]) →
      ((h.ok = false ∨ s.cur.core.range.1 + s.cur.core.range.2 < pc + h.len) →
        ∃ v, step s = .next (u.raise 0x01 v).close) ∧
      (h.ok = true → pc + h.len ≤ s.cur.core.range.1 + s.cur.core.range.2 → ∀ v ws, u.fetch (h.len / 4 - 1) (pc + 4) = (v, .ok ws) →
        let l := decSlots h allSlots ws
        let c := v.cur.core
        (∀ cause tval, bundleFault c l = some (cause, tval) → step s = .next (v.raise cause tval).close) ∧
        (bundleFault c l = none → (∃ x ∈ l, slotWaits c x = true) → step s = .next (v.stallCycle coreIdle)) ∧
        (bundleFault c l = none → (∀ x ∈ l, slotWaits c x = false) → c.xfer = none ∨ h.tgt = true →
          (l = [] → step s = thenFinish (exec .empty (issuing v h))) ∧
          (∀ x i, l = [x] → x.ins = some i → step s = thenFinish (exec i ((issuing v h).inSlot x.slot))) ∧
          (l ≠ [] → step s = thenFinish (runSlots
            (l.filter (fun x => !endsBundle (issuing v h).rd.core x) ++ l.filter (endsBundle (issuing v h).rd.core)) (issuing v h)))) ∧
        (bundleFault c l = none → (∀ x ∈ l, slotWaits c x = false) → h.tgt = false → ∀ from_, c.xfer = some from_ →
          step s = .next (v.raise 0x07 from_).close)) ∧
      ∀ (x : SlotWord) (i : Instr) (l : List SlotWord) (a b : State), x.ins = some i → exec i (a.inSlot x.slot) = .next b →
        runSlots (x :: l) a = runSlots l b ∧ runSlots [] a = .next a)

/-- R327, R331 to R333: a word of the Oasis core that passes its checks runs its moves: those that trigger nothing first, then
the triggers in slot order; each move is the instruction that its destination port names. A word that a check refuses faults;
one that reads what is not yet there waits a cycle. Where a move reads a poisoned result, the order is R332's.
That a word waits before its values' faults is the model's reading (log 44). -/
def Sys2Proof.Claim.StepRunsWord : Prop :=
  (∀ (f : FMv) (s : State), moveMeaning f.dst.toNat f s = exec (rowMove f.dst.toNat f) s) ∧
  (∀ s : State, atWord s → let t := { s with turn := .any }
    let l := wordMoves 0 (spGets 0 s.cur.oas.code ((s.cur.oas.pc - s.cur.oas.base).toNat / 4) 4)
    (∀ cause tval, wordFault s.cur.oas l = some (cause, tval) → step s = .next (t.oasFault cause tval).close) ∧
    (wordFault s.cur.oas l = none → (∃ x ∈ l, s.cur.oas.passes x.2 = true ∧ s.cur.oas.waits x.2 = true) → step s = .next t.passTime) ∧
    (wordFault s.cur.oas l = none → (∀ x ∈ l, s.cur.oas.passes x.2 = true → s.cur.oas.waits x.2 = false) →
      step s = match runMoves (moveOrder s.cur.oas l) (wordIssuing t l) with
        | .next u => .next u.finishWord
        | .fault r => .fault r
        | .refused r => .refused r)) ∧
  (∀ (o : Oasis) (l : List (Nat × FMv)), (∀ x ∈ l, o.readsPoison x.2 = false) → o.prewrite l = o ∧
    moveOrder o l = (l.filter fun x => !triggerPorts.contains x.2.dst.toNat) ++ l.filter fun x => triggerPorts.contains x.2.dst.toNat) ∧
  ∀ (o : Oasis), (finishWord o).pc = o.jump.getD (o.pc + 16) ∧ (finishWord o).flight.map (·.left) = o.flight.map (·.left - 1)

/-- Words that the spec writes out decode to the instructions that it gives them (R54, R140, R141, R154, R187, R188, R195, R252,
R287). -/
def Obligations.SpecWordsDecode : Prop := ∀ x ∈ specWords, decodeSlot x.1 x.2.1 x.2.2.1 = some x.2.2.2 ∧ encodeWord x.2.2.2 = x.2.1

/-- R45, R46, R49 to R56, R70 to R75, R327, R328: decoding the words of a well-formed instruction gives it back, with every operand
at every value that the encoding admits, a common-block instruction in either scalar slot, a move by its port; and a word that
decodes is the word of what it decodes to, so that no bit is dropped and no two words share a meaning. -/
def Obligations.EncodeDecode : Prop :=
  (∀ (i : Instr) (k : Slot), i.wf = true → slotOf i = some k → decodeWords k (literalOf i).isSome (encode i) = some i) ∧
  (∀ (i : Instr) op f, view i = .sR .common op f → decodeSlot .s1 (encodeWord i) f.lit = some i) ∧
  (∀ (i : Instr) f, i.wf = true → view i = .move f → decodeMove ((encodeWord i).setWidth 32) f.lit = i) ∧
  (∀ (k : Slot) (w : BitVec 64) lit i, decodeSlot k w lit = some i → (k.narrow = true → w.toNat < 2 ^ 32) → encodeWord i = w) ∧
  ∀ (w : BitVec 32) lit, (encodeWord (decodeMove w lit)).setWidth 32 = w

/-- Every step goes on: the machine has no state in which it stops (R61, R68, R369). -/
def Sys2Proof.Claim.StepGoesOn : Prop := ∀ s : State, ∃ t, step s = .next t

/-- R43, R293: a step that no issue asks for is one of the things that may happen. What must happen in the end and has been passed
over for as long as the machine allows is taken before everything that has waited less; what is passed over has waited one
step longer. How long that is, and the choice otherwise, are the model's free values (log 7). -/
def Sys2Proof.Claim.FairPicks : Prop :=
  ∀ s : State, let l := s.cur.picks
    ∃ p ∈ l, ∃ t : State, t.cur = s.cur ∧ t.turn = s.turn ∧ t.snap = s.snap ∧ t.verdict = s.verdict ∧ s.anyStep = runPick p t ∧
      (∀ q ∈ l, q.promised = true → Config.patience ≤ waited s.waits q →
        p.promised = true ∧ waited s.waits q ≤ waited s.waits p) ∧
      ∀ q ∈ l, q.promised = true → q ≠ p → waited t.waits q = waited s.waits q + 1

/-- Every step leaves nothing half issued (R48, R61, R331). -/
def Obligations.StepKeepsIdle : Prop := ∀ s t : State, s.idle → step s = .next t → t.idle

/-- Every step of a sound state keeps the DRAM and the scratchpads in canonical form: equal contents are equal data. -/
def Sys2Proof.Claim.StepKeepsMemory : Prop := ∀ s t : State, s.Inv → step s = .next t → t.cur.memWf

/-- Every step of a sound state keeps the followed context, and each saved one, at a trap level that R363 knows, with its register
files in canonical form. -/
def Sys2Proof.Claim.StepKeepsCores : Prop := ∀ s t : State, s.Inv → step s = .next t → t.cur.coresOk

/-! ## Statements made of the parts above, each part under its own rules -/

/-- Select, extend, immediate forms, LI and LIH, in two parts: Claim.SelectAndExtend and Claim.ImmediateResults. -/
def Obligations.ScalarMoves : Prop := Claim.SelectAndExtend ∧ Claim.ImmediateResults

/-- Scalar float operations, conversions and classes, in two parts: Claim.FloatResults and Claim.ConvertAndClass. -/
def Obligations.FloatAndConvert : Prop := Claim.FloatResults ∧ Claim.ConvertAndClass

/-- What scalar, copy, vector and X instructions leave alone, in three parts: Claim.ScalarFrame, Claim.CopyFrame,
Claim.VectorFrame. -/
def Obligations.Frames : Prop := Claim.ScalarFrame ∧ Claim.CopyFrame ∧ Claim.VectorFrame

/-- When a result is read, and which register a name means, in two parts: Claim.ExposedVisibility and Claim.Rotation. -/
def Obligations.RegisterViews : Prop := Claim.ExposedVisibility ∧ Claim.Rotation

/-- Reads and writes of the CSRs, in two parts: Claim.CsrReads and Claim.CsrWrites. -/
def Obligations.CsrAccess : Prop := Claim.CsrReads ∧ Claim.CsrWrites

/-- What a handler does to the frozen bank and the translations, in two parts: Claim.FrozenBankAccess and Claim.TlbInvalidates. -/
def Obligations.HandlerAccess : Prop := Claim.FrozenBankAccess ∧ Claim.TlbInvalidates

/-- Shape fields, port fields and element transfers, in three parts: Claim.ShapeFieldWrite, Claim.PortConfigures,
Claim.ElementTransfers. -/
def Obligations.CopiesAndPorts : Prop := Claim.ShapeFieldWrite ∧ Claim.PortConfigures ∧ Claim.ElementTransfers

/-- Control transfers and the next bundle, in two parts: Claim.TransferEffects and Claim.NextBundle. -/
def Obligations.TransfersAndNext : Prop := Claim.TransferEffects ∧ Claim.NextBundle

/-- Opening and ending loop levels, in two parts: Claim.LoopOpens and Claim.ExecutionEnds. -/
def Obligations.LoopLevels : Prop := Claim.LoopOpens ∧ Claim.ExecutionEnds

/-- TRAP and ERET, in two parts: Claim.SoftwareTrap and Claim.TrapReturn. -/
def Obligations.TrapAndReturn : Prop := Claim.SoftwareTrap ∧ Claim.TrapReturn

/-- What array and region operations leave behind, in three parts: Claim.ArrayWrites, Claim.SampleWrites, Claim.RegionWrites. -/
def Obligations.ArrayAndRegionWrites : Prop := Claim.ArrayWrites ∧ Claim.SampleWrites ∧ Claim.RegionWrites

/-- Scalar loads from the quad window and from memory, and acquires, in three parts: Claim.LoadsFromScratchpad,
Claim.LoadsFromMemory, Claim.AcquireLoads. -/
def Obligations.LoadsAndAcquires : Prop := Claim.LoadsFromScratchpad ∧ Claim.LoadsFromMemory ∧ Claim.AcquireLoads

/-- Stores and release stores are queued with their address and data, in two parts: Claim.StoreEffects and Claim.ReleaseStores. -/
def Obligations.StoresAndReleases : Prop := Claim.StoreEffects ∧ Claim.ReleaseStores

/-- What performing a store writes, in three parts: Claim.HomeWriteReadsBack, Claim.StorePerformed, Claim.ReleaseAndAcknowledge.
-/
def Obligations.WritesPerformed : Prop := Claim.HomeWriteReadsBack ∧ Claim.StorePerformed ∧ Claim.ReleaseAndAcknowledge

/-- Atomic operations, in two parts: Claim.Atomics and Claim.AtomicPerformed. -/
def Obligations.AtomicsPerformed : Prop := Claim.Atomics ∧ Claim.AtomicPerformed

/-- Barrier instructions and QPUSH, in two parts: Claim.BarrierInstructions and Claim.BarrierFaultsAndPush. -/
def Obligations.BarrierInstructions : Prop := Claim.BarrierInstructions ∧ Claim.BarrierFaultsAndPush

/-- Elementwise vector operations, compares and VMACW, in three parts: Claim.ElementwiseResults, Claim.CompareResults,
Claim.MultiplyAccumulate. -/
def Obligations.ElementwiseAndCompares : Prop := Claim.ElementwiseResults ∧ Claim.CompareResults ∧ Claim.MultiplyAccumulate

/-- What data operations leave behind, in three parts: Claim.EngineWritesHome, Claim.DataWrites, Claim.CacheOps. -/
def Obligations.EngineWrites : Prop := Claim.EngineWritesHome ∧ Claim.DataWrites ∧ Claim.CacheOps

/-- Rearrangement, numbering, packing, in two parts: Claim.RearrangementResults and Claim.NumberAndPack. -/
def Obligations.RearrangeAndPack : Prop := Claim.RearrangementResults ∧ Claim.NumberAndPack

/-- Reductions and statistics, in two parts: Claim.ReductionResults and Claim.StatisticsResults. -/
def Obligations.ReductionsAndStatistics : Prop := Claim.ReductionResults ∧ Claim.StatisticsResults

/-- Operands and destinations of vector instructions, in two parts: Claim.VectorOperands and Claim.RowGroupsLand. -/
def Obligations.VectorRows : Prop := Claim.VectorOperands ∧ Claim.RowGroupsLand

/-- Scale loads and XMOV, in two parts: Claim.ScaleLoads and Claim.RowMoves. -/
def Obligations.ScaleAndRowMoves : Prop := Claim.ScaleLoads ∧ Claim.RowMoves

/-- What bars the issue of an engine operation, in two parts: Claim.EngineIssueChecked and Claim.PhaseIssue. -/
def Obligations.EngineIssueGuards : Prop := Claim.EngineIssueChecked ∧ Claim.PhaseIssue

/-- Collective operations and messages, in two parts: Claim.CollectiveIssue and Claim.MessageLife. -/
def Obligations.Messages : Prop := Claim.CollectiveIssue ∧ Claim.MessageLife

/-- Engine operations run and complete, in three parts: Claim.EngineRuns, Claim.EngineProgress, Claim.OtherWriters. -/
def Obligations.EngineLife : Prop := Claim.EngineRuns ∧ Claim.EngineProgress ∧ Claim.OtherWriters

/-- Results of the Oasis units, refresh and pre-emption, in two parts: Claim.OasisResults and Claim.OasisRefreshAndPreempt. -/
def Obligations.OasisCompletions : Prop := Claim.OasisResults ∧ Claim.OasisRefreshAndPreempt

/-- Cycles without an issue, results that arrive, and what happens next, in three parts: Claim.ScoreboardWrites,
Claim.SequencerCycles, Claim.FairPicks. -/
def Obligations.SequencerCycles : Prop := Claim.ScoreboardWrites ∧ Claim.SequencerCycles ∧ Claim.FairPicks

/-- Instances and launches end, in two parts: Claim.InstancesEnd and Claim.LaunchLife. -/
def Obligations.LaunchesEnd : Prop := Claim.InstancesEnd ∧ Claim.LaunchLife

/-- Host accesses and the control window, in two parts: Claim.FabricAccesses and Claim.ControlWindow. -/
def Obligations.FabricAndControl : Prop := Claim.FabricAccesses ∧ Claim.ControlWindow

/-- Bring-up, heat and power, in two parts: Claim.BringUpRebuilds and Claim.HeatAndPower. -/
def Obligations.BringUpAndHeat : Prop := Claim.BringUpRebuilds ∧ Claim.HeatAndPower

/-- Queues, launches and objects, in three parts: Claim.LaunchAcceptance, Claim.LaunchAccepted, Claim.ObjectsLoad. -/
def Obligations.LaunchesAndObjects : Prop := Claim.LaunchAcceptance ∧ Claim.LaunchAccepted ∧ Claim.ObjectsLoad

/-- Placement and resumption, in two parts: Claim.GroupsPlaced and Claim.GroupsResume. -/
def Obligations.GroupsPlaced : Prop := Claim.GroupsPlaced ∧ Claim.GroupsResume

/-- Pre-emption and the policy's rounds, in three parts: Claim.GroupsPreempted, Claim.PolicyRounds, Claim.CoresAskedBack. -/
def Obligations.GroupsPreempted : Prop := Claim.GroupsPreempted ∧ Claim.PolicyRounds ∧ Claim.CoresAskedBack

/-- Taking a trap, and the kill, in two parts: Claim.TrapEntry and Claim.FaultKills. -/
def Obligations.TrapEntry : Prop := Claim.TrapEntry ∧ Claim.FaultKills

/-- A step runs the decoded instructions, in two parts: Claim.StepRunsBundle and Claim.StepRunsWord. -/
def Obligations.StepRunsDecoded : Prop := Claim.StepRunsBundle ∧ Claim.StepRunsWord

/-- Every step keeps the machine sound, in three parts: Claim.StepGoesOn, Claim.StepKeepsMemory, Claim.StepKeepsCores. -/
def Obligations.StepKeepsSound : Prop := Claim.StepGoesOn ∧ Claim.StepKeepsMemory ∧ Claim.StepKeepsCores
end

