-- ==== Sys2Proof/Laws/Sparse.lean ====
section
/-! SUPPORT. Laws of sparse maps: what a write changes, and that it keeps the canonical form. -/

namespace Sys2Proof.Machine

variable {α : Type}

@[simp] theorem spGet_nil (d : α) (k : Nat) : spGet d [] k = d := rfl

/-- A write leaves every other key alone, whatever the map. -/
theorem spGet_spSet_ne [DecidableEq α] (d v : α) (n k : Nat) (h : k ≠ n) (m : Sp α) :
    spGet d (spSet d m n v) k = spGet d m k := by
  induction m with
  | nil => unfold spSet; split <;> simp [spGet, h]
  | cons e t ih =>
    obtain ⟨q, w⟩ := e
    unfold spSet
    split
    · split <;> simp [spGet, h]
    · split
      · next hq => subst hq; split <;> simp [spGet, h]
      · simp [spGet, ih]

theorem spAbove_get [DecidableEq α] (d : α) (k : Nat) : ∀ (m : Sp α) (lo : Nat), spAbove d lo m = true → k ≤ lo → spGet d m k = d
  | [], _, _, _ => rfl
  | (q, w) :: t, lo, h, hk => by
    simp only [spAbove, Bool.and_eq_true, decide_eq_true_eq] at h
    have : k ≠ q := by omega
    simp only [spGet, this, if_false]
    exact spAbove_get d k t q h.2 (by omega)

theorem spAbove_mono [DecidableEq α] (d : α) : ∀ (m : Sp α) (lo lo' : Nat), lo' ≤ lo → spAbove d lo m = true → spAbove d lo' m = true
  | [], _, _, _, _ => rfl
  | (q, w) :: t, lo, lo', h, hm => by
    simp only [spAbove, Bool.and_eq_true, decide_eq_true_eq] at hm ⊢
    exact ⟨⟨by omega, hm.1.2⟩, hm.2⟩

theorem spWf_of_above [DecidableEq α] (d : α) (lo : Nat) : ∀ m : Sp α, spAbove d lo m = true → spWf d m = true
  | [], _ => rfl
  | (q, w) :: t, h => by
    simp only [spAbove, Bool.and_eq_true, decide_eq_true_eq] at h
    simp [spWf, h.1.2, h.2]

/-- In canonical form a written key reads as what was written. -/
theorem spAbove_spGet_set [DecidableEq α] (d v : α) (n : Nat) : ∀ (m : Sp α) (lo : Nat), spAbove d lo m = true →
    spGet d (spSet d m n v) n = v
  | [], _, _ => by unfold spSet; split <;> simp_all [spGet]
  | (q, w) :: t, lo, h => by
    simp only [spAbove, Bool.and_eq_true, decide_eq_true_eq] at h
    unfold spSet
    split
    · next hq =>
      split
      · next hv =>
        subst hv
        have : n ≠ q := by omega
        simp only [spGet, this, if_false]
        exact spAbove_get v n t q h.2 (by omega)
      · simp [spGet]
    · split
      · next hq =>
        subst hq
        split
        · next hv => subst hv; exact spAbove_get v n t n h.2 (Nat.le_refl n)
        · simp [spGet]
      · next hq =>
        simp only [spGet, hq, if_false]
        exact spAbove_spGet_set d v n t q h.2

theorem spGet_spSet_self [DecidableEq α] (d v : α) (n : Nat) (m : Sp α) (h : spWf d m = true) :
    spGet d (spSet d m n v) n = v := by
  cases m with
  | nil => unfold spSet; split <;> simp_all [spGet]
  | cons e t =>
    obtain ⟨q, w⟩ := e
    simp only [spWf, Bool.and_eq_true, decide_eq_true_eq] at h
    unfold spSet
    split
    · next hq =>
      split
      · next hv =>
        subst hv
        have : n ≠ q := by omega
        simp only [spGet, this, if_false]
        exact spAbove_get v n t q h.2 (by omega)
      · simp [spGet]
    · split
      · next hq =>
        subst hq
        split
        · next hv => subst hv; exact spAbove_get v n t n h.2 (Nat.le_refl n)
        · simp [spGet]
      · next hq =>
        simp only [spGet, hq, if_false]
        exact spAbove_spGet_set d v n t q h.2

/-- Read after write. -/
theorem spGet_spSet [DecidableEq α] (d v : α) (n k : Nat) (m : Sp α) (h : spWf d m = true) :
    spGet d (spSet d m n v) k = if k = n then v else spGet d m k := by
  split
  · next e => subst e; exact spGet_spSet_self d v k m h
  · next e => exact spGet_spSet_ne d v n k e m

/-- Writing a value that is not the default reads back from any map. -/
theorem spGet_spSet_of_ne_default [DecidableEq α] (d v : α) (n : Nat) (hv : v ≠ d) (m : Sp α) :
    spGet d (spSet d m n v) n = v := by
  induction m with
  | nil => simp [spSet, spGet, hv]
  | cons e t ih =>
    obtain ⟨q, w⟩ := e
    unfold spSet
    rw [if_neg hv, if_neg hv]
    split
    · simp [spGet]
    · split
      · simp [spGet]
      · next hq => simp [spGet, hq, ih]

theorem spAbove_set [DecidableEq α] (d v : α) (n : Nat) : ∀ (m : Sp α) (lo : Nat), lo < n → spAbove d lo m = true →
    spAbove d lo (spSet d m n v) = true
  | [], lo, hn, _ => by unfold spSet; split <;> simp_all [spAbove]
  | (q, w) :: t, lo, hn, h => by
    simp only [spAbove, Bool.and_eq_true, decide_eq_true_eq] at h
    unfold spSet
    split
    · split
      · simp [spAbove, h]
      · next hq hv => simp [spAbove, h, hv, hq, hn]
    · split
      · next hq =>
        split
        · exact spAbove_mono d t q lo (by omega) h.2
        · next hv => subst hq; simp [spAbove, h, hv]
      · next h1 h2 =>
        simp only [spAbove, Bool.and_eq_true, decide_eq_true_eq]
        exact ⟨h.1, spAbove_set d v n t q (by omega) h.2⟩

/-- A write keeps the canonical form. -/
theorem spWf_spSet [DecidableEq α] (d v : α) (n : Nat) (m : Sp α) (h : spWf d m = true) : spWf d (spSet d m n v) = true := by
  cases m with
  | nil => unfold spSet; split <;> simp_all [spWf, spAbove]
  | cons e t =>
    obtain ⟨q, w⟩ := e
    simp only [spWf, Bool.and_eq_true, decide_eq_true_eq] at h
    unfold spSet
    split
    · split
      · simp [spWf, h]
      · next hq hv => simp [spWf, spAbove, h, hv, hq]
    · split
      · next hq =>
        split
        · exact spWf_of_above d q t h.2
        · next hv => subst hq; simp [spWf, h, hv]
      · next h1 h2 =>
        simp only [spWf, Bool.and_eq_true, decide_eq_true_eq]
        exact ⟨h.1, spAbove_set d v n t q (by omega) h.2⟩

theorem spWf_spSets [DecidableEq α] (d : α) : ∀ (l : List α) (m : Sp α) (n : Nat), spWf d m = true → spWf d (spSets d m n l) = true
  | [], _, _, h => h
  | v :: t, m, n, h => spWf_spSets d t _ _ (spWf_spSet d v n m h)

/-- A fold of writes keeps the canonical form. -/
theorem spWf_foldl_spSet [DecidableEq α] {β : Type} (d : α) (k : β → Nat) (v : Sp α → β → α) : ∀ (l : List β) (m : Sp α), spWf d m = true →
    spWf d (l.foldl (fun p x => spSet d p (k x) (v p x)) m) = true
  | [], _, h => h
  | _ :: t, m, h => spWf_foldl_spSet d k v t _ (spWf_spSet d _ _ m h)

/-- Consecutive keys read after they are written: the i-th value at the i-th key, every other key as before. -/
theorem spGet_spSets [DecidableEq α] (d : α) : ∀ (l : List α) (m : Sp α) (n k : Nat), spWf d m = true →
    spGet d (spSets d m n l) k = if n ≤ k ∧ k < n + l.length then l.getD (k - n) d else spGet d m k
  | [], m, n, k, _ => by
    have : ¬(n ≤ k ∧ k < n + ([] : List α).length) := by simp
    rw [if_neg this]; rfl
  | v :: t, m, n, k, h => by
    simp only [spSets]
    rw [spGet_spSets d t _ _ _ (spWf_spSet d v n m h), spGet_spSet d v n k m h, List.length_cons]
    by_cases hk : k = n
    · subst hk; simp
    · by_cases h1 : n + 1 ≤ k ∧ k < n + 1 + t.length
      · have h2 : n ≤ k ∧ k < n + (t.length + 1) := by omega
        have h3 : k - n = (k - (n + 1)) + 1 := by omega
        simp [h1, h2, h3]
      · have h2 : ¬(n ≤ k ∧ k < n + (t.length + 1)) := by omega
        rw [if_neg h1, if_neg h2, if_neg hk]

theorem spGets_length (d : α) (m : Sp α) : ∀ (c n : Nat), (spGets d m n c).length = c
  | 0, _ => rfl
  | c + 1, n => by simp [spGets, spGets_length d m c (n + 1)]

theorem spGets_getD (d : α) (m : Sp α) (e : α) : ∀ (c n i : Nat), i < c → (spGets d m n c).getD i e = spGet d m (n + i)
  | 0, _, _, h => by omega
  | c + 1, n, 0, _ => by simp [spGets]
  | c + 1, n, i + 1, h => by
    have := spGets_getD d m e c (n + 1) i (by omega)
    simp only [spGets, List.getD_cons_succ, this]
    congr 1
    omega

/-- Reads of a range that agree key by key agree. -/
theorem spGets_congr (d : α) (m m' : Sp α) : ∀ (c n : Nat), (∀ k, n ≤ k → k < n + c → spGet d m k = spGet d m' k) →
    spGets d m n c = spGets d m' n c
  | 0, _, _ => rfl
  | c + 1, n, h => by
    simp only [spGets]
    rw [h n (Nat.le_refl n) (by omega), spGets_congr d m m' c (n + 1) fun k h1 h2 => h k (by omega) (by omega)]

/-- A whole range read just after it is written. -/
theorem spGets_spSets [DecidableEq α] (d : α) (l : List α) (m : Sp α) (n : Nat) (h : spWf d m = true) :
    spGets d (spSets d m n l) n l.length = l := by
  apply List.ext_getElem
  · exact spGets_length d _ _ _
  · intro i h1 h2
    have h3 := spGets_getD d (spSets d m n l) d l.length n i h2
    rw [List.getD_eq_getElem _ _ h1] at h3
    rw [h3, spGet_spSets d l m n (n + i) h]
    have : n ≤ n + i ∧ n + i < n + l.length := by omega
    simp [this, List.getElem?_eq_getElem h2]

/-- A filter keeps the canonical form. -/
theorem spAbove_filter [DecidableEq α] (d : α) (f : Nat × α → Bool) : ∀ (m : Sp α) (lo : Nat), spAbove d lo m = true →
    spAbove d lo (m.filter f) = true
  | [], _, _ => rfl
  | (q, w) :: t, lo, h => by
    simp only [spAbove, Bool.and_eq_true, decide_eq_true_eq] at h
    rw [List.filter_cons]
    split
    · simp only [spAbove, Bool.and_eq_true, decide_eq_true_eq]
      exact ⟨h.1, spAbove_filter d f t q h.2⟩
    · exact spAbove_mono d _ q lo (by omega) (spAbove_filter d f t q h.2)

theorem spWf_filter [DecidableEq α] (d : α) (f : Nat × α → Bool) (m : Sp α) (h : spWf d m = true) : spWf d (m.filter f) = true := by
  cases m with
  | nil => rfl
  | cons e t =>
    obtain ⟨q, w⟩ := e
    simp only [spWf, Bool.and_eq_true, decide_eq_true_eq] at h
    rw [List.filter_cons]
    split
    · simp only [spWf, Bool.and_eq_true, decide_eq_true_eq]
      exact ⟨h.1, spAbove_filter d f t q h.2⟩
    · exact spWf_of_above d q _ (spAbove_filter d f t q h.2)

/-- Two maps in canonical form that read alike are the same data. -/
theorem spAbove_ext [DecidableEq α] (d : α) : ∀ (a b : Sp α) (lo : Nat), spAbove d lo a = true → spAbove d lo b = true →
    (∀ k, spGet d a k = spGet d b k) → a = b
  | [], [], _, _, _, _ => rfl
  | [], (q, w) :: t, lo, _, hb, h => by
    simp only [spAbove, Bool.and_eq_true, decide_eq_true_eq] at hb
    have := h q
    simp [spGet] at this
    exact absurd this.symm hb.1.2
  | (q, w) :: t, [], lo, ha, _, h => by
    simp only [spAbove, Bool.and_eq_true, decide_eq_true_eq] at ha
    have := h q
    simp [spGet] at this
    exact absurd this ha.1.2
  | (p, v) :: s, (q, w) :: t, lo, ha, hb, h => by
    simp only [spAbove, Bool.and_eq_true, decide_eq_true_eq] at ha hb
    have hpq : p = q := by
      rcases Nat.lt_trichotomy p q with hlt | heq | hgt
      · have h1 := h p
        have hne : p ≠ q := by omega
        simp only [spGet, if_true, hne, if_false] at h1
        rw [spAbove_get d p t q hb.2 (by omega)] at h1
        exact absurd h1 ha.1.2
      · exact heq
      · have h1 := h q
        have hne : q ≠ p := by omega
        simp only [spGet, if_true, hne, if_false] at h1
        rw [spAbove_get d q s p ha.2 (by omega)] at h1
        exact absurd h1.symm hb.1.2
    subst hpq
    have hv : v = w := by have := h p; simpa [spGet] using this
    subst hv
    congr 1
    refine spAbove_ext d s t p ha.2 hb.2 fun k => ?_
    by_cases hk : k = p
    · subst hk; rw [spAbove_get d k s k ha.2 (Nat.le_refl k), spAbove_get d k t k hb.2 (Nat.le_refl k)]
    · have := h k; simpa [spGet, hk] using this

end Sys2Proof.Machine
end

