-- ==== Sys2Proof/Laws/Memory.lean ====
section
/-! SUPPORT. Bytes and words, that every memory operation keeps the canonical form, and which leave the die clocks alone. -/

namespace Sys2Proof.Machine

/-! ## Bytes -/

@[simp] theorem natBytes_length : ∀ (n x : Nat), (natBytes x n).length = n
  | 0, _ => rfl
  | n + 1, x => by simp [natBytes, natBytes_length n]

theorem bytesNat_natBytes : ∀ (n x : Nat), bytesNat (natBytes x n) = x % 256 ^ n
  | 0, x => by simp [natBytes, bytesNat, Nat.mod_one]
  | n + 1, x => by
    simp only [natBytes, bytesNat, bytesNat_natBytes n, BitVec.toNat_ofNat]
    rw [show (256 : Nat) ^ (n + 1) = 256 * 256 ^ n by rw [Nat.pow_succ, Nat.mul_comm], Nat.mod_mul]

theorem bytesNat_lt : ∀ l : List Byte, bytesNat l < 256 ^ l.length
  | [] => by simp [bytesNat]
  | b :: t => by
    have h := bytesNat_lt t
    have hb := b.isLt
    simp only [bytesNat, List.length_cons, Nat.pow_succ]
    omega

theorem natBytes_bytesNat : ∀ l : List Byte, natBytes (bytesNat l) l.length = l
  | [] => rfl
  | b :: t => by
    have hb := b.isLt
    have h1 : (b.toNat + 256 * bytesNat t) / 256 = bytesNat t := by omega
    simp only [bytesNat, List.length_cons, natBytes, h1, natBytes_bytesNat t]
    congr 1
    apply BitVec.eq_of_toNat_eq
    simp
    omega

@[simp] theorem rowBytes_length (r : Row) : (rowBytes r).length = 128 := natBytes_length 128 r.toNat

@[simp] theorem rowOf_rowBytes (r : Row) : rowOf (rowBytes r) = r := by
  apply BitVec.eq_of_toNat_eq
  have h := r.isLt
  simp only [rowOf, rowBytes, bytesNat_natBytes, BitVec.toNat_ofNat]
  norm_num at h ⊢
  omega

theorem rowBytes_rowOf (b : List Byte) (h : b.length = 128) : rowBytes (rowOf b) = b := by
  have h1 := bytesNat_lt b
  rw [h] at h1
  have h2 : (rowOf b).toNat = bytesNat b := by
    simp only [rowOf, BitVec.toNat_ofNat]
    norm_num at h1 ⊢
    omega
  rw [rowBytes, h2, ← h, natBytes_bytesNat]

/-- Where the mask has ones the new bit is taken. -/
theorem mergeRow_getLsbD (o n k : Row) (i : Nat) : (mergeRow o n k).getLsbD i = if k.getLsbD i then n.getLsbD i else o.getLsbD i := by
  by_cases h : i < 1024
  · simp only [mergeRow, BitVec.getLsbD_or, BitVec.getLsbD_and, BitVec.getLsbD_not, h, decide_true, Bool.true_and]
    cases k.getLsbD i <;> simp
  · simp [BitVec.getLsbD_of_ge _ _ (Nat.le_of_not_lt h)]

@[simp] theorem mergeRow_allOnes (o n : Row) : mergeRow o n (BitVec.allOnes 1024) = n := by
  apply BitVec.eq_of_getLsbD_eq
  intro i hi
  rw [mergeRow_getLsbD, BitVec.getLsbD_allOnes]
  simp only [hi, decide_true, if_true]

@[simp] theorem mergeRow_zero (o n : Row) : mergeRow o n 0 = o := by
  apply BitVec.eq_of_getLsbD_eq
  intro i hi
  rw [mergeRow_getLsbD]
  simp

/-! ## Cells -/

theorem Memory.wf_nil : Memory.wf [] = true := rfl

theorem cellsWrite_wf (c : List Host.Cell) (a : Nat) (b : List Byte) (h : Memory.wf c = true) : Memory.wf (cellsWrite c a b) = true :=
  spWf_spSets 0 b c a h

/-- Bytes read where they were just written. -/
theorem cellsRead_cellsWrite_self (c : List Host.Cell) (a : Nat) (b : List Byte) (h : Memory.wf c = true) :
    cellsRead (cellsWrite c a b) a b.length = b := spGets_spSets 0 b c a h

/-- Bytes outside a write read as before. -/
theorem cellsRead_cellsWrite_apart (c : List Host.Cell) (a : Nat) (b : List Byte) (a' n : Nat) (h : Memory.wf c = true)
    (hd : a' + n ≤ a ∨ a + b.length ≤ a') : cellsRead (cellsWrite c a b) a' n = cellsRead c a' n := by
  apply spGets_congr
  intro k h1 h2
  rw [cellsWrite, spGet_spSets 0 b c a k h]
  have : ¬(a ≤ k ∧ k < a + b.length) := by omega
  rw [if_neg this]

/-! ## A range replaced -/

theorem spAbove_append {α : Type} [DecidableEq α] (d : α) : ∀ (a b : Sp α) (lo mid : Nat), spAbove d lo a = true →
    (∀ e ∈ a, e.1 ≤ mid) → lo ≤ mid → spAbove d mid b = true → spAbove d lo (a ++ b) = true
  | [], b, lo, mid, _, _, hl, hb => spAbove_mono d b mid lo hl hb
  | (q, w) :: t, b, lo, mid, ha, hm, _, hb => by
    simp only [spAbove, Bool.and_eq_true, decide_eq_true_eq, List.cons_append] at ha ⊢
    exact ⟨ha.1, spAbove_append d t b q mid ha.2 (fun e he => hm e (by simp [he])) (hm (q, w) (by simp)) hb⟩

/-- Shifted forms, so that key 0 needs no case of its own. -/
theorem spWf_iff_cons {α : Type} [DecidableEq α] (d : α) (m : Sp α) :
    spWf d m = true ↔ (∀ e ∈ m, e.2 ≠ d) ∧ m.Pairwise (fun a b => a.1 < b.1) := by
  have key : ∀ (m : Sp α) (lo : Nat), spAbove d lo m = true ↔ (∀ e ∈ m, e.2 ≠ d) ∧ (∀ e ∈ m, lo < e.1) ∧ m.Pairwise (fun a b => a.1 < b.1) := by
    intro m
    induction m with
    | nil => intro lo; simp [spAbove]
    | cons e t ih =>
      intro lo
      obtain ⟨q, w⟩ := e
      simp only [spAbove, Bool.and_eq_true, decide_eq_true_eq, List.mem_cons, List.pairwise_cons, ih]
      constructor
      · rintro ⟨⟨h1, h2⟩, h3, h4, h5⟩
        refine ⟨?_, ?_, ?_, h5⟩
        · rintro e (rfl | he)
          · exact h2
          · exact h3 e he
        · rintro e (rfl | he)
          · exact h1
          · exact Nat.lt_trans h1 (h4 e he)
        · exact h4
      · rintro ⟨h1, h2, h3, h4⟩
        exact ⟨⟨h2 _ (Or.inl rfl), h1 _ (Or.inl rfl)⟩, fun e he => h1 e (Or.inr he), h3, h4⟩
  cases m with
  | nil => simp [spWf]
  | cons e t =>
    obtain ⟨q, w⟩ := e
    simp only [spWf, Bool.and_eq_true, decide_eq_true_eq, List.mem_cons, List.pairwise_cons, key]
    constructor
    · rintro ⟨h2, h3, h4, h5⟩
      refine ⟨?_, h4, h5⟩
      rintro e (rfl | he)
      · exact h2
      · exact h3 e he
    · rintro ⟨h1, h3, h4⟩
      exact ⟨h1 _ (Or.inl rfl), fun e he => h1 e (Or.inr he), h3, h4⟩

theorem cellsFill_wf (c : List Host.Cell) (lo n : Nat) (g : Nat → Byte) (h : Memory.wf c = true) : Memory.wf (cellsFill c lo n g) = true := by
  rw [Memory.wf, spWf_iff_cons] at h ⊢
  obtain ⟨hd, hp⟩ := h
  constructor
  · intro e he
    simp only [cellsFill, List.mem_append, List.mem_filter] at he
    rcases he with (he | he) | he
    · exact hd e he.1
    · simpa using he.2
    · exact hd e he.1
  · simp only [cellsFill]
    rw [List.pairwise_append, List.pairwise_append]
    refine ⟨⟨hp.filter _, ?_, ?_⟩, hp.filter _, ?_⟩
    · apply List.Pairwise.filter
      rw [List.pairwise_map]
      exact (List.pairwise_lt_range (n := n)).imp (by intro a b hab; simpa using hab)
    · intro a ha b hb
      simp only [List.mem_filter, List.mem_map, List.mem_range, decide_eq_true_eq] at ha hb
      obtain ⟨⟨k, hk, rfl⟩, _⟩ := hb
      simp; omega
    · intro a ha b hb
      simp only [List.mem_append, List.mem_filter, List.mem_map, List.mem_range, decide_eq_true_eq] at ha hb
      rcases ha with ha | ⟨⟨k, hk, rfl⟩, _⟩
      · omega
      · simp; omega

/-! ## The DRAM -/

/-- A fold of steps that each keep a property keeps it. -/
theorem foldl_keeps {β γ : Type} (P : β → Prop) (f : β → γ → β) (hf : ∀ b c, P b → P (f b c)) : ∀ (l : List γ) (b : β), P b → P (l.foldl f b)
  | [], _, h => h
  | c :: t, b, h => foldl_keeps P f hf t (f b c) (hf b c h)

theorem Mem.setMeta_wf (m : Mem) (block : Nat) (b : Byte) (h : Memory.wf m.dram = true) : Memory.wf (m.setMeta block b).dram = true := by
  unfold Mem.setMeta
  simp only []
  split
  · exact h
  · exact spWf_spSet _ _ _ _ h

theorem Mem.dramWrite_wf (m : Mem) (comp : Bool) (sec : Nat) (x : Row) (p : Bool) (h : Memory.wf m.dram = true) :
    Memory.wf (m.dramWrite comp sec x p).dram = true := by
  unfold Mem.dramWrite
  split
  · exact h
  · split
    · dsimp only
      split <;> exact Mem.setMeta_wf _ _ _ (cellsWrite_wf _ _ _ h)
    · dsimp only
      exact cellsWrite_wf _ _ _ h

theorem evictMsc_wf (m : Mem) (key : Nat) (h : Memory.wf m.dram = true) : Memory.wf (evictMsc m key).dram = true := by
  unfold evictMsc
  split
  · simp only []
    split
    · exact Mem.dramWrite_wf _ _ _ _ _ h
    · exact h
  · exact h

theorem evictMscs_wf (l : List Nat) (m : Mem) (h : Memory.wf m.dram = true) : Memory.wf (l.foldl evictMsc m).dram = true :=
  foldl_keeps (fun m : Mem => Memory.wf m.dram = true) _ (fun m k hm => evictMsc_wf m k hm) _ _ h

theorem Mem.dropMscLine_wf (m : Mem) (line : Nat) (h : Memory.wf m.dram = true) : Memory.wf (m.dropMscLine line).dram = true :=
  evictMscs_wf _ _ h

theorem Mem.roomFor_wf (m : Mem) (sec mask : Nat) (h : Memory.wf m.dram = true) : Memory.wf (m.roomFor sec mask).1.dram = true := by
  unfold Mem.roomFor
  simp only []
  split
  · exact h
  · exact h
  · split
    · exact Mem.dropMscLine_wf _ _ h
    · exact h

/-- What an allocation in the memory-side cache leaves keeps the form. -/
theorem Mem.mscPut_wf (m : Mem) (key mask : Nat) (k : Sector) (h : Memory.wf m.dram = true) :
    ∀ m', m.mscPut key mask k = some m' → Memory.wf m'.dram = true := by
  intro m' hm
  have h1 := Mem.roomFor_wf m (key / 2) mask h
  unfold Mem.mscPut at hm
  split at hm
  · cases hm
  · split at hm
    · rename_i hr
      rw [hr] at h1
      cases hm
      exact h1
    · cases hm

theorem Mem.sideWrite_wf (m : Mem) (dev : Nat) (late comp : Bool) (sec : Nat) (x : Row) (p : Bool) (h : Memory.wf m.dram = true) :
    Memory.wf (m.sideWrite dev late comp sec x p).dram = true := by
  unfold Mem.sideWrite
  split
  · exact h
  · cases hm : m.mscPut (ckey comp sec) (m.wayMask dev 46) ⟨x, true, 0, p, dev, 0, late⟩ with
    | none => exact Mem.dramWrite_wf m comp sec x p h
    | some m' => exact Mem.mscPut_wf m _ _ _ h m' hm

theorem evictL2_wf (m : Mem) (key : Nat) (h : Memory.wf m.dram = true) : Memory.wf (evictL2 m key).dram = true := by
  unfold evictL2
  split
  · simp only []
    split
    · exact Mem.sideWrite_wf _ _ _ _ _ _ _ h
    · exact h
  · exact h

theorem evictL2s_wf (l : List Nat) (m : Mem) (h : Memory.wf m.dram = true) : Memory.wf (l.foldl evictL2 m).dram = true :=
  foldl_keeps (fun m : Mem => Memory.wf m.dram = true) _ (fun m k hm => evictL2_wf m k hm) _ _ h

theorem Mem.l2Room_wf (m : Mem) (line : Nat) (h : Memory.wf m.dram = true) : Memory.wf (m.l2Room line).dram = true := by
  unfold Mem.l2Room
  dsimp only
  split
  · exact h
  · split
    · exact h
    · exact evictL2s_wf _ m h

theorem Mem.l2Put_wf (m m' : Mem) (key : Nat) (k : Sector) (h : Memory.wf m.dram = true) (hm : m.l2Put key k = some m') :
    Memory.wf m'.dram = true := by
  unfold Mem.l2Put at hm
  split at hm
  · cases hm
  · cases hm
    exact Mem.l2Room_wf m _ h

theorem Mem.homeWrite_wf (m : Mem) (r : Req) (comp : Bool) (sec : Nat) (v k : Row) (h : Memory.wf m.dram = true) :
    Memory.wf (m.homeWrite r comp sec v k).dram = true := by
  unfold Mem.homeWrite
  split
  · exact h
  · dsimp only
    generalize hm2 : (if m.down.contains (homeDie (sec * 128)) = true then
      evictL2 { m with hc := spSet 0 m.hc (homeDie (sec * 128)) (m.hcOf (homeDie (sec * 128)) + 1) } (ckey comp sec)
      else { m with hc := spSet 0 m.hc (homeDie (sec * 128)) (m.hcOf (homeDie (sec * 128)) + 1) }) = m2
    have h2 : Memory.wf m2.dram = true := by
      subst hm2
      split
      · exact evictL2_wf _ _ h
      · exact h
    split
    · exact h2
    · split
      · rename_i m3 hp
        split at hp
        · exact Mem.l2Put_wf _ _ _ _ h2 hp
        · cases hp
      · exact Mem.sideWrite_wf _ _ _ _ _ _ _ h2

theorem Mem.homePut_wf (r : Req) (comp : Bool) : ∀ (fuel : Nat) (m : Mem) (a : Nat) (b : List Byte), Memory.wf m.dram = true →
    Memory.wf (m.homePut r comp a b fuel).dram = true
  | 0, _, _, _, h => h
  | fuel + 1, m, a, b, h => by
    unfold Mem.homePut
    split
    · exact h
    · exact Mem.homePut_wf r comp fuel _ _ _ (Mem.homeWrite_wf _ _ _ _ _ _ h)

theorem Mem.homeStoreAs_wf (m : Mem) (r : Req) (comp : Bool) (a : Nat) (b : List Byte) (h : Memory.wf m.dram = true) :
    Memory.wf (m.homeStoreAs r comp a b).dram = true := Mem.homePut_wf r comp _ m a b h

theorem Mem.homeStore_wf (m : Mem) (comp : Bool) (a : Nat) (b : List Byte) (h : Memory.wf m.dram = true) :
    Memory.wf (m.homeStore comp a b).dram = true := Mem.homeStoreAs_wf m _ comp a b h

theorem Mem.dropL2Line_wf (m : Mem) (line : Nat) (h : Memory.wf m.dram = true) : Memory.wf (m.dropL2Line line).dram = true :=
  evictL2s_wf _ m h

theorem Mem.sidePatch_wf (m : Mem) (a : Nat) (b : List Byte) (h : Memory.wf m.dram = true) : Memory.wf (m.sidePatch a b).dram = true := by
  unfold Mem.sidePatch
  dsimp only
  split
  · exact h
  · exact Mem.dramWrite_wf _ _ _ _ _ h

theorem applyEntry_wf (b : Bin) (m : Mem) (e : Nat × Option Word) (h : Memory.wf m.dram = true) :
    Memory.wf (applyEntry b m e).dram = true := by
  unfold applyEntry
  split
  · exact h
  · simp only []
    split
    · exact Mem.dropL2Line_wf m _ h
    · exact Mem.sidePatch_wf _ _ _ (Mem.dropL2Line_wf m _ h)

theorem applyBin_wf (m : Mem) (b : Bin) (h : Memory.wf m.dram = true) : Memory.wf (applyBin m b).dram = true :=
  foldl_keeps (fun m : Mem => Memory.wf m.dram = true) _ (fun m e hm => applyEntry_wf b m e hm) _ _ h

theorem Mem.applyBins_wf (m : Mem) (p : Bin → Bool) (h : Memory.wf m.dram = true) : Memory.wf (m.applyBins p).1.dram = true :=
  foldl_keeps (fun m : Mem => Memory.wf m.dram = true) _ (fun m b hm => applyBin_wf m b hm) _ _ h

theorem Mem.touch_wf (m : Mem) (a n : Nat) (h : Memory.wf m.dram = true) : Memory.wf (m.touch a n).dram = true := by
  unfold Mem.touch
  split
  · exact h
  · exact Mem.applyBins_wf m _ h

theorem Mem.used_wf (m : Mem) (comp : Bool) (sec : Nat) (h : Memory.wf m.dram = true) : Memory.wf (m.used comp sec).dram = true := by
  unfold Mem.used
  split
  · exact h
  · split <;> exact h

theorem Mem.load_wf (m : Mem) (comp : Bool) (a n : Nat) (h : Memory.wf m.dram = true) : Memory.wf (m.load comp a n).1.dram = true :=
  foldl_keeps (fun m : Mem => Memory.wf m.dram = true) _ (fun m _ hm => Mem.used_wf m comp _ hm) _ _ (Mem.touch_wf m a n h)

theorem Mem.storeAs_wf (m : Mem) (r : Req) (comp : Bool) (a : Nat) (b : List Byte) (h : Memory.wf m.dram = true) :
    Memory.wf (m.storeAs r comp a b).dram = true := Mem.homeStoreAs_wf _ _ _ _ _ (Mem.touch_wf _ _ _ h)

theorem Mem.store_wf (m : Mem) (comp : Bool) (a : Nat) (b : List Byte) (h : Memory.wf m.dram = true) :
    Memory.wf (m.store comp a b).dram = true := Mem.storeAs_wf m _ comp a b h

theorem Mem.binRoom_wf (m : Mem) (sec mask : Nat) (h : Memory.wf m.dram = true) : Memory.wf (m.binRoom sec mask).1.dram = true := by
  unfold Mem.binRoom
  simp only []
  split
  · exact h
  · split
    · exact h
    · exact Mem.dropMscLine_wf _ _ h

theorem Mem.acceptPair_wf (m : Mem) (vmid : Nat) (base : Word) (opr : Nat) (owner : Nat × Nat × Nat) (pa v : Nat)
    (h : Memory.wf m.dram = true) : Memory.wf (m.acceptPair vmid base opr owner pa v).dram = true := by
  unfold Mem.acceptPair
  dsimp only
  generalize hm : (m.applyBins fun b => b.line == pa / 512 && !(b.line == pa / 512 && b.vmid == vmid && b.base == base && b.opr == opr)).1 = m1
  have h1 : Memory.wf m1.dram = true := hm ▸ Mem.applyBins_wf m _ h
  generalize hn : ({ m1 with hc := spSet 0 m1.hc (homeDie pa) (m1.hcOf (homeDie pa) + 1) } : Mem) = n
  have hn1 : Memory.wf n.dram = true := hn ▸ h1
  generalize hk : (if n.wayMask vmid 48 = 0 then
    (n.applyBins fun b => b.line == pa / 512 && b.vmid == vmid && b.base == base && b.opr == opr).1 else n) = m2
  have h2 : Memory.wf m2.dram = true := by
    subst hk
    split
    · exact Mem.applyBins_wf n _ hn1
    · exact hn1
  split
  · exact h2
  · split
    · exact applyBin_wf _ _ h2
    · split
      · rename_i m3 w hr
        have h3 := Mem.binRoom_wf m2 (pa / 128) (n.wayMask vmid 48) h2
        rw [hr] at h3
        exact h3
      · rename_i m3 hr
        have h3 := Mem.binRoom_wf m2 (pa / 128) (n.wayMask vmid 48) h2
        rw [hr] at h3
        split
        · rename_i b _
          exact applyBin_wf m3 b h3
        · exact applyBin_wf _ _ h3

/-! ## The clocks of the dies: writes below the die L2 and pairs leave them (R300, R318) -/

theorem Mem.setMeta_vc {v : Sp Nat} (m : Mem) (block : Nat) (b : Byte) (h : m.vc = v) : (m.setMeta block b).vc = v := by
  unfold Mem.setMeta
  simp only []
  split
  · exact h
  · exact h

theorem Mem.dramWrite_vc {v : Sp Nat} (m : Mem) (comp : Bool) (sec : Nat) (x : Row) (p : Bool) (h : m.vc = v) :
    (m.dramWrite comp sec x p).vc = v := by
  unfold Mem.dramWrite
  split
  · exact h
  · split
    · dsimp only
      split <;> exact Mem.setMeta_vc _ _ _ h
    · dsimp only
      exact h

theorem evictMsc_vc {v : Sp Nat} (m : Mem) (key : Nat) (h : m.vc = v) : (evictMsc m key).vc = v := by
  unfold evictMsc
  split
  · simp only []
    split
    · exact Mem.dramWrite_vc _ _ _ _ _ h
    · exact h
  · exact h

theorem evictMscs_vc {v : Sp Nat} (l : List Nat) (m : Mem) (h : m.vc = v) : (l.foldl evictMsc m).vc = v :=
  foldl_keeps (fun m : Mem => m.vc = v) _ (fun m k hm => evictMsc_vc m k hm) _ _ h

theorem Mem.dropMscLine_vc {v : Sp Nat} (m : Mem) (line : Nat) (h : m.vc = v) : (m.dropMscLine line).vc = v :=
  evictMscs_vc _ _ h

theorem Mem.roomFor_vc {v : Sp Nat} (m : Mem) (sec mask : Nat) (h : m.vc = v) : (m.roomFor sec mask).1.vc = v := by
  unfold Mem.roomFor
  simp only []
  split
  · exact h
  · exact h
  · split
    · exact Mem.dropMscLine_vc _ _ h
    · exact h

theorem Mem.mscPut_vc {v : Sp Nat} (m : Mem) (key mask : Nat) (k : Sector) (h : m.vc = v) :
    ∀ m', m.mscPut key mask k = some m' → m'.vc = v := by
  intro m' hm
  have h1 := Mem.roomFor_vc m (key / 2) mask h
  unfold Mem.mscPut at hm
  split at hm
  · cases hm
  · split at hm
    · rename_i hr
      rw [hr] at h1
      cases hm
      exact h1
    · cases hm

theorem Mem.sideWrite_vc {v : Sp Nat} (m : Mem) (dev : Nat) (late comp : Bool) (sec : Nat) (x : Row) (p : Bool) (h : m.vc = v) :
    (m.sideWrite dev late comp sec x p).vc = v := by
  unfold Mem.sideWrite
  split
  · exact h
  · cases hm : m.mscPut (ckey comp sec) (m.wayMask dev 46) ⟨x, true, 0, p, dev, 0, late⟩ with
    | none => exact Mem.dramWrite_vc m comp sec x p h
    | some m' => exact Mem.mscPut_vc m _ _ _ h m' hm

theorem evictL2_vc {v : Sp Nat} (m : Mem) (key : Nat) (h : m.vc = v) : (evictL2 m key).vc = v := by
  unfold evictL2
  split
  · simp only []
    split
    · exact Mem.sideWrite_vc _ _ _ _ _ _ _ h
    · exact h
  · exact h

theorem evictL2s_vc {v : Sp Nat} (l : List Nat) (m : Mem) (h : m.vc = v) : (l.foldl evictL2 m).vc = v :=
  foldl_keeps (fun m : Mem => m.vc = v) _ (fun m k hm => evictL2_vc m k hm) _ _ h

theorem Mem.dropL2Line_vc {v : Sp Nat} (m : Mem) (line : Nat) (h : m.vc = v) : (m.dropL2Line line).vc = v :=
  evictL2s_vc _ m h

theorem Mem.sidePatch_vc {v : Sp Nat} (m : Mem) (a : Nat) (b : List Byte) (h : m.vc = v) : (m.sidePatch a b).vc = v := by
  unfold Mem.sidePatch
  dsimp only
  split
  · exact h
  · exact Mem.dramWrite_vc _ _ _ _ _ h

theorem applyEntry_vc {v : Sp Nat} (b : Bin) (m : Mem) (e : Nat × Option Word) (h : m.vc = v) :
    (applyEntry b m e).vc = v := by
  unfold applyEntry
  split
  · exact h
  · simp only []
    split
    · exact Mem.dropL2Line_vc m _ h
    · exact Mem.sidePatch_vc _ _ _ (Mem.dropL2Line_vc m _ h)

theorem applyBin_vc {v : Sp Nat} (m : Mem) (b : Bin) (h : m.vc = v) : (applyBin m b).vc = v :=
  foldl_keeps (fun m : Mem => m.vc = v) _ (fun m e hm => applyEntry_vc b m e hm) _ _ h

theorem Mem.applyBins_vc {v : Sp Nat} (m : Mem) (p : Bin → Bool) (h : m.vc = v) : (m.applyBins p).1.vc = v :=
  foldl_keeps (fun m : Mem => m.vc = v) _ (fun m b hm => applyBin_vc m b hm) _ _ h

theorem Mem.binRoom_vc {v : Sp Nat} (m : Mem) (sec mask : Nat) (h : m.vc = v) : (m.binRoom sec mask).1.vc = v := by
  unfold Mem.binRoom
  simp only []
  split
  · exact h
  · split
    · exact h
    · exact Mem.dropMscLine_vc _ _ h

theorem Mem.acceptPair_vc {c : Sp Nat} (m : Mem) (vmid : Nat) (base : Word) (opr : Nat) (owner : Nat × Nat × Nat) (pa v : Nat)
    (h : m.vc = c) : (m.acceptPair vmid base opr owner pa v).vc = c := by
  unfold Mem.acceptPair
  dsimp only
  generalize hm : (m.applyBins fun b => b.line == pa / 512 && !(b.line == pa / 512 && b.vmid == vmid && b.base == base && b.opr == opr)).1 = m1
  have h1 : m1.vc = c := hm ▸ Mem.applyBins_vc m _ h
  generalize hn : ({ m1 with hc := spSet 0 m1.hc (homeDie pa) (m1.hcOf (homeDie pa) + 1) } : Mem) = n
  have hn1 : n.vc = c := hn ▸ h1
  generalize hk : (if n.wayMask vmid 48 = 0 then
    (n.applyBins fun b => b.line == pa / 512 && b.vmid == vmid && b.base == base && b.opr == opr).1 else n) = m2
  have h2 : m2.vc = c := by
    subst hk
    split
    · exact Mem.applyBins_vc n _ hn1
    · exact hn1
  split
  · exact h2
  · split
    · exact applyBin_vc _ _ h2
    · split
      · rename_i m3 w hr
        have h3 := Mem.binRoom_vc m2 (pa / 128) (n.wayMask vmid 48) h2
        rw [hr] at h3
        exact h3
      · rename_i m3 hr
        have h3 := Mem.binRoom_vc m2 (pa / 128) (n.wayMask vmid 48) h2
        rw [hr] at h3
        split
        · rename_i b _
          exact applyBin_vc m3 b h3
        · exact applyBin_vc _ _ h3

theorem flushSec_wf (m : Mem) (key : Nat) (h : Memory.wf m.dram = true) : Memory.wf (flushSec m key).dram = true := by
  unfold flushSec
  split
  · split
    · exact Mem.sideWrite_wf _ _ _ _ _ _ _ h
    · exact h
  · exact h

theorem dropAll_wf (m : Mem) (key : Nat) (h : Memory.wf m.dram = true) : Memory.wf (dropAll m key).dram = true := evictL2_wf m key h

theorem flushLine_wf (inv : Bool) (m : Mem) (pa : Nat) (h : Memory.wf m.dram = true) : Memory.wf (flushLine inv m pa).dram = true := by
  refine foldl_keeps (fun m : Mem => Memory.wf m.dram = true) _ (fun m k hm => ?_) _ _ (Mem.touch_wf m _ _ h)
  split
  · exact dropAll_wf _ _ (flushSec_wf m k hm)
  · exact flushSec_wf m k hm

theorem invKey_wf (scope : Nat) (m : Mem) (key : Nat) (h : Memory.wf m.dram = true) : Memory.wf (invKey scope m key).dram = true := by
  unfold invKey
  split
  · exact h
  · split
    · exact h
    · exact evictMsc_wf _ _ (dropAll_wf _ _ h)

theorem Mem.setPoison_wf (m : Mem) (comp : Bool) (sec : Nat) (h : Memory.wf m.dram = true) : Memory.wf (m.setPoison comp sec).dram = true := by
  unfold Mem.setPoison
  split
  · exact h
  · split
    · exact h
    · split
      · exact Mem.dramWrite_wf _ _ _ _ _ h
      · split <;> exact h

/-! ## The scratchpads -/

theorem Quad.write_wf (q : Quad) (key : Nat) (b : List Byte) (h : Memory.wf q.sp = true) : Memory.wf (q.write key b).sp = true :=
  cellsWrite_wf _ _ _ h

theorem Quad.writeMasked_wf (q : Quad) (key : Nat) (x k : Row) (h : Memory.wf q.sp = true) : Memory.wf (q.writeMasked key x k).sp = true := by
  unfold Quad.writeMasked
  split
  · exact Quad.write_wf _ _ _ h
  · refine foldl_keeps (fun c : List Host.Cell => Memory.wf c = true) _ (fun c i hc => ?_) _ _ h
    simp only []
    split
    · exact hc
    · exact spWf_spSet _ _ _ _ hc

theorem Quad.clearEighth_wf (q : Quad) (k : Nat) (h : Memory.wf q.sp = true) : Memory.wf (q.clearEighth k).sp = true := cellsFill_wf _ _ _ _ h

theorem Quad.freeEighth_wf (q : Quad) (k i : Nat) (h : Memory.wf q.sp = true) : Memory.wf (q.freeEighth k i).sp = true := cellsFill_wf _ _ _ _ h

end Sys2Proof.Machine
end

