-- ==== Sys2Proof/Laws/State.lean ====
section
/-! SUPPORT. What each update of the state leaves in each field. -/

namespace Sys2Proof.Machine

@[simp] theorem State.setCur_cur (s : State) (f : Mach → Mach) : (s.setCur f).cur = f s.cur := rfl
@[simp] theorem State.setCur_snap (s : State) (f : Mach → Mach) : (s.setCur f).snap = s.snap := rfl
@[simp] theorem State.setCur_verdict (s : State) (f : Mach → Mach) : (s.setCur f).verdict = s.verdict := rfl
@[simp] theorem State.setCur_turn (s : State) (f : Mach → Mach) : (s.setCur f).turn = s.turn := rfl
@[simp] theorem State.setCur_freeIdx (s : State) (f : Mach → Mach) : (s.setCur f).freeIdx = s.freeIdx := rfl
@[simp] theorem State.setCur_waits (s : State) (f : Mach → Mach) : (s.setCur f).waits = s.waits := rfl

@[simp] theorem State.setCore_snap (s : State) (f : Core → Core) : (s.setCore f).snap = s.snap := rfl
@[simp] theorem State.setCore_verdict (s : State) (f : Core → Core) : (s.setCore f).verdict = s.verdict := rfl
@[simp] theorem State.setCore_turn (s : State) (f : Core → Core) : (s.setCore f).turn = s.turn := rfl
@[simp] theorem State.setCore_freeIdx (s : State) (f : Core → Core) : (s.setCore f).freeIdx = s.freeIdx := rfl
@[simp] theorem State.setCore_waits (s : State) (f : Core → Core) : (s.setCore f).waits = s.waits := rfl
@[simp] theorem State.setCore_cur_core (s : State) (f : Core → Core) : (s.setCore f).cur.core = f s.cur.core := rfl
@[simp] theorem State.setCore_cur_quad (s : State) (f : Core → Core) : (s.setCore f).cur.quad = s.cur.quad := rfl
@[simp] theorem State.setCore_cur_arr (s : State) (f : Core → Core) : (s.setCore f).cur.arr = s.cur.arr := rfl
@[simp] theorem State.setCore_cur_arrLeft (s : State) (f : Core → Core) : (s.setCore f).cur.arrLeft = s.cur.arrLeft := rfl
@[simp] theorem State.setCore_cur_mem (s : State) (f : Core → Core) : (s.setCore f).cur.mem = s.cur.mem := rfl
@[simp] theorem State.setCore_cur_tlb (s : State) (f : Core → Core) : (s.setCore f).cur.tlb = s.cur.tlb := rfl
@[simp] theorem State.setCore_cur_l2tlb (s : State) (f : Core → Core) : (s.setCore f).cur.l2tlb = s.cur.l2tlb := rfl
@[simp] theorem State.setCore_cur_ptrs (s : State) (f : Core → Core) : (s.setCore f).cur.ptrs = s.cur.ptrs := rfl
@[simp] theorem State.setCore_cur_pool (s : State) (f : Core → Core) : (s.setCore f).cur.pool = s.cur.pool := rfl
@[simp] theorem State.setCore_cur_cycle (s : State) (f : Core → Core) : (s.setCore f).cur.cycle = s.cur.cycle := rfl
@[simp] theorem State.setCore_cur_ftime (s : State) (f : Core → Core) : (s.setCore f).cur.ftime = s.cur.ftime := rfl
@[simp] theorem State.setCore_cur_oas (s : State) (f : Core → Core) : (s.setCore f).cur.oas = s.cur.oas := rfl
@[simp] theorem State.setCore_cur_kernels (s : State) (f : Core → Core) : (s.setCore f).cur.kernels = s.cur.kernels := rfl
@[simp] theorem State.setCore_cur_images (s : State) (f : Core → Core) : (s.setCore f).cur.images = s.cur.images := rfl
@[simp] theorem State.setCore_cur_loadStatus (s : State) (f : Core → Core) : (s.setCore f).cur.loadStatus = s.cur.loadStatus := rfl
@[simp] theorem State.setCore_cur_disp (s : State) (f : Core → Core) : (s.setCore f).cur.disp = s.cur.disp := rfl
@[simp] theorem State.setCore_cur_coll (s : State) (f : Core → Core) : (s.setCore f).cur.coll = s.cur.coll := rfl
@[simp] theorem State.setCore_cur_links (s : State) (f : Core → Core) : (s.setCore f).cur.links = s.cur.links := rfl
@[simp] theorem State.setCore_cur_dies (s : State) (f : Core → Core) : (s.setCore f).cur.dies = s.cur.dies := rfl
@[simp] theorem State.setCore_cur_retiring (s : State) (f : Core → Core) : (s.setCore f).cur.retiring = s.cur.retiring := rfl
@[simp] theorem State.setCore_cur_info (s : State) (f : Core → Core) : (s.setCore f).cur.info = s.cur.info := rfl
@[simp] theorem State.setCore_cur_replies (s : State) (f : Core → Core) : (s.setCore f).cur.replies = s.cur.replies := rfl
@[simp] theorem State.setCore_cur_inbox (s : State) (f : Core → Core) : (s.setCore f).cur.inbox = s.cur.inbox := rfl
@[simp] theorem State.setCore_cur_peerOps (s : State) (f : Core → Core) : (s.setCore f).cur.peerOps = s.cur.peerOps := rfl
@[simp] theorem State.setCore_cur_peerInvs (s : State) (f : Core → Core) : (s.setCore f).cur.peerInvs = s.cur.peerInvs := rfl

@[simp] theorem State.setMem_snap (s : State) (f : Mem → Mem) : (s.setMem f).snap = s.snap := rfl
@[simp] theorem State.setMem_verdict (s : State) (f : Mem → Mem) : (s.setMem f).verdict = s.verdict := rfl
@[simp] theorem State.setMem_turn (s : State) (f : Mem → Mem) : (s.setMem f).turn = s.turn := rfl
@[simp] theorem State.setMem_freeIdx (s : State) (f : Mem → Mem) : (s.setMem f).freeIdx = s.freeIdx := rfl
@[simp] theorem State.setMem_waits (s : State) (f : Mem → Mem) : (s.setMem f).waits = s.waits := rfl
@[simp] theorem State.setMem_cur_core (s : State) (f : Mem → Mem) : (s.setMem f).cur.core = s.cur.core := rfl
@[simp] theorem State.setMem_cur_quad (s : State) (f : Mem → Mem) : (s.setMem f).cur.quad = s.cur.quad := rfl
@[simp] theorem State.setMem_cur_arr (s : State) (f : Mem → Mem) : (s.setMem f).cur.arr = s.cur.arr := rfl
@[simp] theorem State.setMem_cur_arrLeft (s : State) (f : Mem → Mem) : (s.setMem f).cur.arrLeft = s.cur.arrLeft := rfl
@[simp] theorem State.setMem_cur_mem (s : State) (f : Mem → Mem) : (s.setMem f).cur.mem = f s.cur.mem := rfl
@[simp] theorem State.setMem_cur_tlb (s : State) (f : Mem → Mem) : (s.setMem f).cur.tlb = s.cur.tlb := rfl
@[simp] theorem State.setMem_cur_l2tlb (s : State) (f : Mem → Mem) : (s.setMem f).cur.l2tlb = s.cur.l2tlb := rfl
@[simp] theorem State.setMem_cur_ptrs (s : State) (f : Mem → Mem) : (s.setMem f).cur.ptrs = s.cur.ptrs := rfl
@[simp] theorem State.setMem_cur_pool (s : State) (f : Mem → Mem) : (s.setMem f).cur.pool = s.cur.pool := rfl
@[simp] theorem State.setMem_cur_cycle (s : State) (f : Mem → Mem) : (s.setMem f).cur.cycle = s.cur.cycle := rfl
@[simp] theorem State.setMem_cur_ftime (s : State) (f : Mem → Mem) : (s.setMem f).cur.ftime = s.cur.ftime := rfl
@[simp] theorem State.setMem_cur_oas (s : State) (f : Mem → Mem) : (s.setMem f).cur.oas = s.cur.oas := rfl
@[simp] theorem State.setMem_cur_kernels (s : State) (f : Mem → Mem) : (s.setMem f).cur.kernels = s.cur.kernels := rfl
@[simp] theorem State.setMem_cur_images (s : State) (f : Mem → Mem) : (s.setMem f).cur.images = s.cur.images := rfl
@[simp] theorem State.setMem_cur_loadStatus (s : State) (f : Mem → Mem) : (s.setMem f).cur.loadStatus = s.cur.loadStatus := rfl
@[simp] theorem State.setMem_cur_disp (s : State) (f : Mem → Mem) : (s.setMem f).cur.disp = s.cur.disp := rfl
@[simp] theorem State.setMem_cur_coll (s : State) (f : Mem → Mem) : (s.setMem f).cur.coll = s.cur.coll := rfl
@[simp] theorem State.setMem_cur_links (s : State) (f : Mem → Mem) : (s.setMem f).cur.links = s.cur.links := rfl
@[simp] theorem State.setMem_cur_dies (s : State) (f : Mem → Mem) : (s.setMem f).cur.dies = s.cur.dies := rfl
@[simp] theorem State.setMem_cur_retiring (s : State) (f : Mem → Mem) : (s.setMem f).cur.retiring = s.cur.retiring := rfl
@[simp] theorem State.setMem_cur_info (s : State) (f : Mem → Mem) : (s.setMem f).cur.info = s.cur.info := rfl
@[simp] theorem State.setMem_cur_replies (s : State) (f : Mem → Mem) : (s.setMem f).cur.replies = s.cur.replies := rfl
@[simp] theorem State.setMem_cur_inbox (s : State) (f : Mem → Mem) : (s.setMem f).cur.inbox = s.cur.inbox := rfl
@[simp] theorem State.setMem_cur_peerOps (s : State) (f : Mem → Mem) : (s.setMem f).cur.peerOps = s.cur.peerOps := rfl
@[simp] theorem State.setMem_cur_peerInvs (s : State) (f : Mem → Mem) : (s.setMem f).cur.peerInvs = s.cur.peerInvs := rfl

@[simp] theorem State.setOas_snap (s : State) (f : Oasis → Oasis) : (s.setOas f).snap = s.snap := rfl
@[simp] theorem State.setOas_verdict (s : State) (f : Oasis → Oasis) : (s.setOas f).verdict = s.verdict := rfl
@[simp] theorem State.setOas_turn (s : State) (f : Oasis → Oasis) : (s.setOas f).turn = s.turn := rfl
@[simp] theorem State.setOas_freeIdx (s : State) (f : Oasis → Oasis) : (s.setOas f).freeIdx = s.freeIdx := rfl
@[simp] theorem State.setOas_waits (s : State) (f : Oasis → Oasis) : (s.setOas f).waits = s.waits := rfl
@[simp] theorem State.setOas_cur_core (s : State) (f : Oasis → Oasis) : (s.setOas f).cur.core = s.cur.core := rfl
@[simp] theorem State.setOas_cur_quad (s : State) (f : Oasis → Oasis) : (s.setOas f).cur.quad = s.cur.quad := rfl
@[simp] theorem State.setOas_cur_arr (s : State) (f : Oasis → Oasis) : (s.setOas f).cur.arr = s.cur.arr := rfl
@[simp] theorem State.setOas_cur_arrLeft (s : State) (f : Oasis → Oasis) : (s.setOas f).cur.arrLeft = s.cur.arrLeft := rfl
@[simp] theorem State.setOas_cur_mem (s : State) (f : Oasis → Oasis) : (s.setOas f).cur.mem = s.cur.mem := rfl
@[simp] theorem State.setOas_cur_tlb (s : State) (f : Oasis → Oasis) : (s.setOas f).cur.tlb = s.cur.tlb := rfl
@[simp] theorem State.setOas_cur_l2tlb (s : State) (f : Oasis → Oasis) : (s.setOas f).cur.l2tlb = s.cur.l2tlb := rfl
@[simp] theorem State.setOas_cur_ptrs (s : State) (f : Oasis → Oasis) : (s.setOas f).cur.ptrs = s.cur.ptrs := rfl
@[simp] theorem State.setOas_cur_pool (s : State) (f : Oasis → Oasis) : (s.setOas f).cur.pool = s.cur.pool := rfl
@[simp] theorem State.setOas_cur_cycle (s : State) (f : Oasis → Oasis) : (s.setOas f).cur.cycle = s.cur.cycle := rfl
@[simp] theorem State.setOas_cur_ftime (s : State) (f : Oasis → Oasis) : (s.setOas f).cur.ftime = s.cur.ftime := rfl
@[simp] theorem State.setOas_cur_oas (s : State) (f : Oasis → Oasis) : (s.setOas f).cur.oas = f s.cur.oas := rfl
@[simp] theorem State.setOas_cur_kernels (s : State) (f : Oasis → Oasis) : (s.setOas f).cur.kernels = s.cur.kernels := rfl
@[simp] theorem State.setOas_cur_images (s : State) (f : Oasis → Oasis) : (s.setOas f).cur.images = s.cur.images := rfl
@[simp] theorem State.setOas_cur_loadStatus (s : State) (f : Oasis → Oasis) : (s.setOas f).cur.loadStatus = s.cur.loadStatus := rfl
@[simp] theorem State.setOas_cur_disp (s : State) (f : Oasis → Oasis) : (s.setOas f).cur.disp = s.cur.disp := rfl
@[simp] theorem State.setOas_cur_coll (s : State) (f : Oasis → Oasis) : (s.setOas f).cur.coll = s.cur.coll := rfl
@[simp] theorem State.setOas_cur_links (s : State) (f : Oasis → Oasis) : (s.setOas f).cur.links = s.cur.links := rfl
@[simp] theorem State.setOas_cur_dies (s : State) (f : Oasis → Oasis) : (s.setOas f).cur.dies = s.cur.dies := rfl
@[simp] theorem State.setOas_cur_retiring (s : State) (f : Oasis → Oasis) : (s.setOas f).cur.retiring = s.cur.retiring := rfl
@[simp] theorem State.setOas_cur_info (s : State) (f : Oasis → Oasis) : (s.setOas f).cur.info = s.cur.info := rfl
@[simp] theorem State.setOas_cur_replies (s : State) (f : Oasis → Oasis) : (s.setOas f).cur.replies = s.cur.replies := rfl
@[simp] theorem State.setOas_cur_inbox (s : State) (f : Oasis → Oasis) : (s.setOas f).cur.inbox = s.cur.inbox := rfl
@[simp] theorem State.setOas_cur_peerOps (s : State) (f : Oasis → Oasis) : (s.setOas f).cur.peerOps = s.cur.peerOps := rfl
@[simp] theorem State.setOas_cur_peerInvs (s : State) (f : Oasis → Oasis) : (s.setOas f).cur.peerInvs = s.cur.peerInvs := rfl

@[simp] theorem State.setDisp_snap (s : State) (f : Disp → Disp) : (s.setDisp f).snap = s.snap := rfl
@[simp] theorem State.setDisp_verdict (s : State) (f : Disp → Disp) : (s.setDisp f).verdict = s.verdict := rfl
@[simp] theorem State.setDisp_turn (s : State) (f : Disp → Disp) : (s.setDisp f).turn = s.turn := rfl
@[simp] theorem State.setDisp_freeIdx (s : State) (f : Disp → Disp) : (s.setDisp f).freeIdx = s.freeIdx := rfl
@[simp] theorem State.setDisp_waits (s : State) (f : Disp → Disp) : (s.setDisp f).waits = s.waits := rfl
@[simp] theorem State.setDisp_cur_core (s : State) (f : Disp → Disp) : (s.setDisp f).cur.core = s.cur.core := rfl
@[simp] theorem State.setDisp_cur_quad (s : State) (f : Disp → Disp) : (s.setDisp f).cur.quad = s.cur.quad := rfl
@[simp] theorem State.setDisp_cur_arr (s : State) (f : Disp → Disp) : (s.setDisp f).cur.arr = s.cur.arr := rfl
@[simp] theorem State.setDisp_cur_arrLeft (s : State) (f : Disp → Disp) : (s.setDisp f).cur.arrLeft = s.cur.arrLeft := rfl
@[simp] theorem State.setDisp_cur_mem (s : State) (f : Disp → Disp) : (s.setDisp f).cur.mem = s.cur.mem := rfl
@[simp] theorem State.setDisp_cur_tlb (s : State) (f : Disp → Disp) : (s.setDisp f).cur.tlb = s.cur.tlb := rfl
@[simp] theorem State.setDisp_cur_l2tlb (s : State) (f : Disp → Disp) : (s.setDisp f).cur.l2tlb = s.cur.l2tlb := rfl
@[simp] theorem State.setDisp_cur_ptrs (s : State) (f : Disp → Disp) : (s.setDisp f).cur.ptrs = s.cur.ptrs := rfl
@[simp] theorem State.setDisp_cur_pool (s : State) (f : Disp → Disp) : (s.setDisp f).cur.pool = s.cur.pool := rfl
@[simp] theorem State.setDisp_cur_cycle (s : State) (f : Disp → Disp) : (s.setDisp f).cur.cycle = s.cur.cycle := rfl
@[simp] theorem State.setDisp_cur_ftime (s : State) (f : Disp → Disp) : (s.setDisp f).cur.ftime = s.cur.ftime := rfl
@[simp] theorem State.setDisp_cur_oas (s : State) (f : Disp → Disp) : (s.setDisp f).cur.oas = s.cur.oas := rfl
@[simp] theorem State.setDisp_cur_kernels (s : State) (f : Disp → Disp) : (s.setDisp f).cur.kernels = s.cur.kernels := rfl
@[simp] theorem State.setDisp_cur_images (s : State) (f : Disp → Disp) : (s.setDisp f).cur.images = s.cur.images := rfl
@[simp] theorem State.setDisp_cur_loadStatus (s : State) (f : Disp → Disp) : (s.setDisp f).cur.loadStatus = s.cur.loadStatus := rfl
@[simp] theorem State.setDisp_cur_disp (s : State) (f : Disp → Disp) : (s.setDisp f).cur.disp = f s.cur.disp := rfl
@[simp] theorem State.setDisp_cur_coll (s : State) (f : Disp → Disp) : (s.setDisp f).cur.coll = s.cur.coll := rfl
@[simp] theorem State.setDisp_cur_links (s : State) (f : Disp → Disp) : (s.setDisp f).cur.links = s.cur.links := rfl
@[simp] theorem State.setDisp_cur_dies (s : State) (f : Disp → Disp) : (s.setDisp f).cur.dies = s.cur.dies := rfl
@[simp] theorem State.setDisp_cur_retiring (s : State) (f : Disp → Disp) : (s.setDisp f).cur.retiring = s.cur.retiring := rfl
@[simp] theorem State.setDisp_cur_info (s : State) (f : Disp → Disp) : (s.setDisp f).cur.info = s.cur.info := rfl
@[simp] theorem State.setDisp_cur_replies (s : State) (f : Disp → Disp) : (s.setDisp f).cur.replies = s.cur.replies := rfl
@[simp] theorem State.setDisp_cur_inbox (s : State) (f : Disp → Disp) : (s.setDisp f).cur.inbox = s.cur.inbox := rfl
@[simp] theorem State.setDisp_cur_peerOps (s : State) (f : Disp → Disp) : (s.setDisp f).cur.peerOps = s.cur.peerOps := rfl
@[simp] theorem State.setDisp_cur_peerInvs (s : State) (f : Disp → Disp) : (s.setDisp f).cur.peerInvs = s.cur.peerInvs := rfl

@[simp] theorem State.used_cur (s : State) : s.used.cur = s.cur := rfl
@[simp] theorem State.used_snap (s : State) : s.used.snap = s.snap := rfl
@[simp] theorem State.used_verdict (s : State) : s.used.verdict = s.verdict := rfl
@[simp] theorem State.used_turn (s : State) : s.used.turn = s.turn := rfl
@[simp] theorem State.used_freeIdx (s : State) : s.used.freeIdx = s.freeIdx + 1 := rfl
@[simp] theorem State.used_waits (s : State) : s.used.waits = s.waits := rfl
@[simp] theorem State.used_rd (s : State) : s.used.rd = s.rd := rfl

/-- While a bundle issues, every slot reads the machine as it stood (R48). -/
theorem State.rd_of_snap {s : State} {m : Mach} (h : s.snap = some m) : s.rd = m := by simp [State.rd, h]
theorem State.rd_of_none {s : State} (h : s.snap = none) : s.rd = s.cur := by simp [State.rd, h]

@[simp] theorem Core.noteRead_num (c : Core) (l : List Nat) : (c.noteRead l).num = c.num := rfl
@[simp] theorem Core.noteRead_status (c : Core) (l : List Nat) : (c.noteRead l).status = c.status := rfl
@[simp] theorem Core.noteRead_s (c : Core) (l : List Nat) : (c.noteRead l).s = c.s := rfl
@[simp] theorem Core.noteRead_v (c : Core) (l : List Nat) : (c.noteRead l).v = c.v := rfl
@[simp] theorem Core.noteRead_w (c : Core) (l : List Nat) : (c.noteRead l).w = c.w := rfl
@[simp] theorem Core.noteRead_x (c : Core) (l : List Nat) : (c.noteRead l).x = c.x := rfl
@[simp] theorem Core.noteRead_m (c : Core) (l : List Nat) : (c.noteRead l).m = c.m := rfl
@[simp] theorem Core.noteRead_shape (c : Core) (l : List Nat) : (c.noteRead l).shape = c.shape := rfl
@[simp] theorem Core.noteRead_mqLive (c : Core) (l : List Nat) : (c.noteRead l).mqLive = c.mqLive := rfl
@[simp] theorem Core.noteRead_dqLive (c : Core) (l : List Nat) : (c.noteRead l).dqLive = c.dqLive := rfl
@[simp] theorem Core.noteRead_c (c : Core) (l : List Nat) : (c.noteRead l).c = c.c := rfl
@[simp] theorem Core.noteRead_vm (c : Core) (l : List Nat) : (c.noteRead l).vm = c.vm := rfl
@[simp] theorem Core.noteRead_wm (c : Core) (l : List Nat) : (c.noteRead l).wm = c.wm := rfl
@[simp] theorem Core.noteRead_vrow (c : Core) (l : List Nat) : (c.noteRead l).vrow = c.vrow := rfl
@[simp] theorem Core.noteRead_wrow (c : Core) (l : List Nat) : (c.noteRead l).wrow = c.wrow := rfl
@[simp] theorem Core.noteRead_port (c : Core) (l : List Nat) : (c.noteRead l).port = c.port := rfl
@[simp] theorem Core.noteRead_pidx (c : Core) (l : List Nat) : (c.noteRead l).pidx = c.pidx := rfl
@[simp] theorem Core.noteRead_pcfgd (c : Core) (l : List Nat) : (c.noteRead l).pcfgd = c.pcfgd := rfl
@[simp] theorem Core.noteRead_marks (c : Core) (l : List Nat) : (c.noteRead l).marks = c.marks := rfl
@[simp] theorem Core.noteRead_engFault (c : Core) (l : List Nat) : (c.noteRead l).engFault = c.engFault := rfl
@[simp] theorem Core.noteRead_lost (c : Core) (l : List Nat) : (c.noteRead l).lost = c.lost := rfl
@[simp] theorem Core.noteRead_pc (c : Core) (l : List Nat) : (c.noteRead l).pc = c.pc := rfl
@[simp] theorem Core.noteRead_blen (c : Core) (l : List Nat) : (c.noteRead l).blen = c.blen := rfl
@[simp] theorem Core.noteRead_slot (c : Core) (l : List Nat) : (c.noteRead l).slot = c.slot := rfl
@[simp] theorem Core.noteRead_safe (c : Core) (l : List Nat) : (c.noteRead l).safe = c.safe := rfl
@[simp] theorem Core.noteRead_jump (c : Core) (l : List Nat) : (c.noteRead l).jump = c.jump := rfl
@[simp] theorem Core.noteRead_skipTo (c : Core) (l : List Nat) : (c.noteRead l).skipTo = c.skipTo := rfl
@[simp] theorem Core.noteRead_xfer (c : Core) (l : List Nat) : (c.noteRead l).xfer = c.xfer := rfl
@[simp] theorem Core.noteRead_loops (c : Core) (l : List Nat) : (c.noteRead l).loops = c.loops := rfl
@[simp] theorem Core.noteRead_empties (c : Core) (l : List Nat) : (c.noteRead l).empties = c.empties := rfl
@[simp] theorem Core.noteRead_endDue (c : Core) (l : List Nat) : (c.noteRead l).endDue = c.endDue := rfl
@[simp] theorem Core.noteRead_lexit (c : Core) (l : List Nat) : (c.noteRead l).lexit = c.lexit := rfl
@[simp] theorem Core.noteRead_atPoint (c : Core) (l : List Nat) : (c.noteRead l).atPoint = c.atPoint := rfl
@[simp] theorem Core.noteRead_binit (c : Core) (l : List Nat) : (c.noteRead l).binit = c.binit := rfl
@[simp] theorem Core.noteRead_issue (c : Core) (l : List Nat) : (c.noteRead l).issue = c.issue := rfl
@[simp] theorem Core.noteRead_bank0 (c : Core) (l : List Nat) : (c.noteRead l).bank0 = c.bank0 := rfl
@[simp] theorem Core.noteRead_bank1 (c : Core) (l : List Nat) : (c.noteRead l).bank1 = c.bank1 := rfl
@[simp] theorem Core.noteRead_bank2 (c : Core) (l : List Nat) : (c.noteRead l).bank2 = c.bank2 := rfl
@[simp] theorem Core.noteRead_karg (c : Core) (l : List Nat) : (c.noteRead l).karg = c.karg := rfl
@[simp] theorem Core.noteRead_sidx (c : Core) (l : List Nat) : (c.noteRead l).sidx = c.sidx := rfl
@[simp] theorem Core.noteRead_tlevel (c : Core) (l : List Nat) : (c.noteRead l).tlevel = c.tlevel := rfl
@[simp] theorem Core.noteRead_thandler (c : Core) (l : List Nat) : (c.noteRead l).thandler = c.thandler := rfl
@[simp] theorem Core.noteRead_thsize (c : Core) (l : List Nat) : (c.noteRead l).thsize = c.thsize := rfl
@[simp] theorem Core.noteRead_vmid (c : Core) (l : List Nat) : (c.noteRead l).vmid = c.vmid := rfl
@[simp] theorem Core.noteRead_zeroed (c : Core) (l : List Nat) : (c.noteRead l).zeroed = c.zeroed := rfl
@[simp] theorem Core.noteRead_tsave (c : Core) (l : List Nat) : (c.noteRead l).tsave = c.tsave := rfl
@[simp] theorem Core.noteRead_kstat (c : Core) (l : List Nat) : (c.noteRead l).kstat = c.kstat := rfl
@[simp] theorem Core.noteRead_trap1 (c : Core) (l : List Nat) : (c.noteRead l).trap1 = c.trap1 := rfl
@[simp] theorem Core.noteRead_trap2 (c : Core) (l : List Nat) : (c.noteRead l).trap2 = c.trap2 := rfl
@[simp] theorem Core.noteRead_kernel (c : Core) (l : List Nat) : (c.noteRead l).kernel = c.kernel := rfl
@[simp] theorem Core.noteRead_launch (c : Core) (l : List Nat) : (c.noteRead l).launch = c.launch := rfl
@[simp] theorem Core.noteRead_inst (c : Core) (l : List Nat) : (c.noteRead l).inst = c.inst := rfl
@[simp] theorem Core.noteRead_sysq (c : Core) (l : List Nat) : (c.noteRead l).sysq = c.sysq := rfl
@[simp] theorem Core.noteRead_oc (c : Core) (l : List Nat) : (c.noteRead l).oc = c.oc := rfl
@[simp] theorem Core.noteRead_sb (c : Core) (l : List Nat) : (c.noteRead l).sb = c.sb := rfl
@[simp] theorem Core.noteRead_memq (c : Core) (l : List Nat) : (c.noteRead l).memq = c.memq := rfl
@[simp] theorem Core.noteRead_transit (c : Core) (l : List Nat) : (c.noteRead l).transit = c.transit := rfl
@[simp] theorem Core.noteRead_unacked (c : Core) (l : List Nat) : (c.noteRead l).unacked = c.unacked := rfl
@[simp] theorem Core.noteRead_relFence (c : Core) (l : List Nat) : (c.noteRead l).relFence = c.relFence := rfl
@[simp] theorem Core.noteRead_relSince (c : Core) (l : List Nat) : (c.noteRead l).relSince = c.relSince := rfl
@[simp] theorem Core.noteRead_acqWait (c : Core) (l : List Nat) : (c.noteRead l).acqWait = c.acqWait := rfl
@[simp] theorem Core.noteRead_acqAll (c : Core) (l : List Nat) : (c.noteRead l).acqAll = c.acqAll := rfl
@[simp] theorem Core.noteRead_refresh (c : Core) (l : List Nat) : (c.noteRead l).refresh = c.refresh := rfl
@[simp] theorem Core.noteRead_tlbinv (c : Core) (l : List Nat) : (c.noteRead l).tlbinv = c.tlbinv := rfl
@[simp] theorem Core.noteRead_eng (c : Core) (l : List Nat) : (c.noteRead l).eng = c.eng := rfl
@[simp] theorem Core.noteRead_engNext (c : Core) (l : List Nat) : (c.noteRead l).engNext = c.engNext := rfl
@[simp] theorem Core.noteRead_regions (c : Core) (l : List Nat) : (c.noteRead l).regions = c.regions := rfl
@[simp] theorem Core.noteRead_tmOpr (c : Core) (l : List Nat) : (c.noteRead l).tmOpr = c.tmOpr := rfl
@[simp] theorem Core.noteRead_tmRes (c : Core) (l : List Nat) : (c.noteRead l).tmRes = c.tmRes := rfl

@[simp] theorem State.noteRead_snap (s : State) (i : Instr) : (s.noteRead i).snap = s.snap := rfl
@[simp] theorem State.noteRead_verdict (s : State) (i : Instr) : (s.noteRead i).verdict = s.verdict := rfl
@[simp] theorem State.noteRead_turn (s : State) (i : Instr) : (s.noteRead i).turn = s.turn := rfl
@[simp] theorem State.noteRead_freeIdx (s : State) (i : Instr) : (s.noteRead i).freeIdx = s.freeIdx := rfl
@[simp] theorem State.noteRead_waits (s : State) (i : Instr) : (s.noteRead i).waits = s.waits := rfl
@[simp] theorem State.noteRead_cur_quad (s : State) (i : Instr) : (s.noteRead i).cur.quad = s.cur.quad := rfl
@[simp] theorem State.noteRead_cur_arr (s : State) (i : Instr) : (s.noteRead i).cur.arr = s.cur.arr := rfl
@[simp] theorem State.noteRead_cur_arrLeft (s : State) (i : Instr) : (s.noteRead i).cur.arrLeft = s.cur.arrLeft := rfl
@[simp] theorem State.noteRead_cur_mem (s : State) (i : Instr) : (s.noteRead i).cur.mem = s.cur.mem := rfl
@[simp] theorem State.noteRead_cur_tlb (s : State) (i : Instr) : (s.noteRead i).cur.tlb = s.cur.tlb := rfl
@[simp] theorem State.noteRead_cur_l2tlb (s : State) (i : Instr) : (s.noteRead i).cur.l2tlb = s.cur.l2tlb := rfl
@[simp] theorem State.noteRead_cur_ptrs (s : State) (i : Instr) : (s.noteRead i).cur.ptrs = s.cur.ptrs := rfl
@[simp] theorem State.noteRead_cur_pool (s : State) (i : Instr) : (s.noteRead i).cur.pool = s.cur.pool := rfl
@[simp] theorem State.noteRead_cur_cycle (s : State) (i : Instr) : (s.noteRead i).cur.cycle = s.cur.cycle := rfl
@[simp] theorem State.noteRead_cur_ftime (s : State) (i : Instr) : (s.noteRead i).cur.ftime = s.cur.ftime := rfl
@[simp] theorem State.noteRead_cur_oas (s : State) (i : Instr) : (s.noteRead i).cur.oas = s.cur.oas := rfl
@[simp] theorem State.noteRead_cur_kernels (s : State) (i : Instr) : (s.noteRead i).cur.kernels = s.cur.kernels := rfl
@[simp] theorem State.noteRead_cur_images (s : State) (i : Instr) : (s.noteRead i).cur.images = s.cur.images := rfl
@[simp] theorem State.noteRead_cur_loadStatus (s : State) (i : Instr) : (s.noteRead i).cur.loadStatus = s.cur.loadStatus := rfl
@[simp] theorem State.noteRead_cur_disp (s : State) (i : Instr) : (s.noteRead i).cur.disp = s.cur.disp := rfl
@[simp] theorem State.noteRead_cur_coll (s : State) (i : Instr) : (s.noteRead i).cur.coll = s.cur.coll := rfl
@[simp] theorem State.noteRead_cur_links (s : State) (i : Instr) : (s.noteRead i).cur.links = s.cur.links := rfl
@[simp] theorem State.noteRead_cur_dies (s : State) (i : Instr) : (s.noteRead i).cur.dies = s.cur.dies := rfl
@[simp] theorem State.noteRead_cur_retiring (s : State) (i : Instr) : (s.noteRead i).cur.retiring = s.cur.retiring := rfl
@[simp] theorem State.noteRead_cur_info (s : State) (i : Instr) : (s.noteRead i).cur.info = s.cur.info := rfl
@[simp] theorem State.noteRead_cur_replies (s : State) (i : Instr) : (s.noteRead i).cur.replies = s.cur.replies := rfl
@[simp] theorem State.noteRead_cur_inbox (s : State) (i : Instr) : (s.noteRead i).cur.inbox = s.cur.inbox := rfl
@[simp] theorem State.noteRead_cur_peerOps (s : State) (i : Instr) : (s.noteRead i).cur.peerOps = s.cur.peerOps := rfl
@[simp] theorem State.noteRead_cur_peerInvs (s : State) (i : Instr) : (s.noteRead i).cur.peerInvs = s.cur.peerInvs := rfl

@[simp] theorem Core.putS_num (c : Core) (p : Nat) (x : Word) : (c.putS p x).num = c.num := by unfold Core.putS; split <;> rfl
@[simp] theorem Core.putS_status (c : Core) (p : Nat) (x : Word) : (c.putS p x).status = c.status := by unfold Core.putS; split <;> rfl
@[simp] theorem Core.putS_v (c : Core) (p : Nat) (x : Word) : (c.putS p x).v = c.v := by unfold Core.putS; split <;> rfl
@[simp] theorem Core.putS_w (c : Core) (p : Nat) (x : Word) : (c.putS p x).w = c.w := by unfold Core.putS; split <;> rfl
@[simp] theorem Core.putS_x (c : Core) (p : Nat) (x : Word) : (c.putS p x).x = c.x := by unfold Core.putS; split <;> rfl
@[simp] theorem Core.putS_m (c : Core) (p : Nat) (x : Word) : (c.putS p x).m = c.m := by unfold Core.putS; split <;> rfl
@[simp] theorem Core.putS_shape (c : Core) (p : Nat) (x : Word) : (c.putS p x).shape = c.shape := by unfold Core.putS; split <;> rfl
@[simp] theorem Core.putS_mqLive (c : Core) (p : Nat) (x : Word) : (c.putS p x).mqLive = c.mqLive := by unfold Core.putS; split <;> rfl
@[simp] theorem Core.putS_dqLive (c : Core) (p : Nat) (x : Word) : (c.putS p x).dqLive = c.dqLive := by unfold Core.putS; split <;> rfl
@[simp] theorem Core.putS_c (c : Core) (p : Nat) (x : Word) : (c.putS p x).c = c.c := by unfold Core.putS; split <;> rfl
@[simp] theorem Core.putS_vm (c : Core) (p : Nat) (x : Word) : (c.putS p x).vm = c.vm := by unfold Core.putS; split <;> rfl
@[simp] theorem Core.putS_wm (c : Core) (p : Nat) (x : Word) : (c.putS p x).wm = c.wm := by unfold Core.putS; split <;> rfl
@[simp] theorem Core.putS_vrow (c : Core) (p : Nat) (x : Word) : (c.putS p x).vrow = c.vrow := by unfold Core.putS; split <;> rfl
@[simp] theorem Core.putS_wrow (c : Core) (p : Nat) (x : Word) : (c.putS p x).wrow = c.wrow := by unfold Core.putS; split <;> rfl
@[simp] theorem Core.putS_port (c : Core) (p : Nat) (x : Word) : (c.putS p x).port = c.port := by unfold Core.putS; split <;> rfl
@[simp] theorem Core.putS_pidx (c : Core) (p : Nat) (x : Word) : (c.putS p x).pidx = c.pidx := by unfold Core.putS; split <;> rfl
@[simp] theorem Core.putS_pcfgd (c : Core) (p : Nat) (x : Word) : (c.putS p x).pcfgd = c.pcfgd := by unfold Core.putS; split <;> rfl
@[simp] theorem Core.putS_lost (c : Core) (p : Nat) (x : Word) : (c.putS p x).lost = c.lost := by unfold Core.putS; split <;> rfl
@[simp] theorem Core.putS_pc (c : Core) (p : Nat) (x : Word) : (c.putS p x).pc = c.pc := by unfold Core.putS; split <;> rfl
@[simp] theorem Core.putS_blen (c : Core) (p : Nat) (x : Word) : (c.putS p x).blen = c.blen := by unfold Core.putS; split <;> rfl
@[simp] theorem Core.putS_slot (c : Core) (p : Nat) (x : Word) : (c.putS p x).slot = c.slot := by unfold Core.putS; split <;> rfl
@[simp] theorem Core.putS_safe (c : Core) (p : Nat) (x : Word) : (c.putS p x).safe = c.safe := by unfold Core.putS; split <;> rfl
@[simp] theorem Core.putS_jump (c : Core) (p : Nat) (x : Word) : (c.putS p x).jump = c.jump := by unfold Core.putS; split <;> rfl
@[simp] theorem Core.putS_skipTo (c : Core) (p : Nat) (x : Word) : (c.putS p x).skipTo = c.skipTo := by unfold Core.putS; split <;> rfl
@[simp] theorem Core.putS_xfer (c : Core) (p : Nat) (x : Word) : (c.putS p x).xfer = c.xfer := by unfold Core.putS; split <;> rfl
@[simp] theorem Core.putS_loops (c : Core) (p : Nat) (x : Word) : (c.putS p x).loops = c.loops := by unfold Core.putS; split <;> rfl
@[simp] theorem Core.putS_empties (c : Core) (p : Nat) (x : Word) : (c.putS p x).empties = c.empties := by unfold Core.putS; split <;> rfl
@[simp] theorem Core.putS_endDue (c : Core) (p : Nat) (x : Word) : (c.putS p x).endDue = c.endDue := by unfold Core.putS; split <;> rfl
@[simp] theorem Core.putS_lexit (c : Core) (p : Nat) (x : Word) : (c.putS p x).lexit = c.lexit := by unfold Core.putS; split <;> rfl
@[simp] theorem Core.putS_atPoint (c : Core) (p : Nat) (x : Word) : (c.putS p x).atPoint = c.atPoint := by unfold Core.putS; split <;> rfl
@[simp] theorem Core.putS_binit (c : Core) (p : Nat) (x : Word) : (c.putS p x).binit = c.binit := by unfold Core.putS; split <;> rfl
@[simp] theorem Core.putS_issue (c : Core) (p : Nat) (x : Word) : (c.putS p x).issue = c.issue := by unfold Core.putS; split <;> rfl
@[simp] theorem Core.putS_bank0 (c : Core) (p : Nat) (x : Word) : (c.putS p x).bank0 = c.bank0 := by unfold Core.putS; split <;> rfl
@[simp] theorem Core.putS_bank1 (c : Core) (p : Nat) (x : Word) : (c.putS p x).bank1 = c.bank1 := by unfold Core.putS; split <;> rfl
@[simp] theorem Core.putS_bank2 (c : Core) (p : Nat) (x : Word) : (c.putS p x).bank2 = c.bank2 := by unfold Core.putS; split <;> rfl
@[simp] theorem Core.putS_karg (c : Core) (p : Nat) (x : Word) : (c.putS p x).karg = c.karg := by unfold Core.putS; split <;> rfl
@[simp] theorem Core.putS_sidx (c : Core) (p : Nat) (x : Word) : (c.putS p x).sidx = c.sidx := by unfold Core.putS; split <;> rfl
@[simp] theorem Core.putS_tlevel (c : Core) (p : Nat) (x : Word) : (c.putS p x).tlevel = c.tlevel := by unfold Core.putS; split <;> rfl
@[simp] theorem Core.putS_thandler (c : Core) (p : Nat) (x : Word) : (c.putS p x).thandler = c.thandler := by unfold Core.putS; split <;> rfl
@[simp] theorem Core.putS_thsize (c : Core) (p : Nat) (x : Word) : (c.putS p x).thsize = c.thsize := by unfold Core.putS; split <;> rfl
@[simp] theorem Core.putS_vmid (c : Core) (p : Nat) (x : Word) : (c.putS p x).vmid = c.vmid := by unfold Core.putS; split <;> rfl
@[simp] theorem Core.putS_zeroed (c : Core) (p : Nat) (x : Word) : (c.putS p x).zeroed = c.zeroed := by unfold Core.putS; split <;> rfl
@[simp] theorem Core.putS_tsave (c : Core) (p : Nat) (x : Word) : (c.putS p x).tsave = c.tsave := by unfold Core.putS; split <;> rfl
@[simp] theorem Core.putS_kstat (c : Core) (p : Nat) (x : Word) : (c.putS p x).kstat = c.kstat := by unfold Core.putS; split <;> rfl
@[simp] theorem Core.putS_trap1 (c : Core) (p : Nat) (x : Word) : (c.putS p x).trap1 = c.trap1 := by unfold Core.putS; split <;> rfl
@[simp] theorem Core.putS_trap2 (c : Core) (p : Nat) (x : Word) : (c.putS p x).trap2 = c.trap2 := by unfold Core.putS; split <;> rfl
@[simp] theorem Core.putS_kernel (c : Core) (p : Nat) (x : Word) : (c.putS p x).kernel = c.kernel := by unfold Core.putS; split <;> rfl
@[simp] theorem Core.putS_launch (c : Core) (p : Nat) (x : Word) : (c.putS p x).launch = c.launch := by unfold Core.putS; split <;> rfl
@[simp] theorem Core.putS_inst (c : Core) (p : Nat) (x : Word) : (c.putS p x).inst = c.inst := by unfold Core.putS; split <;> rfl
@[simp] theorem Core.putS_sysq (c : Core) (p : Nat) (x : Word) : (c.putS p x).sysq = c.sysq := by unfold Core.putS; split <;> rfl
@[simp] theorem Core.putS_oc (c : Core) (p : Nat) (x : Word) : (c.putS p x).oc = c.oc := by unfold Core.putS; split <;> rfl
@[simp] theorem Core.putS_sb (c : Core) (p : Nat) (x : Word) : (c.putS p x).sb = c.sb := by unfold Core.putS; split <;> rfl
@[simp] theorem Core.putS_memq (c : Core) (p : Nat) (x : Word) : (c.putS p x).memq = c.memq := by unfold Core.putS; split <;> rfl
@[simp] theorem Core.putS_transit (c : Core) (p : Nat) (x : Word) : (c.putS p x).transit = c.transit := by unfold Core.putS; split <;> rfl
@[simp] theorem Core.putS_unacked (c : Core) (p : Nat) (x : Word) : (c.putS p x).unacked = c.unacked := by unfold Core.putS; split <;> rfl
@[simp] theorem Core.putS_relFence (c : Core) (p : Nat) (x : Word) : (c.putS p x).relFence = c.relFence := by unfold Core.putS; split <;> rfl
@[simp] theorem Core.putS_relSince (c : Core) (p : Nat) (x : Word) : (c.putS p x).relSince = c.relSince := by unfold Core.putS; split <;> rfl
@[simp] theorem Core.putS_acqWait (c : Core) (p : Nat) (x : Word) : (c.putS p x).acqWait = c.acqWait := by unfold Core.putS; split <;> rfl
@[simp] theorem Core.putS_acqAll (c : Core) (p : Nat) (x : Word) : (c.putS p x).acqAll = c.acqAll := by unfold Core.putS; split <;> rfl
@[simp] theorem Core.putS_refresh (c : Core) (p : Nat) (x : Word) : (c.putS p x).refresh = c.refresh := by unfold Core.putS; split <;> rfl
@[simp] theorem Core.putS_tlbinv (c : Core) (p : Nat) (x : Word) : (c.putS p x).tlbinv = c.tlbinv := by unfold Core.putS; split <;> rfl
@[simp] theorem Core.putS_eng (c : Core) (p : Nat) (x : Word) : (c.putS p x).eng = c.eng := by unfold Core.putS; split <;> rfl
@[simp] theorem Core.putS_engNext (c : Core) (p : Nat) (x : Word) : (c.putS p x).engNext = c.engNext := by unfold Core.putS; split <;> rfl
@[simp] theorem Core.putS_regions (c : Core) (p : Nat) (x : Word) : (c.putS p x).regions = c.regions := by unfold Core.putS; split <;> rfl
@[simp] theorem Core.putS_tmOpr (c : Core) (p : Nat) (x : Word) : (c.putS p x).tmOpr = c.tmOpr := by unfold Core.putS; split <;> rfl
@[simp] theorem Core.putS_tmRes (c : Core) (p : Nat) (x : Word) : (c.putS p x).tmRes = c.tmRes := by unfold Core.putS; split <;> rfl

@[simp] theorem Core.putTile_num (c : Core) (w : Bool) (p r : Nat) (x k : Row) : (c.putTile w p r x k).num = c.num := by cases w <;> rfl
@[simp] theorem Core.putTile_status (c : Core) (w : Bool) (p r : Nat) (x k : Row) : (c.putTile w p r x k).status = c.status := by cases w <;> rfl
@[simp] theorem Core.putTile_s (c : Core) (w : Bool) (p r : Nat) (x k : Row) : (c.putTile w p r x k).s = c.s := by cases w <;> rfl
@[simp] theorem Core.putTile_x (c : Core) (w : Bool) (p r : Nat) (x k : Row) : (c.putTile w p r x k).x = c.x := by cases w <;> rfl
@[simp] theorem Core.putTile_m (c : Core) (w : Bool) (p r : Nat) (x k : Row) : (c.putTile w p r x k).m = c.m := by cases w <;> rfl
@[simp] theorem Core.putTile_shape (c : Core) (w : Bool) (p r : Nat) (x k : Row) : (c.putTile w p r x k).shape = c.shape := by cases w <;> rfl
@[simp] theorem Core.putTile_mqLive (c : Core) (w : Bool) (p r : Nat) (x k : Row) : (c.putTile w p r x k).mqLive = c.mqLive := by cases w <;> rfl
@[simp] theorem Core.putTile_dqLive (c : Core) (w : Bool) (p r : Nat) (x k : Row) : (c.putTile w p r x k).dqLive = c.dqLive := by cases w <;> rfl
@[simp] theorem Core.putTile_c (c : Core) (w : Bool) (p r : Nat) (x k : Row) : (c.putTile w p r x k).c = c.c := by cases w <;> rfl
@[simp] theorem Core.putTile_vm (c : Core) (w : Bool) (p r : Nat) (x k : Row) : (c.putTile w p r x k).vm = c.vm := by cases w <;> rfl
@[simp] theorem Core.putTile_wm (c : Core) (w : Bool) (p r : Nat) (x k : Row) : (c.putTile w p r x k).wm = c.wm := by cases w <;> rfl
@[simp] theorem Core.putTile_vrow (c : Core) (w : Bool) (p r : Nat) (x k : Row) : (c.putTile w p r x k).vrow = c.vrow := by cases w <;> rfl
@[simp] theorem Core.putTile_wrow (c : Core) (w : Bool) (p r : Nat) (x k : Row) : (c.putTile w p r x k).wrow = c.wrow := by cases w <;> rfl
@[simp] theorem Core.putTile_port (c : Core) (w : Bool) (p r : Nat) (x k : Row) : (c.putTile w p r x k).port = c.port := by cases w <;> rfl
@[simp] theorem Core.putTile_pidx (c : Core) (w : Bool) (p r : Nat) (x k : Row) : (c.putTile w p r x k).pidx = c.pidx := by cases w <;> rfl
@[simp] theorem Core.putTile_pcfgd (c : Core) (w : Bool) (p r : Nat) (x k : Row) : (c.putTile w p r x k).pcfgd = c.pcfgd := by cases w <;> rfl
@[simp] theorem Core.putTile_marks (c : Core) (w : Bool) (p r : Nat) (x k : Row) : (c.putTile w p r x k).marks = c.marks := by cases w <;> rfl
@[simp] theorem Core.putTile_unread (c : Core) (w : Bool) (p r : Nat) (x k : Row) : (c.putTile w p r x k).unread = c.unread := by cases w <;> rfl
@[simp] theorem Core.putTile_engFault (c : Core) (w : Bool) (p r : Nat) (x k : Row) : (c.putTile w p r x k).engFault = c.engFault := by cases w <;> rfl
@[simp] theorem Core.putTile_lost (c : Core) (w : Bool) (p r : Nat) (x k : Row) : (c.putTile w p r x k).lost = c.lost := by cases w <;> rfl
@[simp] theorem Core.putTile_pc (c : Core) (w : Bool) (p r : Nat) (x k : Row) : (c.putTile w p r x k).pc = c.pc := by cases w <;> rfl
@[simp] theorem Core.putTile_blen (c : Core) (w : Bool) (p r : Nat) (x k : Row) : (c.putTile w p r x k).blen = c.blen := by cases w <;> rfl
@[simp] theorem Core.putTile_slot (c : Core) (w : Bool) (p r : Nat) (x k : Row) : (c.putTile w p r x k).slot = c.slot := by cases w <;> rfl
@[simp] theorem Core.putTile_safe (c : Core) (w : Bool) (p r : Nat) (x k : Row) : (c.putTile w p r x k).safe = c.safe := by cases w <;> rfl
@[simp] theorem Core.putTile_jump (c : Core) (w : Bool) (p r : Nat) (x k : Row) : (c.putTile w p r x k).jump = c.jump := by cases w <;> rfl
@[simp] theorem Core.putTile_skipTo (c : Core) (w : Bool) (p r : Nat) (x k : Row) : (c.putTile w p r x k).skipTo = c.skipTo := by cases w <;> rfl
@[simp] theorem Core.putTile_xfer (c : Core) (w : Bool) (p r : Nat) (x k : Row) : (c.putTile w p r x k).xfer = c.xfer := by cases w <;> rfl
@[simp] theorem Core.putTile_loops (c : Core) (w : Bool) (p r : Nat) (x k : Row) : (c.putTile w p r x k).loops = c.loops := by cases w <;> rfl
@[simp] theorem Core.putTile_empties (c : Core) (w : Bool) (p r : Nat) (x k : Row) : (c.putTile w p r x k).empties = c.empties := by cases w <;> rfl
@[simp] theorem Core.putTile_endDue (c : Core) (w : Bool) (p r : Nat) (x k : Row) : (c.putTile w p r x k).endDue = c.endDue := by cases w <;> rfl
@[simp] theorem Core.putTile_lexit (c : Core) (w : Bool) (p r : Nat) (x k : Row) : (c.putTile w p r x k).lexit = c.lexit := by cases w <;> rfl
@[simp] theorem Core.putTile_atPoint (c : Core) (w : Bool) (p r : Nat) (x k : Row) : (c.putTile w p r x k).atPoint = c.atPoint := by cases w <;> rfl
@[simp] theorem Core.putTile_binit (c : Core) (w : Bool) (p r : Nat) (x k : Row) : (c.putTile w p r x k).binit = c.binit := by cases w <;> rfl
@[simp] theorem Core.putTile_issue (c : Core) (w : Bool) (p r : Nat) (x k : Row) : (c.putTile w p r x k).issue = c.issue := by cases w <;> rfl
@[simp] theorem Core.putTile_bank0 (c : Core) (w : Bool) (p r : Nat) (x k : Row) : (c.putTile w p r x k).bank0 = c.bank0 := by cases w <;> rfl
@[simp] theorem Core.putTile_bank1 (c : Core) (w : Bool) (p r : Nat) (x k : Row) : (c.putTile w p r x k).bank1 = c.bank1 := by cases w <;> rfl
@[simp] theorem Core.putTile_bank2 (c : Core) (w : Bool) (p r : Nat) (x k : Row) : (c.putTile w p r x k).bank2 = c.bank2 := by cases w <;> rfl
@[simp] theorem Core.putTile_karg (c : Core) (w : Bool) (p r : Nat) (x k : Row) : (c.putTile w p r x k).karg = c.karg := by cases w <;> rfl
@[simp] theorem Core.putTile_sidx (c : Core) (w : Bool) (p r : Nat) (x k : Row) : (c.putTile w p r x k).sidx = c.sidx := by cases w <;> rfl
@[simp] theorem Core.putTile_tlevel (c : Core) (w : Bool) (p r : Nat) (x k : Row) : (c.putTile w p r x k).tlevel = c.tlevel := by cases w <;> rfl
@[simp] theorem Core.putTile_thandler (c : Core) (w : Bool) (p r : Nat) (x k : Row) : (c.putTile w p r x k).thandler = c.thandler := by cases w <;> rfl
@[simp] theorem Core.putTile_thsize (c : Core) (w : Bool) (p r : Nat) (x k : Row) : (c.putTile w p r x k).thsize = c.thsize := by cases w <;> rfl
@[simp] theorem Core.putTile_vmid (c : Core) (w : Bool) (p r : Nat) (x k : Row) : (c.putTile w p r x k).vmid = c.vmid := by cases w <;> rfl
@[simp] theorem Core.putTile_zeroed (c : Core) (w : Bool) (p r : Nat) (x k : Row) : (c.putTile w p r x k).zeroed = c.zeroed := by cases w <;> rfl
@[simp] theorem Core.putTile_tsave (c : Core) (w : Bool) (p r : Nat) (x k : Row) : (c.putTile w p r x k).tsave = c.tsave := by cases w <;> rfl
@[simp] theorem Core.putTile_kstat (c : Core) (w : Bool) (p r : Nat) (x k : Row) : (c.putTile w p r x k).kstat = c.kstat := by cases w <;> rfl
@[simp] theorem Core.putTile_trap1 (c : Core) (w : Bool) (p r : Nat) (x k : Row) : (c.putTile w p r x k).trap1 = c.trap1 := by cases w <;> rfl
@[simp] theorem Core.putTile_trap2 (c : Core) (w : Bool) (p r : Nat) (x k : Row) : (c.putTile w p r x k).trap2 = c.trap2 := by cases w <;> rfl
@[simp] theorem Core.putTile_kernel (c : Core) (w : Bool) (p r : Nat) (x k : Row) : (c.putTile w p r x k).kernel = c.kernel := by cases w <;> rfl
@[simp] theorem Core.putTile_launch (c : Core) (w : Bool) (p r : Nat) (x k : Row) : (c.putTile w p r x k).launch = c.launch := by cases w <;> rfl
@[simp] theorem Core.putTile_inst (c : Core) (w : Bool) (p r : Nat) (x k : Row) : (c.putTile w p r x k).inst = c.inst := by cases w <;> rfl
@[simp] theorem Core.putTile_sysq (c : Core) (w : Bool) (p r : Nat) (x k : Row) : (c.putTile w p r x k).sysq = c.sysq := by cases w <;> rfl
@[simp] theorem Core.putTile_oc (c : Core) (w : Bool) (p r : Nat) (x k : Row) : (c.putTile w p r x k).oc = c.oc := by cases w <;> rfl
@[simp] theorem Core.putTile_sb (c : Core) (w : Bool) (p r : Nat) (x k : Row) : (c.putTile w p r x k).sb = c.sb := by cases w <;> rfl
@[simp] theorem Core.putTile_memq (c : Core) (w : Bool) (p r : Nat) (x k : Row) : (c.putTile w p r x k).memq = c.memq := by cases w <;> rfl
@[simp] theorem Core.putTile_transit (c : Core) (w : Bool) (p r : Nat) (x k : Row) : (c.putTile w p r x k).transit = c.transit := by cases w <;> rfl
@[simp] theorem Core.putTile_unacked (c : Core) (w : Bool) (p r : Nat) (x k : Row) : (c.putTile w p r x k).unacked = c.unacked := by cases w <;> rfl
@[simp] theorem Core.putTile_relFence (c : Core) (w : Bool) (p r : Nat) (x k : Row) : (c.putTile w p r x k).relFence = c.relFence := by cases w <;> rfl
@[simp] theorem Core.putTile_relSince (c : Core) (w : Bool) (p r : Nat) (x k : Row) : (c.putTile w p r x k).relSince = c.relSince := by cases w <;> rfl
@[simp] theorem Core.putTile_acqWait (c : Core) (w : Bool) (p r : Nat) (x k : Row) : (c.putTile w p r x k).acqWait = c.acqWait := by cases w <;> rfl
@[simp] theorem Core.putTile_acqAll (c : Core) (w : Bool) (p r : Nat) (x k : Row) : (c.putTile w p r x k).acqAll = c.acqAll := by cases w <;> rfl
@[simp] theorem Core.putTile_refresh (c : Core) (w : Bool) (p r : Nat) (x k : Row) : (c.putTile w p r x k).refresh = c.refresh := by cases w <;> rfl
@[simp] theorem Core.putTile_tlbinv (c : Core) (w : Bool) (p r : Nat) (x k : Row) : (c.putTile w p r x k).tlbinv = c.tlbinv := by cases w <;> rfl
@[simp] theorem Core.putTile_eng (c : Core) (w : Bool) (p r : Nat) (x k : Row) : (c.putTile w p r x k).eng = c.eng := by cases w <;> rfl
@[simp] theorem Core.putTile_engNext (c : Core) (w : Bool) (p r : Nat) (x k : Row) : (c.putTile w p r x k).engNext = c.engNext := by cases w <;> rfl
@[simp] theorem Core.putTile_regions (c : Core) (w : Bool) (p r : Nat) (x k : Row) : (c.putTile w p r x k).regions = c.regions := by cases w <;> rfl
@[simp] theorem Core.putTile_tmOpr (c : Core) (w : Bool) (p r : Nat) (x k : Row) : (c.putTile w p r x k).tmOpr = c.tmOpr := by cases w <;> rfl
@[simp] theorem Core.putTile_tmRes (c : Core) (w : Bool) (p r : Nat) (x k : Row) : (c.putTile w p r x k).tmRes = c.tmRes := by cases w <;> rfl

@[simp] theorem Core.setBank_num (c : Core) (l : Nat) (b : List Pending) : (c.setBank l b).num = c.num := by unfold Core.setBank; split <;> [rfl; split <;> rfl]
@[simp] theorem Core.setBank_status (c : Core) (l : Nat) (b : List Pending) : (c.setBank l b).status = c.status := by unfold Core.setBank; split <;> [rfl; split <;> rfl]
@[simp] theorem Core.setBank_s (c : Core) (l : Nat) (b : List Pending) : (c.setBank l b).s = c.s := by unfold Core.setBank; split <;> [rfl; split <;> rfl]
@[simp] theorem Core.setBank_v (c : Core) (l : Nat) (b : List Pending) : (c.setBank l b).v = c.v := by unfold Core.setBank; split <;> [rfl; split <;> rfl]
@[simp] theorem Core.setBank_w (c : Core) (l : Nat) (b : List Pending) : (c.setBank l b).w = c.w := by unfold Core.setBank; split <;> [rfl; split <;> rfl]
@[simp] theorem Core.setBank_x (c : Core) (l : Nat) (b : List Pending) : (c.setBank l b).x = c.x := by unfold Core.setBank; split <;> [rfl; split <;> rfl]
@[simp] theorem Core.setBank_m (c : Core) (l : Nat) (b : List Pending) : (c.setBank l b).m = c.m := by unfold Core.setBank; split <;> [rfl; split <;> rfl]
@[simp] theorem Core.setBank_shape (c : Core) (l : Nat) (b : List Pending) : (c.setBank l b).shape = c.shape := by unfold Core.setBank; split <;> [rfl; split <;> rfl]
@[simp] theorem Core.setBank_mqLive (c : Core) (l : Nat) (b : List Pending) : (c.setBank l b).mqLive = c.mqLive := by unfold Core.setBank; split <;> [rfl; split <;> rfl]
@[simp] theorem Core.setBank_dqLive (c : Core) (l : Nat) (b : List Pending) : (c.setBank l b).dqLive = c.dqLive := by unfold Core.setBank; split <;> [rfl; split <;> rfl]
@[simp] theorem Core.setBank_c (c : Core) (l : Nat) (b : List Pending) : (c.setBank l b).c = c.c := by unfold Core.setBank; split <;> [rfl; split <;> rfl]
@[simp] theorem Core.setBank_vm (c : Core) (l : Nat) (b : List Pending) : (c.setBank l b).vm = c.vm := by unfold Core.setBank; split <;> [rfl; split <;> rfl]
@[simp] theorem Core.setBank_wm (c : Core) (l : Nat) (b : List Pending) : (c.setBank l b).wm = c.wm := by unfold Core.setBank; split <;> [rfl; split <;> rfl]
@[simp] theorem Core.setBank_vrow (c : Core) (l : Nat) (b : List Pending) : (c.setBank l b).vrow = c.vrow := by unfold Core.setBank; split <;> [rfl; split <;> rfl]
@[simp] theorem Core.setBank_wrow (c : Core) (l : Nat) (b : List Pending) : (c.setBank l b).wrow = c.wrow := by unfold Core.setBank; split <;> [rfl; split <;> rfl]
@[simp] theorem Core.setBank_port (c : Core) (l : Nat) (b : List Pending) : (c.setBank l b).port = c.port := by unfold Core.setBank; split <;> [rfl; split <;> rfl]
@[simp] theorem Core.setBank_pidx (c : Core) (l : Nat) (b : List Pending) : (c.setBank l b).pidx = c.pidx := by unfold Core.setBank; split <;> [rfl; split <;> rfl]
@[simp] theorem Core.setBank_pcfgd (c : Core) (l : Nat) (b : List Pending) : (c.setBank l b).pcfgd = c.pcfgd := by unfold Core.setBank; split <;> [rfl; split <;> rfl]
@[simp] theorem Core.setBank_marks (c : Core) (l : Nat) (b : List Pending) : (c.setBank l b).marks = c.marks := by unfold Core.setBank; split <;> [rfl; split <;> rfl]
@[simp] theorem Core.setBank_unread (c : Core) (l : Nat) (b : List Pending) : (c.setBank l b).unread = c.unread := by unfold Core.setBank; split <;> [rfl; split <;> rfl]
@[simp] theorem Core.setBank_engFault (c : Core) (l : Nat) (b : List Pending) : (c.setBank l b).engFault = c.engFault := by unfold Core.setBank; split <;> [rfl; split <;> rfl]
@[simp] theorem Core.setBank_lost (c : Core) (l : Nat) (b : List Pending) : (c.setBank l b).lost = c.lost := by unfold Core.setBank; split <;> [rfl; split <;> rfl]
@[simp] theorem Core.setBank_pc (c : Core) (l : Nat) (b : List Pending) : (c.setBank l b).pc = c.pc := by unfold Core.setBank; split <;> [rfl; split <;> rfl]
@[simp] theorem Core.setBank_blen (c : Core) (l : Nat) (b : List Pending) : (c.setBank l b).blen = c.blen := by unfold Core.setBank; split <;> [rfl; split <;> rfl]
@[simp] theorem Core.setBank_slot (c : Core) (l : Nat) (b : List Pending) : (c.setBank l b).slot = c.slot := by unfold Core.setBank; split <;> [rfl; split <;> rfl]
@[simp] theorem Core.setBank_safe (c : Core) (l : Nat) (b : List Pending) : (c.setBank l b).safe = c.safe := by unfold Core.setBank; split <;> [rfl; split <;> rfl]
@[simp] theorem Core.setBank_jump (c : Core) (l : Nat) (b : List Pending) : (c.setBank l b).jump = c.jump := by unfold Core.setBank; split <;> [rfl; split <;> rfl]
@[simp] theorem Core.setBank_skipTo (c : Core) (l : Nat) (b : List Pending) : (c.setBank l b).skipTo = c.skipTo := by unfold Core.setBank; split <;> [rfl; split <;> rfl]
@[simp] theorem Core.setBank_xfer (c : Core) (l : Nat) (b : List Pending) : (c.setBank l b).xfer = c.xfer := by unfold Core.setBank; split <;> [rfl; split <;> rfl]
@[simp] theorem Core.setBank_loops (c : Core) (l : Nat) (b : List Pending) : (c.setBank l b).loops = c.loops := by unfold Core.setBank; split <;> [rfl; split <;> rfl]
@[simp] theorem Core.setBank_empties (c : Core) (l : Nat) (b : List Pending) : (c.setBank l b).empties = c.empties := by unfold Core.setBank; split <;> [rfl; split <;> rfl]
@[simp] theorem Core.setBank_endDue (c : Core) (l : Nat) (b : List Pending) : (c.setBank l b).endDue = c.endDue := by unfold Core.setBank; split <;> [rfl; split <;> rfl]
@[simp] theorem Core.setBank_lexit (c : Core) (l : Nat) (b : List Pending) : (c.setBank l b).lexit = c.lexit := by unfold Core.setBank; split <;> [rfl; split <;> rfl]
@[simp] theorem Core.setBank_atPoint (c : Core) (l : Nat) (b : List Pending) : (c.setBank l b).atPoint = c.atPoint := by unfold Core.setBank; split <;> [rfl; split <;> rfl]
@[simp] theorem Core.setBank_binit (c : Core) (l : Nat) (b : List Pending) : (c.setBank l b).binit = c.binit := by unfold Core.setBank; split <;> [rfl; split <;> rfl]
@[simp] theorem Core.setBank_issue (c : Core) (l : Nat) (b : List Pending) : (c.setBank l b).issue = c.issue := by unfold Core.setBank; split <;> [rfl; split <;> rfl]
@[simp] theorem Core.setBank_karg (c : Core) (l : Nat) (b : List Pending) : (c.setBank l b).karg = c.karg := by unfold Core.setBank; split <;> [rfl; split <;> rfl]
@[simp] theorem Core.setBank_sidx (c : Core) (l : Nat) (b : List Pending) : (c.setBank l b).sidx = c.sidx := by unfold Core.setBank; split <;> [rfl; split <;> rfl]
@[simp] theorem Core.setBank_tlevel (c : Core) (l : Nat) (b : List Pending) : (c.setBank l b).tlevel = c.tlevel := by unfold Core.setBank; split <;> [rfl; split <;> rfl]
@[simp] theorem Core.setBank_thandler (c : Core) (l : Nat) (b : List Pending) : (c.setBank l b).thandler = c.thandler := by unfold Core.setBank; split <;> [rfl; split <;> rfl]
@[simp] theorem Core.setBank_thsize (c : Core) (l : Nat) (b : List Pending) : (c.setBank l b).thsize = c.thsize := by unfold Core.setBank; split <;> [rfl; split <;> rfl]
@[simp] theorem Core.setBank_vmid (c : Core) (l : Nat) (b : List Pending) : (c.setBank l b).vmid = c.vmid := by unfold Core.setBank; split <;> [rfl; split <;> rfl]
@[simp] theorem Core.setBank_zeroed (c : Core) (l : Nat) (b : List Pending) : (c.setBank l b).zeroed = c.zeroed := by unfold Core.setBank; split <;> [rfl; split <;> rfl]
@[simp] theorem Core.setBank_tsave (c : Core) (l : Nat) (b : List Pending) : (c.setBank l b).tsave = c.tsave := by unfold Core.setBank; split <;> [rfl; split <;> rfl]
@[simp] theorem Core.setBank_kstat (c : Core) (l : Nat) (b : List Pending) : (c.setBank l b).kstat = c.kstat := by unfold Core.setBank; split <;> [rfl; split <;> rfl]
@[simp] theorem Core.setBank_trap1 (c : Core) (l : Nat) (b : List Pending) : (c.setBank l b).trap1 = c.trap1 := by unfold Core.setBank; split <;> [rfl; split <;> rfl]
@[simp] theorem Core.setBank_trap2 (c : Core) (l : Nat) (b : List Pending) : (c.setBank l b).trap2 = c.trap2 := by unfold Core.setBank; split <;> [rfl; split <;> rfl]
@[simp] theorem Core.setBank_kernel (c : Core) (l : Nat) (b : List Pending) : (c.setBank l b).kernel = c.kernel := by unfold Core.setBank; split <;> [rfl; split <;> rfl]
@[simp] theorem Core.setBank_launch (c : Core) (l : Nat) (b : List Pending) : (c.setBank l b).launch = c.launch := by unfold Core.setBank; split <;> [rfl; split <;> rfl]
@[simp] theorem Core.setBank_inst (c : Core) (l : Nat) (b : List Pending) : (c.setBank l b).inst = c.inst := by unfold Core.setBank; split <;> [rfl; split <;> rfl]
@[simp] theorem Core.setBank_sysq (c : Core) (l : Nat) (b : List Pending) : (c.setBank l b).sysq = c.sysq := by unfold Core.setBank; split <;> [rfl; split <;> rfl]
@[simp] theorem Core.setBank_oc (c : Core) (l : Nat) (b : List Pending) : (c.setBank l b).oc = c.oc := by unfold Core.setBank; split <;> [rfl; split <;> rfl]
@[simp] theorem Core.setBank_sb (c : Core) (l : Nat) (b : List Pending) : (c.setBank l b).sb = c.sb := by unfold Core.setBank; split <;> [rfl; split <;> rfl]
@[simp] theorem Core.setBank_memq (c : Core) (l : Nat) (b : List Pending) : (c.setBank l b).memq = c.memq := by unfold Core.setBank; split <;> [rfl; split <;> rfl]
@[simp] theorem Core.setBank_transit (c : Core) (l : Nat) (b : List Pending) : (c.setBank l b).transit = c.transit := by unfold Core.setBank; split <;> [rfl; split <;> rfl]
@[simp] theorem Core.setBank_unacked (c : Core) (l : Nat) (b : List Pending) : (c.setBank l b).unacked = c.unacked := by unfold Core.setBank; split <;> [rfl; split <;> rfl]
@[simp] theorem Core.setBank_relFence (c : Core) (l : Nat) (b : List Pending) : (c.setBank l b).relFence = c.relFence := by unfold Core.setBank; split <;> [rfl; split <;> rfl]
@[simp] theorem Core.setBank_relSince (c : Core) (l : Nat) (b : List Pending) : (c.setBank l b).relSince = c.relSince := by unfold Core.setBank; split <;> [rfl; split <;> rfl]
@[simp] theorem Core.setBank_acqWait (c : Core) (l : Nat) (b : List Pending) : (c.setBank l b).acqWait = c.acqWait := by unfold Core.setBank; split <;> [rfl; split <;> rfl]
@[simp] theorem Core.setBank_acqAll (c : Core) (l : Nat) (b : List Pending) : (c.setBank l b).acqAll = c.acqAll := by unfold Core.setBank; split <;> [rfl; split <;> rfl]
@[simp] theorem Core.setBank_refresh (c : Core) (l : Nat) (b : List Pending) : (c.setBank l b).refresh = c.refresh := by unfold Core.setBank; split <;> [rfl; split <;> rfl]
@[simp] theorem Core.setBank_tlbinv (c : Core) (l : Nat) (b : List Pending) : (c.setBank l b).tlbinv = c.tlbinv := by unfold Core.setBank; split <;> [rfl; split <;> rfl]
@[simp] theorem Core.setBank_eng (c : Core) (l : Nat) (b : List Pending) : (c.setBank l b).eng = c.eng := by unfold Core.setBank; split <;> [rfl; split <;> rfl]
@[simp] theorem Core.setBank_engNext (c : Core) (l : Nat) (b : List Pending) : (c.setBank l b).engNext = c.engNext := by unfold Core.setBank; split <;> [rfl; split <;> rfl]
@[simp] theorem Core.setBank_regions (c : Core) (l : Nat) (b : List Pending) : (c.setBank l b).regions = c.regions := by unfold Core.setBank; split <;> [rfl; split <;> rfl]
@[simp] theorem Core.setBank_tmOpr (c : Core) (l : Nat) (b : List Pending) : (c.setBank l b).tmOpr = c.tmOpr := by unfold Core.setBank; split <;> [rfl; split <;> rfl]
@[simp] theorem Core.setBank_tmRes (c : Core) (l : Nat) (b : List Pending) : (c.setBank l b).tmRes = c.tmRes := by unfold Core.setBank; split <;> [rfl; split <;> rfl]

end Sys2Proof.Machine
end

