-- ==== Sys2Proof/Laws/Ops.lean ====
section
/-! SUPPORT. What the operations that every slot shares can do (Machine/Ops.lean): the gate before an effect, exposed
writes, trap entry and return. -/

namespace Sys2Proof.Machine

/-! ## The gate -/

theorem hold_of_runs {i : Instr} {s : State} (h : Runs i s) : s.hold i = .run := by
  obtain ⟨⟨hd, hw⟩, hc, hp, hr, hm⟩ := h
  simp only [State.hold, hd, hw, or_self, hc, hp, hr, hm, if_false, Bool.not_true, Bool.false_eq_true]

/-- An instruction that nothing stands in the way of has its effect. -/
theorem gated_of_runs {i : Instr} {s : State} (h : Runs i s) (e : State → State) :
    gated i s e = .next (e (s.noteRead i)) := by simp only [gated, hold_of_runs h]

/-- Every way a slot instruction can end: its effect, nothing, a fault, a fault mark, a wait. -/
theorem gated_cases (i : Instr) (s : State) (e : State → State) :
    (s.hold i = .run ∧ gated i s e = .next (e (s.noteRead i))) ∨
      (s.hold i = .skip ∧ gated i s e = .next s) ∨
      (∃ c v, s.hold i = .fault c v ∧ gated i s e = .next (s.raise c v)) ∨
      (∃ p k, s.hold i = .mark p k ∧ gated i s e = .next (s.raiseMark p k)) ∨
      (s.hold i = .wait ∧ gated i s e = .next s.stall) := by
  unfold gated
  cases h : s.hold i <;> simp

/-- A squashed instruction has no effect (R31, R48). -/
theorem gated_of_squashed {i : Instr} {s : State} (hd : s.reached) (hc : s.rd.core.checks i = none)
    (hp : s.rd.core.pred (predOf i) = false) (e : State → State) : gated i s e = .next s := by
  simp [gated, State.hold, hd.1, hd.2, hc, hp]

/-- A slot that is not reached has no effect. -/
theorem gated_of_done {i : Instr} {s : State} (hd : ¬s.reached) (e : State → State) : gated i s e = .next s := by
  have h : s.verdict = .done ∨ s.verdict = .walk := by simpa only [State.reached, not_and_or, not_not] using hd
  simp only [gated, State.hold, if_pos h]

/-- A refused encoding raises its cause, whatever the predicate (R48, R61). -/
theorem gated_of_check {i : Instr} {s : State} (hd : s.reached) {cause : Nat}
    (hc : s.rd.core.checks i = some cause) (e : State → State) :
    gated i s e = .next (s.raise cause (encTval s.rd.core i)) := by
  simp [gated, State.hold, hd.1, hd.2, hc]

/-! ## Exposed writes -/

/-- The ways of an exposed write: at once, or through the pending write table, after a free value was taken or not; its
entry carries the write either way (R63, R66 to R68). -/
theorem expose_cases (s : State) (cls file reg : Nat) (ws : List Write) :
    ∃ s' e, (s' = s ∨ s' = s.used) ∧ e.cls = cls ∧ e.file = file ∧ e.reg = reg ∧ e.writes = ws ∧
      e.count = s.cur.core.latency cls - 1 ∧
      (s.expose cls file reg ws = s'.setCur (landNow · e) ∨
        s.expose cls file reg ws = s'.setCore fun c => c.setBank c.tlevel (c.bank c.tlevel ++ [e])) := by
  simp only [State.expose]
  by_cases h1 : s.cur.core.latency cls ≤ 1 ∧ kilbinLat.getD cls 1 ≤ 1
  · rw [if_pos h1]
    exact ⟨_, _, .inl rfl, rfl, rfl, rfl, rfl, rfl, .inl rfl⟩
  · rw [if_neg h1]
    split
    · exact ⟨_, _, .inr rfl, rfl, rfl, rfl, rfl, rfl, .inl rfl⟩
    · refine ⟨_, _, ?_, rfl, rfl, rfl, rfl, rfl, .inr rfl⟩
      split
      · exact .inr rfl
      · exact .inl rfl

theorem writeS_zero (s : State) (cls : Nat) (v : Word) : s.writeS cls 0 v = s := by simp [State.writeS]

/-! ## Trap entry and return -/

/-- Where there is a level to enter, trap entry enters it (R369). -/
theorem enterTrap_entered {m : Mach} (h : ¬(m.core.tlevel = 2 ∨ (m.core.tlevel = 0 ∧ m.core.thandler = 0))) (cause : Nat)
    (tval epc : Word) (a : Bool) :
    (enterTrap m cause tval epc a).core.tlevel = (if m.core.tlevel = 0 then 1 else 2) ∧
      (enterTrap m cause tval epc a).core.pc = m.core.thandler ∧ (enterTrap m cause tval epc a).mem = m.mem ∧
      (enterTrap m cause tval epc a).core.s = m.core.s := by
  simp only [enterTrap, if_neg h]
  split <;> exact ⟨rfl, rfl, rfl, rfl⟩

theorem stopContext_tlevel (c : Core) : (stopContext c).tlevel = 0 := rfl

/-- After a trap entry or the kill in its place the level is 0, 1 or 2 (R363). -/
theorem enterTrap_tlevel (m : Mach) (cause : Nat) (tval epc : Word) (a : Bool) :
    (enterTrap m cause tval epc a).core.tlevel ≤ 2 := by
  simp only [enterTrap]
  split
  · simp [killContext, stopContext]
  · split <;> simp

/-- A fault inside a bundle leaves of the bundle nothing: what stands is the trap entry from where the bundle began
(R61, R368). -/
theorem raise_eq (s : State) (cause : Nat) (tval : Word) :
    s.raise cause tval = { s with cur := enterTrap s.rd cause tval s.rd.core.pc false, verdict := .done } := rfl

end Sys2Proof.Machine
end

