-- ==== Sys2Proof/Laws/PerInstr.lean ====
section
/-! SUPPORT. The family Row of per-instruction statements: the row tables of Sys2Proof/Decode.lean give back every
instruction that its own fields name (R70 to R76, R191, R247, R279, R328, R355). -/

namespace Sys2Proof.Laws.Row

/-- The map that an instruction is encoded in names it at its opcode, or at its trigger port. An event has no encoding. -/
def Statement (i : Instr) : Prop :=
  named i = true → match view i with
  | .sR .common op f => (rowCommonR op).map (fun g => g f) = some i
  | .sR .s0 op f => (rowS0R op).map (fun g => g f) = some i
  | .sR .s1 op f => (rowS1R op).map (fun g => g f) = some i
  | .sI _ op f => (rowCommonI op).map (fun g => g f) = some i
  | .sLI _ op f => (rowCommonLI op).map (fun g => g f) = some i
  | .sB _ op f => (rowS0B op).map (fun g => g f) = some i
  | .sM _ op f => (rowS1M op).map (fun g => g f) = some i
  | .sMO _ op f => (rowS1MO op).map (fun g => g f) = some i
  | .sMX _ op f => (rowS1MX op).map (fun g => g f) = some i
  | .l op f => (rowL op).map (fun g => g f) = some i
  | .v op u f => (rowV op).map (fun g => g u f) = some i
  | .x op f => (rowX op).map (fun g => g f) = some i
  | .m op f => (rowM op).map (fun g => g f) = some i
  | .d op f => (rowD op).map (fun g => g f) = some i
  | .move f => rowMove f.dst.toNat f = i
  | .empty | .event => True

theorem move_row1 {f : FMv} {g : FMv → Instr} {p : Nat} (h : [p].contains f.dst.toNat = true) (hp : rowMove p = g) :
    rowMove f.dst.toNat f = g f := by
  rw [show f.dst.toNat = p by simpa using h, hp]

theorem move_row2 {f : FMv} {g : FMv → Instr} {p q : Nat} (h : [p, q].contains f.dst.toNat = true) (hp : rowMove p = g)
    (hq : rowMove q = g) : rowMove f.dst.toNat f = g f := by
  rcases show f.dst.toNat = p ∨ f.dst.toNat = q by simpa using h with e | e
  · rw [e, hp]
  · rw [e, hq]

/-- A port that is no trigger is a plain move (R328). -/
theorem mv_row {f : FMv} (h : (!triggerPorts.contains f.dst.toNat) = true) : rowMove f.dst.toNat f = .mv f := by
  generalize f.dst.toNat = n at h
  unfold rowMove
  split <;> first | rfl | exact absurd h (by decide)

theorem add a : Statement (.add a) := fun _ => rfl
theorem sub a : Statement (.sub a) := fun _ => rfl
theorem mul a : Statement (.mul a) := fun _ => rfl
theorem mulh a : Statement (.mulh a) := fun _ => rfl
theorem mulhu a : Statement (.mulhu a) := fun _ => rfl
theorem div a : Statement (.div a) := fun _ => rfl
theorem divu a : Statement (.divu a) := fun _ => rfl
theorem rem a : Statement (.rem a) := fun _ => rfl
theorem remu a : Statement (.remu a) := fun _ => rfl
theorem and a : Statement (.and a) := fun _ => rfl
theorem or a : Statement (.or a) := fun _ => rfl
theorem xor a : Statement (.xor a) := fun _ => rfl
theorem andn a : Statement (.andn a) := fun _ => rfl
theorem orn a : Statement (.orn a) := fun _ => rfl
theorem shl a : Statement (.shl a) := fun _ => rfl
theorem shr a : Statement (.shr a) := fun _ => rfl
theorem sar a : Statement (.sar a) := fun _ => rfl
theorem rol a : Statement (.rol a) := fun _ => rfl
theorem ror a : Statement (.ror a) := fun _ => rfl
theorem min a : Statement (.min a) := fun _ => rfl
theorem max a : Statement (.max a) := fun _ => rfl
theorem minu a : Statement (.minu a) := fun _ => rfl
theorem maxu a : Statement (.maxu a) := fun _ => rfl
theorem abs a : Statement (.abs a) := fun _ => rfl
theorem cmpeq a : Statement (.cmpeq a) := fun _ => rfl
theorem cmpne a : Statement (.cmpne a) := fun _ => rfl
theorem cmplt a : Statement (.cmplt a) := fun _ => rfl
theorem cmpltu a : Statement (.cmpltu a) := fun _ => rfl
theorem cmple a : Statement (.cmple a) := fun _ => rfl
theorem cmpleu a : Statement (.cmpleu a) := fun _ => rfl
theorem sel a : Statement (.sel a) := fun _ => rfl
theorem clz a : Statement (.clz a) := fun _ => rfl
theorem ctz a : Statement (.ctz a) := fun _ => rfl
theorem popc a : Statement (.popc a) := fun _ => rfl
theorem bswap a : Statement (.bswap a) := fun _ => rfl
theorem sext a : Statement (.sext a) := fun _ => rfl
theorem zext a : Statement (.zext a) := fun _ => rfl
theorem addi a : Statement (.addi a) := fun _ => rfl
theorem andi a : Statement (.andi a) := fun _ => rfl
theorem ori a : Statement (.ori a) := fun _ => rfl
theorem xori a : Statement (.xori a) := fun _ => rfl
theorem shli a : Statement (.shli a) := fun _ => rfl
theorem shri a : Statement (.shri a) := fun _ => rfl
theorem sari a : Statement (.sari a) := fun _ => rfl
theorem cmpeqi a : Statement (.cmpeqi a) := fun _ => rfl
theorem cmplti a : Statement (.cmplti a) := fun _ => rfl
theorem cmpltui a : Statement (.cmpltui a) := fun _ => rfl
theorem li a : Statement (.li a) := fun _ => rfl
theorem lih a : Statement (.lih a) := fun _ => rfl
theorem fadd a : Statement (.fadd a) := fun _ => rfl
theorem fsub a : Statement (.fsub a) := fun _ => rfl
theorem fmul a : Statement (.fmul a) := fun _ => rfl
theorem fdiv a : Statement (.fdiv a) := fun _ => rfl
theorem fmin a : Statement (.fmin a) := fun _ => rfl
theorem fmax a : Statement (.fmax a) := fun _ => rfl
theorem fcmpeq a : Statement (.fcmpeq a) := fun _ => rfl
theorem fcmplt a : Statement (.fcmplt a) := fun _ => rfl
theorem fcmple a : Statement (.fcmple a) := fun _ => rfl
theorem fcvt a : Statement (.fcvt a) := fun _ => rfl
theorem fclass a : Statement (.fclass a) := fun _ => rfl
theorem csrr a : Statement (.csrr a) := fun _ => rfl
theorem csrw a : Statement (.csrw a) := fun _ => rfl
theorem br a : Statement (.br a) := fun _ => rfl
theorem call a : Statement (.call a) := fun _ => rfl
theorem jr a : Statement (.jr a) := fun _ => rfl
theorem callr a : Statement (.callr a) := fun _ => rfl
theorem ret a : Statement (.ret a) := fun _ => rfl
theorem loop a : Statement (.loop a) := fun _ => rfl
theorem lexit a : Statement (.lexit a) := fun _ => rfl
theorem endk a : Statement (.endk a) := fun _ => rfl
theorem trap a : Statement (.trap a) := fun _ => rfl
theorem twait a : Statement (.twait a) := fun _ => rfl
theorem qsetf a : Statement (.qsetf a) := fun _ => rfl
theorem pcfg a : Statement (.pcfg a) := fun _ => rfl
theorem xfer a : Statement (.xfer a) := fun _ => rfl
theorem nop a : Statement (.nop a) := fun _ => rfl
theorem eret a : Statement (.eret a) := fun _ => rfl
theorem pcsrr a : Statement (.pcsrr a) := fun _ => rfl
theorem pcsrw a : Statement (.pcsrw a) := fun _ => rfl
theorem tlbinv a : Statement (.tlbinv a) := fun _ => rfl
theorem ldb a : Statement (.ldb a) := fun _ => rfl
theorem ldbu a : Statement (.ldbu a) := fun _ => rfl
theorem ldh a : Statement (.ldh a) := fun _ => rfl
theorem ldhu a : Statement (.ldhu a) := fun _ => rfl
theorem ldw a : Statement (.ldw a) := fun _ => rfl
theorem ldwu a : Statement (.ldwu a) := fun _ => rfl
theorem ldd a : Statement (.ldd a) := fun _ => rfl
theorem stb a : Statement (.stb a) := fun _ => rfl
theorem sth a : Statement (.sth a) := fun _ => rfl
theorem stw a : Statement (.stw a) := fun _ => rfl
theorem std a : Statement (.std a) := fun _ => rfl
theorem ld a : Statement (.ld a) := fun _ => rfl
theorem st a : Statement (.st a) := fun _ => rfl
theorem fence a : Statement (.fence a) := fun _ => rfl
theorem amoadd a : Statement (.amoadd a) := fun _ => rfl
theorem amoand a : Statement (.amoand a) := fun _ => rfl
theorem amoor a : Statement (.amoor a) := fun _ => rfl
theorem amoxor a : Statement (.amoxor a) := fun _ => rfl
theorem amomin a : Statement (.amomin a) := fun _ => rfl
theorem amomax a : Statement (.amomax a) := fun _ => rfl
theorem amominu a : Statement (.amominu a) := fun _ => rfl
theorem amomaxu a : Statement (.amomaxu a) := fun _ => rfl
theorem amoswp a : Statement (.amoswp a) := fun _ => rfl
theorem amocas a : Statement (.amocas a) := fun _ => rfl
theorem binit a : Statement (.binit a) := fun _ => rfl
theorem barr a : Statement (.barr a) := fun _ => rfl
theorem bdrop a : Statement (.bdrop a) := fun _ => rfl
theorem bwait a : Statement (.bwait a) := fun _ => rfl
theorem qpush a : Statement (.qpush a) := fun _ => rfl
theorem ldsc a : Statement (.ldsc a) := fun _ => rfl
theorem ldscb a : Statement (.ldscb a) := fun _ => rfl
theorem empty : Statement .empty := fun _ => trivial
theorem vadd a b : Statement (.vadd a b) := fun _ => rfl
theorem vsub a b : Statement (.vsub a b) := fun _ => rfl
theorem vmul a b : Statement (.vmul a b) := fun _ => rfl
theorem vmulh a b : Statement (.vmulh a b) := fun _ => rfl
theorem vfma a b : Statement (.vfma a b) := fun _ => rfl
theorem vfms a b : Statement (.vfms a b) := fun _ => rfl
theorem vfnma a b : Statement (.vfnma a b) := fun _ => rfl
theorem vfnms a b : Statement (.vfnms a b) := fun _ => rfl
theorem vmin a b : Statement (.vmin a b) := fun _ => rfl
theorem vmax a b : Statement (.vmax a b) := fun _ => rfl
theorem vabs a b : Statement (.vabs a b) := fun _ => rfl
theorem vneg a b : Statement (.vneg a b) := fun _ => rfl
theorem vadds a b : Statement (.vadds a b) := fun _ => rfl
theorem vsubs a b : Statement (.vsubs a b) := fun _ => rfl
theorem vavg a b : Statement (.vavg a b) := fun _ => rfl
theorem vclamp a b : Statement (.vclamp a b) := fun _ => rfl
theorem vcmpeq a b : Statement (.vcmpeq a b) := fun _ => rfl
theorem vcmpne a b : Statement (.vcmpne a b) := fun _ => rfl
theorem vcmplt a b : Statement (.vcmplt a b) := fun _ => rfl
theorem vcmple a b : Statement (.vcmple a b) := fun _ => rfl
theorem vcmpgt a b : Statement (.vcmpgt a b) := fun _ => rfl
theorem vcmpge a b : Statement (.vcmpge a b) := fun _ => rfl
theorem vsel a b : Statement (.vsel a b) := fun _ => rfl
theorem vmov a b : Statement (.vmov a b) := fun _ => rfl
theorem vand a b : Statement (.vand a b) := fun _ => rfl
theorem vor a b : Statement (.vor a b) := fun _ => rfl
theorem vxor a b : Statement (.vxor a b) := fun _ => rfl
theorem vandn a b : Statement (.vandn a b) := fun _ => rfl
theorem vnot a b : Statement (.vnot a b) := fun _ => rfl
theorem vshl a b : Statement (.vshl a b) := fun _ => rfl
theorem vshr a b : Statement (.vshr a b) := fun _ => rfl
theorem vsar a b : Statement (.vsar a b) := fun _ => rfl
theorem vclz a b : Statement (.vclz a b) := fun _ => rfl
theorem vpopc a b : Statement (.vpopc a b) := fun _ => rfl
theorem vmacw a b : Statement (.vmacw a b) := fun _ => rfl
theorem vcvt a b : Statement (.vcvt a b) := fun _ => rfl
theorem vqnt a b : Statement (.vqnt a b) := fun _ => rfl
theorem vdqn a b : Statement (.vdqn a b) := fun _ => rfl
theorem vbcast a b : Statement (.vbcast a b) := fun _ => rfl
theorem vperm a b : Statement (.vperm a b) := fun _ => rfl
theorem vshuf a b : Statement (.vshuf a b) := fun _ => rfl
theorem vrot a b : Statement (.vrot a b) := fun _ => rfl
theorem viota a b : Statement (.viota a b) := fun _ => rfl
theorem vlut a b : Statement (.vlut a b) := fun _ => rfl
theorem vpack a b : Statement (.vpack a b) := fun _ => rfl
theorem vunpk a b : Statement (.vunpk a b) := fun _ => rfl
theorem vrsum a b : Statement (.vrsum a b) := fun _ => rfl
theorem vrmax a b : Statement (.vrmax a b) := fun _ => rfl
theorem vrmin a b : Statement (.vrmin a b) := fun _ => rfl
theorem vstat a b : Statement (.vstat a b) := fun _ => rfl
theorem vnorm a b : Statement (.vnorm a b) := fun _ => rfl
theorem vtopk a b : Statement (.vtopk a b) := fun _ => rfl
theorem vsort a b : Statement (.vsort a b) := fun _ => rfl
theorem vsegsum a b : Statement (.vsegsum a b) := fun _ => rfl
theorem vmand a b : Statement (.vmand a b) := fun _ => rfl
theorem vmor a b : Statement (.vmor a b) := fun _ => rfl
theorem vmxor a b : Statement (.vmxor a b) := fun _ => rfl
theorem vmnot a b : Statement (.vmnot a b) := fun _ => rfl
theorem vmset a b : Statement (.vmset a b) := fun _ => rfl
theorem vmpop a b : Statement (.vmpop a b) := fun _ => rfl
theorem vxfer a b : Statement (.vxfer a b) := fun _ => rfl
theorem vsetrow a b : Statement (.vsetrow a b) := fun _ => rfl
theorem xfn a : Statement (.xfn a) := fun h => eq_of_beq h
theorem xexp2 a : Statement (.xexp2 a) := fun h => eq_of_beq h
theorem xlog2 a : Statement (.xlog2 a) := fun h => eq_of_beq h
theorem xrcp a : Statement (.xrcp a) := fun h => eq_of_beq h
theorem xrsqrt a : Statement (.xrsqrt a) := fun h => eq_of_beq h
theorem xsqrt a : Statement (.xsqrt a) := fun h => eq_of_beq h
theorem xtanh a : Statement (.xtanh a) := fun h => eq_of_beq h
theorem xsigm a : Statement (.xsigm a) := fun h => eq_of_beq h
theorem xgelu a : Statement (.xgelu a) := fun h => eq_of_beq h
theorem xerf a : Statement (.xerf a) := fun h => eq_of_beq h
theorem xsin a : Statement (.xsin a) := fun h => eq_of_beq h
theorem xcos a : Statement (.xcos a) := fun h => eq_of_beq h
theorem xexp a : Statement (.xexp a) := fun h => eq_of_beq h
theorem xsilu a : Statement (.xsilu a) := fun h => eq_of_beq h
theorem xsoftplus a : Statement (.xsoftplus a) := fun h => eq_of_beq h
theorem xmov a : Statement (.xmov a) := fun h => eq_of_beq h
theorem fmat a : Statement (.fmat a) := fun h => eq_of_beq h
theorem fmata a : Statement (.fmata a) := fun h => eq_of_beq h
theorem fgradx a : Statement (.fgradx a) := fun h => eq_of_beq h
theorem fgradc a : Statement (.fgradc a) := fun h => eq_of_beq h
theorem fupd a : Statement (.fupd a) := fun h => eq_of_beq h
theorem refine a : Statement (.refine a) := fun h => eq_of_beq h
theorem clearg a : Statement (.clearg a) := fun h => eq_of_beq h
theorem gemm a : Statement (.gemm a) := fun h => eq_of_beq h
theorem gemmq a : Statement (.gemmq a) := fun h => eq_of_beq h
theorem gemms a : Statement (.gemms a) := fun h => eq_of_beq h
theorem gemmt a : Statement (.gemmt a) := fun h => eq_of_beq h
theorem fgrad a : Statement (.fgrad a) := fun h => eq_of_beq h
theorem mcall a : Statement (.mcall a) := fun h => eq_of_beq h
theorem mplane a : Statement (.mplane a) := fun h => eq_of_beq h
theorem mldc a : Statement (.mldc a) := fun h => eq_of_beq h
theorem mstc a : Statement (.mstc a) := fun h => eq_of_beq h
theorem mgrid a : Statement (.mgrid a) := fun h => eq_of_beq h
theorem mwload a : Statement (.mwload a) := fun h => eq_of_beq h
theorem mstat a : Statement (.mstat a) := fun h => eq_of_beq h
theorem dcpy a : Statement (.dcpy a) := fun h => eq_of_beq h
theorem dmc a : Statement (.dmc a) := fun h => eq_of_beq h
theorem dgat a : Statement (.dgat a) := fun h => eq_of_beq h
theorem dsct a : Statement (.dsct a) := fun h => eq_of_beq h
theorem dzero a : Statement (.dzero a) := fun h => eq_of_beq h
theorem dfill a : Statement (.dfill a) := fun h => eq_of_beq h
theorem dpref a : Statement (.dpref a) := fun h => eq_of_beq h
theorem dflush a : Statement (.dflush a) := fun h => eq_of_beq h
theorem dinv a : Statement (.dinv a) := fun h => eq_of_beq h
theorem phase a : Statement (.phase a) := fun h => eq_of_beq h
theorem djoin a : Statement (.djoin a) := fun h => eq_of_beq h
theorem tmovOpr a : Statement (.tmovOpr a) := fun h => eq_of_beq h
theorem tmovQnt a : Statement (.tmovQnt a) := fun h => eq_of_beq h
theorem tmovDqn a : Statement (.tmovDqn a) := fun h => eq_of_beq h
theorem tmovLzc a : Statement (.tmovLzc a) := fun h => eq_of_beq h
theorem tmovLzd a : Statement (.tmovLzd a) := fun h => eq_of_beq h
theorem tmovCrc a : Statement (.tmovCrc a) := fun h => eq_of_beq h
theorem tmovRes a : Statement (.tmovRes a) := fun h => eq_of_beq h
theorem ureg a : Statement (.ureg a) := fun h => eq_of_beq h
theorem urel a : Statement (.urel a) := fun h => eq_of_beq h
theorem upd a : Statement (.upd a) := fun h => eq_of_beq h
theorem ufence a : Statement (.ufence a) := fun h => eq_of_beq h
theorem csend a : Statement (.csend a) := fun h => eq_of_beq h
theorem crecvStore a : Statement (.crecvStore a) := fun h => eq_of_beq h
theorem crecvAddw a : Statement (.crecvAddw a) := fun h => eq_of_beq h
theorem crecvAddq a : Statement (.crecvAddq a) := fun h => eq_of_beq h
theorem mv a : Statement (.mv a) := fun h => mv_row h
theorem ialuAdd a : Statement (.ialuAdd a) := fun h => move_row2 (g := .ialuAdd) h rfl rfl
theorem ialuSub a : Statement (.ialuSub a) := fun h => move_row2 (g := .ialuSub) h rfl rfl
theorem ialuMul a : Statement (.ialuMul a) := fun h => move_row2 (g := .ialuMul) h rfl rfl
theorem ialuAnd a : Statement (.ialuAnd a) := fun h => move_row2 (g := .ialuAnd) h rfl rfl
theorem ialuOr a : Statement (.ialuOr a) := fun h => move_row2 (g := .ialuOr) h rfl rfl
theorem ialuXor a : Statement (.ialuXor a) := fun h => move_row2 (g := .ialuXor) h rfl rfl
theorem ialuShl a : Statement (.ialuShl a) := fun h => move_row2 (g := .ialuShl) h rfl rfl
theorem ialuShr a : Statement (.ialuShr a) := fun h => move_row2 (g := .ialuShr) h rfl rfl
theorem ialuSar a : Statement (.ialuSar a) := fun h => move_row2 (g := .ialuSar) h rfl rfl
theorem ialuMinu a : Statement (.ialuMinu a) := fun h => move_row2 (g := .ialuMinu) h rfl rfl
theorem ialuMaxu a : Statement (.ialuMaxu a) := fun h => move_row2 (g := .ialuMaxu) h rfl rfl
theorem ialuCeq a : Statement (.ialuCeq a) := fun h => move_row2 (g := .ialuCeq) h rfl rfl
theorem ialuCne a : Statement (.ialuCne a) := fun h => move_row2 (g := .ialuCne) h rfl rfl
theorem ialuClt a : Statement (.ialuClt a) := fun h => move_row2 (g := .ialuClt) h rfl rfl
theorem ialuCltu a : Statement (.ialuCltu a) := fun h => move_row2 (g := .ialuCltu) h rfl rfl
theorem ialuCle a : Statement (.ialuCle a) := fun h => move_row2 (g := .ialuCle) h rfl rfl
theorem valuFadd a : Statement (.valuFadd a) := fun h => move_row1 (g := .valuFadd) h rfl
theorem valuFsub a : Statement (.valuFsub a) := fun h => move_row1 (g := .valuFsub) h rfl
theorem valuFmul a : Statement (.valuFmul a) := fun h => move_row1 (g := .valuFmul) h rfl
theorem valuFma a : Statement (.valuFma a) := fun h => move_row1 (g := .valuFma) h rfl
theorem valuFmax a : Statement (.valuFmax a) := fun h => move_row1 (g := .valuFmax) h rfl
theorem valuFmin a : Statement (.valuFmin a) := fun h => move_row1 (g := .valuFmin) h rfl
theorem valuIadd a : Statement (.valuIadd a) := fun h => move_row1 (g := .valuIadd) h rfl
theorem valuBfwide a : Statement (.valuBfwide a) := fun h => move_row1 (g := .valuBfwide) h rfl
theorem valuBfnarrow a : Statement (.valuBfnarrow a) := fun h => move_row1 (g := .valuBfnarrow) h rfl
theorem valuAnd a : Statement (.valuAnd a) := fun h => move_row1 (g := .valuAnd) h rfl
theorem valuOr a : Statement (.valuOr a) := fun h => move_row1 (g := .valuOr) h rfl
theorem valuXor a : Statement (.valuXor a) := fun h => move_row1 (g := .valuXor) h rfl
theorem lsuLdd a : Statement (.lsuLdd a) := fun h => move_row1 (g := .lsuLdd) h rfl
theorem lsuLdw a : Statement (.lsuLdw a) := fun h => move_row1 (g := .lsuLdw) h rfl
theorem lsuLdy a : Statement (.lsuLdy a) := fun h => move_row1 (g := .lsuLdy) h rfl
theorem lsuStd a : Statement (.lsuStd a) := fun h => move_row1 (g := .lsuStd) h rfl
theorem lsuStw a : Statement (.lsuStw a) := fun h => move_row1 (g := .lsuStw) h rfl
theorem lsuSty a : Statement (.lsuSty a) := fun h => move_row1 (g := .lsuSty) h rfl
theorem lsuMdrd a : Statement (.lsuMdrd a) := fun h => move_row1 (g := .lsuMdrd) h rfl
theorem lsuMdwr a : Statement (.lsuMdwr a) := fun h => move_row1 (g := .lsuMdwr) h rfl
theorem rowCpy a : Statement (.rowCpy a) := fun h => move_row1 (g := .rowCpy) h rfl
theorem rowZero a : Statement (.rowZero a) := fun h => move_row1 (g := .rowZero) h rfl
theorem rowTobuf a : Statement (.rowTobuf a) := fun h => move_row1 (g := .rowTobuf) h rfl
theorem rowFrombuf a : Statement (.rowFrombuf a) := fun h => move_row1 (g := .rowFrombuf) h rfl
theorem cvsApply a : Statement (.cvsApply a) := fun h => move_row1 (g := .cvsApply) h rfl
theorem cvsCount a : Statement (.cvsCount a) := fun h => move_row1 (g := .cvsCount) h rfl
theorem syncInv a : Statement (.syncInv a) := fun h => move_row1 (g := .syncInv) h rfl
theorem syncWbinv a : Statement (.syncWbinv a) := fun h => move_row1 (g := .syncWbinv) h rfl
theorem syncFence a : Statement (.syncFence a) := fun h => move_row1 (g := .syncFence) h rfl
theorem syncSignal a : Statement (.syncSignal a) := fun h => move_row1 (g := .syncSignal) h rfl
theorem pcJump a : Statement (.pcJump a) := fun h => move_row1 (g := .pcJump) h rfl
theorem pcCall a : Statement (.pcCall a) := fun h => move_row1 (g := .pcCall) h rfl
theorem pcRet a : Statement (.pcRet a) := fun h => move_row1 (g := .pcRet) h rfl
theorem pcHalt a : Statement (.pcHalt a) := fun h => move_row1 (g := .pcHalt) h rfl
theorem pcYield a : Statement (.pcYield a) := fun h => move_row1 (g := .pcYield) h rfl
theorem oasisResultLand a : Statement (.oasisResultLand a) := fun _ => trivial
theorem oasisOpComplete a : Statement (.oasisOpComplete a) := fun _ => trivial
theorem dramRefreshDue a : Statement (.dramRefreshDue a) := fun _ => trivial
theorem oasisPreempt : Statement .oasisPreempt := fun _ => trivial
theorem nopEmptyBundle : Statement .nopEmptyBundle := fun _ => trivial
theorem loopExecutionEnd : Statement .loopExecutionEnd := fun _ => trivial
theorem pendingWriteLand a : Statement (.pendingWriteLand a) := fun _ => trivial
theorem overdueValueArrive a b : Statement (.overdueValueArrive a b) := fun _ => trivial
theorem scoreboardResultWrite a : Statement (.scoreboardResultWrite a) := fun _ => trivial
theorem drainCycle : Statement .drainCycle := fun _ => trivial
theorem instRetire a : Statement (.instRetire a) := fun _ => trivial
theorem instStop a : Statement (.instStop a) := fun _ => trivial
theorem storeLostFault a : Statement (.storeLostFault a) := fun _ => trivial
theorem binitDeferred : Statement .binitDeferred := fun _ => trivial
theorem engineOpStart a : Statement (.engineOpStart a) := fun _ => trivial
theorem tokenComplete a : Statement (.tokenComplete a) := fun _ => trivial
theorem dmcLanding a b : Statement (.dmcLanding a b) := fun _ => trivial
theorem phaseCacheEighthDrained a b : Statement (.phaseCacheEighthDrained a b) := fun _ => trivial
theorem phaseScratchEighthReleased a b : Statement (.phaseScratchEighthReleased a b) := fun _ => trivial
theorem storeAcknowledge : Statement .storeAcknowledge := fun _ => trivial
theorem releaseStorePerform : Statement .releaseStorePerform := fun _ => trivial
theorem acquireFenceRefresh : Statement .acquireFenceRefresh := fun _ => trivial
theorem homeWriteApply a : Statement (.homeWriteApply a) := fun _ => trivial
theorem lineFill a b : Statement (.lineFill a b) := fun _ => trivial
theorem l2Eviction a : Statement (.l2Eviction a) := fun _ => trivial
theorem mscEviction a : Statement (.mscEviction a) := fun _ => trivial
theorem amoPerform : Statement .amoPerform := fun _ => trivial
theorem tableWalk a b c : Statement (.tableWalk a b c) := fun _ => trivial
theorem tlbinvComplete : Statement .tlbinvComplete := fun _ => trivial
theorem pairAccept a : Statement (.pairAccept a) := fun _ => trivial
theorem csendTransmit a : Statement (.csendTransmit a) := fun _ => trivial
theorem messageAccept a : Statement (.messageAccept a) := fun _ => trivial
theorem crecvMatch a : Statement (.crecvMatch a) := fun _ => trivial
theorem frameDataReceive a b : Statement (.frameDataReceive a b) := fun _ => trivial
theorem frameAckReceive a b : Statement (.frameAckReceive a b) := fun _ => trivial
theorem frameNackReceive a b : Statement (.frameNackReceive a b) := fun _ => trivial
theorem frameIdleReceive a b : Statement (.frameIdleReceive a b) := fun _ => trivial
theorem ackTimer a : Statement (.ackTimer a) := fun _ => trivial
theorem retransmitTimeout a : Statement (.retransmitTimeout a) := fun _ => trivial
theorem linkFail a : Statement (.linkFail a) := fun _ => trivial
theorem epochEnd a : Statement (.epochEnd a) := fun _ => trivial
theorem linkTrain a b : Statement (.linkTrain a b) := fun _ => trivial
theorem hello a b : Statement (.hello a b) := fun _ => trivial
theorem proof a b c : Statement (.proof a b c) := fun _ => trivial
theorem ready a b c d : Statement (.ready a b c d) := fun _ => trivial
theorem abort a b c d : Statement (.abort a b c d) := fun _ => trivial
theorem fabricVirtAccess a : Statement (.fabricVirtAccess a) := fun _ => trivial
theorem ctlWrite a b c : Statement (.ctlWrite a b c) := fun _ => trivial
theorem doorbell a b c d : Statement (.doorbell a b c d) := fun _ => trivial
theorem featureAccept a : Statement (.featureAccept a) := fun _ => trivial
theorem replaceClear : Statement .replaceClear := fun _ => trivial
theorem imgaddr a : Statement (.imgaddr a) := fun _ => trivial
theorem imgstatWrite : Statement .imgstatWrite := fun _ => trivial
theorem bringUp a : Statement (.bringUp a) := fun _ => trivial
theorem temperatureSwing a b : Statement (.temperatureSwing a b) := fun _ => trivial
theorem vbusRetest a : Statement (.vbusRetest a) := fun _ => trivial
theorem storeLayerTrip a : Statement (.storeLayerTrip a) := fun _ => trivial
theorem storeLayerDeadline a : Statement (.storeLayerDeadline a) := fun _ => trivial
theorem storeLayerRestart a : Statement (.storeLayerRestart a) := fun _ => trivial
theorem powerCap : Statement .powerCap := fun _ => trivial
theorem uncorrectableError a : Statement (.uncorrectableError a) := fun _ => trivial
theorem resourceRetire a : Statement (.resourceRetire a) := fun _ => trivial
theorem launchAccept a b c : Statement (.launchAccept a b c) := fun _ => trivial
theorem controlKill a : Statement (.controlKill a) := fun _ => trivial
theorem launchReady a : Statement (.launchReady a) := fun _ => trivial
theorem groupPlace a : Statement (.groupPlace a) := fun _ => trivial
theorem oasisInstPlace a : Statement (.oasisInstPlace a) := fun _ => trivial
theorem drrRound : Statement .drrRound := fun _ => trivial
theorem ageingInterval : Statement .ageingInterval := fun _ => trivial
theorem priorityPreempt a : Statement (.priorityPreempt a) := fun _ => trivial
theorem timeSlicePreempt a : Statement (.timeSlicePreempt a) := fun _ => trivial
theorem memberHalt a : Statement (.memberHalt a) := fun _ => trivial
theorem groupSave a b : Statement (.groupSave a b) := fun _ => trivial
theorem abandonInterval a b : Statement (.abandonInterval a b) := fun _ => trivial
theorem groupResume a b : Statement (.groupResume a b) := fun _ => trivial
theorem launchComplete a : Statement (.launchComplete a) := fun _ => trivial
theorem objectLoad a b c : Statement (.objectLoad a b c) := fun _ => trivial
theorem vbusRetestDone a b c : Statement (.vbusRetestDone a b c) := fun _ => trivial

end Sys2Proof.Laws.Row
end

