-- ==== Sys2Proof/Tests/Slice0.lean ====
section
/-! SUPPORT. The model's own tests: well-formedness, words written out from the encodings of spec/, single steps on small
states, and for each statement a state and operands that meet its hypotheses. -/

namespace Sys2Proof.Tests

open Sys2Proof.Machine Sys2Proof.Claim

set_option Elab.async false

/-! ## Small states and operands -/

/-- The machine after reset, with every register zero. -/
abbrev base : State := State.reset

/-- S register n of the followed core holds x. -/
def withS (n : Nat) (x : Word) (s : State) : State := s.setCore fun c => { c with s := spSet 0 c.s n x }

/-- The followed context is in a handler at level l. -/
def atLevel (l : Nat) (s : State) : State := s.setCore fun c => { c with tlevel := l, thandler := 0x9000, thsize := 0x1000 }

/-- A kernel of no loops with Kilbin's latencies. -/
def smallKernel : Kernel :=
  { vmid := 0, kdesc := 0, base := 0x10000, len := 0x1000, entry := 0x10000, lat := [1, 3, 4, 8, 14, 6, 2, 1], loops := [],
    livev := 0, livew := 0, argSize := 0, nbufr := 0, nbufw := 0, xfnMask := 0, xfns := [], routMask := 0, routRefs := [],
    feat := 0, priv := false, oasis := false }

def fr : FR := ⟨0, 1, 2, 0, 0, 0, none⟩
def fi : FI := ⟨0, 1, 2, 5, none⟩
def fli : FLI := ⟨0, 1, 0x1234, none⟩
def fb : FB := ⟨0, 0, 0, 1, none⟩
def fm : FM := ⟨0, 1, 2, 0, none⟩
def fmo : FMO := ⟨0, 1, 2, 1, 0, 0, 0, none⟩
def fmx : FMX := ⟨0, 1, 2, 3, 0, 1, none⟩
def fv : FV := ⟨0, 0, 0, 0, 1, 2, 3, 4, 0, 0, 0⟩
def fe : FE := ⟨0, 0, 0, 0, 0, 0, 0, 0, 0, 0, none⟩

/-- `Runs` as a computation. -/
def runsB (i : Instr) (s : State) : Bool :=
  s.verdict != .done && s.verdict != .walk && (s.rd.core.checks i).isNone && s.rd.core.pred (predOf i) && !(s.rd.core.reads i ++ writesOf i).any s.rd.core.unready &&
    (s.rd.core.markOn i).isNone
theorem runs_iff {i : Instr} {s : State} : Runs i s ↔ runsB i s = true := by
  simp only [Runs, runsB, State.reached, Bool.and_eq_true, bne_iff_ne, Option.isNone_iff_eq_none, Bool.not_eq_true', and_assoc]

/-! ## Words written out from the encodings (R45 to R56, R70 to R76, R191, R247, R279, R327, R328, R355) -/

/-- Words of subformat R, common map: PG 5, RD 0x15, RA 0x2A, RB 0x33, W 1, FN 6 (R49, R70, R71, R76). -/
def words_commonRA : List (BitVec 64 × (FR → Instr)) := [
  (0x0155AB3E, .add), (0x0355AB3E, .sub), (0x0555AB3E, .mul), (0x0755AB3E, .mulh), (0x0955AB3E, .mulhu), (0x0B55AB3E, .div),
  (0x0D55AB3E, .divu), (0x0F55AB3E, .rem), (0x1155AB3E, .remu), (0x1355AB3E, .and), (0x1555AB3E, .or), (0x1755AB3E, .xor),
  (0x1955AB3E, .andn), (0x1B55AB3E, .orn), (0x1D55AB3E, .shl), (0x1F55AB3E, .shr), (0x2155AB3E, .sar), (0x2355AB3E, .rol),
  (0x2555AB3E, .ror), (0x2755AB3E, .min), (0x2955AB3E, .max), (0x2B55AB3E, .minu), (0x2D55AB3E, .maxu), (0x2F55AB3E, .abs),
  (0x3155AB3E, .cmpeq), (0x3355AB3E, .cmpne), (0x3555AB3E, .cmplt), (0x3755AB3E, .cmpltu), (0x3955AB3E, .cmple),
  (0x3B55AB3E, .cmpleu), (0x3D55AB3E, .sel), (0x3F55AB3E, .clz)]

theorem test_decode_commonRA : ∀ e ∈ words_commonRA, decodeSlot .s0 e.1 none = some (e.2 ⟨5, 0x15, 0x2A, 0x33, 1, 6, none⟩) ∧
    decodeSlot .s1 e.1 (some 7) = some (e.2 ⟨5, 0x15, 0x2A, 0x33, 1, 6, some 7⟩) := by decide +kernel

/-- Words of subformat R, common map: PG 5, RD 0x15, RA 0x2A, RB 0x33, W 1, FN 6 (R49, R70, R71, R76). -/
def words_commonRB : List (BitVec 64 × (FR → Instr)) := [
  (0x4155AB3E, .ctz), (0x4355AB3E, .popc), (0x4555AB3E, .bswap), (0x4755AB3E, .sext), (0x4955AB3E, .zext),
  (0x6355AB3E, .fadd), (0x6555AB3E, .fsub), (0x6755AB3E, .fmul), (0x6955AB3E, .fdiv), (0x6B55AB3E, .fmin),
  (0x6D55AB3E, .fmax), (0x6F55AB3E, .fcmpeq), (0x7155AB3E, .fcmplt), (0x7355AB3E, .fcmple), (0x7555AB3E, .fcvt),
  (0x7755AB3E, .fclass), (0x7955AB3E, .csrr), (0x7B55AB3E, .csrw)]

theorem test_decode_commonRB : ∀ e ∈ words_commonRB, decodeSlot .s0 e.1 none = some (e.2 ⟨5, 0x15, 0x2A, 0x33, 1, 6, none⟩) ∧
    decodeSlot .s1 e.1 (some 7) = some (e.2 ⟨5, 0x15, 0x2A, 0x33, 1, 6, some 7⟩) := by decide +kernel

/-- Words of subformat I, common map: PG 5, RD 0x15, RA 0x2A, IMM10 0x2A5 (R49, R70, R71, R76). -/
def words_commonI : List (BitVec 64 × (FI → Instr)) := [
  (0x4B55AAA5, .addi), (0x4D55AAA5, .andi), (0x4F55AAA5, .ori), (0x5155AAA5, .xori), (0x5355AAA5, .shli),
  (0x5555AAA5, .shri), (0x5755AAA5, .sari), (0x5955AAA5, .cmpeqi), (0x5B55AAA5, .cmplti), (0x5D55AAA5, .cmpltui)]

theorem test_decode_commonI : ∀ e ∈ words_commonI, decodeSlot .s0 e.1 none = some (e.2 ⟨5, 0x15, 0x2A, 0x2A5, none⟩) ∧
    decodeSlot .s1 e.1 (some 7) = some (e.2 ⟨5, 0x15, 0x2A, 0x2A5, some 7⟩) := by decide +kernel

/-- Words of subformat LI, common map: PG 5, RD 0x15, IMM16 0xBEEF (R49, R70, R71, R76). -/
def words_commonLI : List (BitVec 64 × (FLI → Instr)) := [
  (0x5F55BEEF, .li), (0x6155BEEF, .lih)]

theorem test_decode_commonLI : ∀ e ∈ words_commonLI, decodeSlot .s0 e.1 none = some (e.2 ⟨5, 0x15, 0xBEEF, none⟩) ∧
    decodeSlot .s1 e.1 (some 7) = some (e.2 ⟨5, 0x15, 0xBEEF, some 7⟩) := by decide +kernel

/-- Words of subformat B, s0 map: PG 5, CC 3, RA 0x2A, OFF13 0x1ABC (R49, R70, R71, R76). -/
def words_s0B : List (BitVec 64 × (FB → Instr)) := [
  (0x815D5ABC, .br), (0x835D5ABC, .call)]

theorem test_decode_s0B : ∀ e ∈ words_s0B, decodeSlot .s0 e.1 none = some (e.2 ⟨5, 3, 0x2A, 0x1ABC, none⟩) := by decide +kernel

/-- Words of subformat R, s0 map: PG 5, RD 0x15, RA 0x2A, RB 0x33, W 1, FN 6 (R49, R70, R71, R76). -/
def words_s0R : List (BitVec 64 × (FR → Instr)) := [
  (0x8555AB3E, .jr), (0x8755AB3E, .callr), (0x8955AB3E, .ret), (0x8B55AB3E, .loop), (0x8D55AB3E, .lexit),
  (0x8F55AB3E, .endk), (0x9155AB3E, .trap), (0x9355AB3E, .twait), (0x9555AB3E, .qsetf), (0x9755AB3E, .pcfg),
  (0x9955AB3E, .xfer), (0x9B55AB3E, .nop), (0x9D55AB3E, .eret), (0x9F55AB3E, .pcsrr), (0xA155AB3E, .pcsrw),
  (0xA355AB3E, .tlbinv)]

theorem test_decode_s0R : ∀ e ∈ words_s0R, decodeSlot .s0 e.1 none = some (e.2 ⟨5, 0x15, 0x2A, 0x33, 1, 6, none⟩) := by decide +kernel

/-- Words of subformat M, s1 map: PG 5, RT 0x15, RA 0x2A, OFF10 0x2A5 (R49, R70, R71, R76). -/
def words_s1M : List (BitVec 64 × (FM → Instr)) := [
  (0x8155AAA5, .ldb), (0x8355AAA5, .ldbu), (0x8555AAA5, .ldh), (0x8755AAA5, .ldhu), (0x8955AAA5, .ldw), (0x8B55AAA5, .ldwu),
  (0x8D55AAA5, .ldd), (0x9155AAA5, .stb), (0x9355AAA5, .sth), (0x9555AAA5, .stw), (0x9755AAA5, .std)]

theorem test_decode_s1M : ∀ e ∈ words_s1M, decodeSlot .s1 e.1 none = some (e.2 ⟨5, 0x15, 0x2A, 0x2A5, none⟩) := by decide +kernel

/-- Words of subformat MO, s1 map: PG 5, RT 0x15, RA 0x2A, ORD 2, bits 7:4 9, W 1, SCOPE 4 (R49, R70, R71, R76). -/
def words_s1MO : List (BitVec 64 × (FMO → Instr)) := [
  (0x9955AA9C, .ld), (0x9B55AA9C, .st), (0x9D55AA9C, .fence)]

theorem test_decode_s1MO : ∀ e ∈ words_s1MO, decodeSlot .s1 e.1 none = some (e.2 ⟨5, 0x15, 0x2A, 2, 9, 1, 4, none⟩) := by decide +kernel

/-- Words of subformat MX, s1 map: PG 5, RT 0x15, RA 0x2A, RB 0x33, W 1, SCOPE 4 (R49, R70, R71, R76). -/
def words_s1MX : List (BitVec 64 × (FMX → Instr)) := [
  (0xA155AB3C, .amoadd), (0xA355AB3C, .amoand), (0xA555AB3C, .amoor), (0xA755AB3C, .amoxor), (0xA955AB3C, .amomin),
  (0xAB55AB3C, .amomax), (0xAD55AB3C, .amominu), (0xAF55AB3C, .amomaxu), (0xB155AB3C, .amoswp), (0xB355AB3C, .amocas)]

theorem test_decode_s1MX : ∀ e ∈ words_s1MX, decodeSlot .s1 e.1 none = some (e.2 ⟨5, 0x15, 0x2A, 0x33, 1, 4, none⟩) := by decide +kernel

/-- Words of subformat R, s1 map: PG 5, RD 0x15, RA 0x2A, RB 0x33, W 1, FN 6 (R49, R70, R71, R76). -/
def words_s1R : List (BitVec 64 × (FR → Instr)) := [
  (0xB555AB3E, .binit), (0xB755AB3E, .barr), (0xB955AB3E, .bdrop), (0xBB55AB3E, .bwait), (0xBD55AB3E, .qpush)]

theorem test_decode_s1R : ∀ e ∈ words_s1R, decodeSlot .s1 e.1 none = some (e.2 ⟨5, 0x15, 0x2A, 0x33, 1, 6, none⟩) := by decide +kernel

/-- Words of subformat LS, l map: PG 5, CD 0x15, RA 0x2A, OFF11 0x6A5 (R49, R70, R71, R76). -/
def words_lLS : List (BitVec 64 × (FLS → Instr)) := [
  (0x016B56A5, .ldsc), (0x036B56A5, .ldscb)]

theorem test_decode_lLS : ∀ e ∈ words_lLS, decodeSlot .l e.1 none = some (e.2 ⟨5, 0x15, 0x2A, 0x6A5, none⟩) := by decide +kernel

/-- V words: PG 6, WID 1, FMT 9, RND 2, DST 0x2B, SA 0x45, SB 0x9A, SC 0x3C, MSK 5, MEN 1, AUX 0x2D6 (R52, R54, R72). -/
def words_vA : List (BitVec 64 × (Unit2 → FV → Instr)) := [
  (0x01998AD1668F2ED6, .vadd), (0x03998AD1668F2ED6, .vsub), (0x05998AD1668F2ED6, .vmul), (0x07998AD1668F2ED6, .vmulh),
  (0x09998AD1668F2ED6, .vfma), (0x0B998AD1668F2ED6, .vfms), (0x0D998AD1668F2ED6, .vfnma), (0x0F998AD1668F2ED6, .vfnms),
  (0x11998AD1668F2ED6, .vmin), (0x13998AD1668F2ED6, .vmax), (0x15998AD1668F2ED6, .vabs), (0x17998AD1668F2ED6, .vneg),
  (0x19998AD1668F2ED6, .vadds), (0x1B998AD1668F2ED6, .vsubs), (0x1D998AD1668F2ED6, .vavg), (0x1F998AD1668F2ED6, .vclamp),
  (0x21998AD1668F2ED6, .vcmpeq), (0x23998AD1668F2ED6, .vcmpne), (0x25998AD1668F2ED6, .vcmplt), (0x27998AD1668F2ED6, .vcmple),
  (0x29998AD1668F2ED6, .vcmpgt), (0x2B998AD1668F2ED6, .vcmpge), (0x2D998AD1668F2ED6, .vsel), (0x2F998AD1668F2ED6, .vmov),
  (0x31998AD1668F2ED6, .vand), (0x33998AD1668F2ED6, .vor), (0x35998AD1668F2ED6, .vxor), (0x37998AD1668F2ED6, .vandn),
  (0x39998AD1668F2ED6, .vnot), (0x3B998AD1668F2ED6, .vshl), (0x3D998AD1668F2ED6, .vshr), (0x3F998AD1668F2ED6, .vsar)]

theorem test_decode_vA : ∀ e ∈ words_vA, decodeSlot .v0 e.1 none = some (e.2 .v0 ⟨6, 1, 9, 2, 0x2B, 0x45, 0x9A, 0x3C, 5, 1, 0x2D6⟩) ∧
    decodeSlot .v1 e.1 none = some (e.2 .v1 ⟨6, 1, 9, 2, 0x2B, 0x45, 0x9A, 0x3C, 5, 1, 0x2D6⟩) := by decide +kernel

/-- V words: PG 6, WID 1, FMT 9, RND 2, DST 0x2B, SA 0x45, SB 0x9A, SC 0x3C, MSK 5, MEN 1, AUX 0x2D6 (R52, R54, R72). -/
def words_vB : List (BitVec 64 × (Unit2 → FV → Instr)) := [
  (0x41998AD1668F2ED6, .vmacw), (0x43998AD1668F2ED6, .vcvt), (0x45998AD1668F2ED6, .vqnt), (0x47998AD1668F2ED6, .vdqn),
  (0x49998AD1668F2ED6, .vbcast), (0x4B998AD1668F2ED6, .vperm), (0x4D998AD1668F2ED6, .vshuf), (0x4F998AD1668F2ED6, .vrot),
  (0x51998AD1668F2ED6, .viota), (0x53998AD1668F2ED6, .vlut), (0x55998AD1668F2ED6, .vpack), (0x57998AD1668F2ED6, .vunpk),
  (0x59998AD1668F2ED6, .vrsum), (0x5B998AD1668F2ED6, .vrmax), (0x5D998AD1668F2ED6, .vrmin), (0x5F998AD1668F2ED6, .vstat),
  (0x61998AD1668F2ED6, .vnorm), (0x63998AD1668F2ED6, .vtopk), (0x65998AD1668F2ED6, .vsort), (0x67998AD1668F2ED6, .vsegsum),
  (0x69998AD1668F2ED6, .vmand), (0x6B998AD1668F2ED6, .vmor), (0x6D998AD1668F2ED6, .vmxor), (0x6F998AD1668F2ED6, .vmnot),
  (0x71998AD1668F2ED6, .vmset), (0x73998AD1668F2ED6, .vmpop), (0x75998AD1668F2ED6, .vxfer), (0x77998AD1668F2ED6, .vsetrow),
  (0x79998AD1668F2ED6, .vclz), (0x7B998AD1668F2ED6, .vpopc)]

theorem test_decode_vB : ∀ e ∈ words_vB, decodeSlot .v0 e.1 none = some (e.2 .v0 ⟨6, 1, 9, 2, 0x2B, 0x45, 0x9A, 0x3C, 5, 1, 0x2D6⟩) ∧
    decodeSlot .v1 e.1 none = some (e.2 .v1 ⟨6, 1, 9, 2, 0x2B, 0x45, 0x9A, 0x3C, 5, 1, 0x2D6⟩) := by decide +kernel

/-- X words: the same fields, with AUX the function index, an index above the architected ones, and XMOV (R73, R191). -/
def words_x : List (BitVec 64 × (FV → Instr) × BitVec 10) := [
  (0x01998AD1668F2C00, .xexp2, 0), (0x01998AD1668F2C01, .xlog2, 1), (0x01998AD1668F2C02, .xrcp, 2), (0x01998AD1668F2C03, .xrsqrt, 3),
  (0x01998AD1668F2C04, .xsqrt, 4), (0x01998AD1668F2C05, .xtanh, 5), (0x01998AD1668F2C06, .xsigm, 6), (0x01998AD1668F2C07, .xgelu, 7),
  (0x01998AD1668F2C08, .xerf, 8), (0x01998AD1668F2C09, .xsin, 9), (0x01998AD1668F2C0A, .xcos, 10), (0x01998AD1668F2C0B, .xexp, 11),
  (0x01998AD1668F2C0C, .xsilu, 12), (0x01998AD1668F2C0D, .xsoftplus, 13), (0x01998AD1668F2C14, .xfn, 20), (0x03998AD1668F2C51, .xmov, 0x51)]

theorem test_decode_x : ∀ e ∈ words_x, decodeSlot .x e.1 none = some (e.2.1 ⟨6, 1, 9, 2, 0x2B, 0x45, 0x9A, 0x3C, 5, 1, e.2.2⟩) := by
  decide +kernel

/-- M words: PG 6, WID 1, FMT 9, RND 2, SWP 1, TOKP 0x15, TOKA 0x2A, TOKB 0x33, TOKC 0x0C, and ARG (R52, R56, R74, R279). -/
def words_m : List (BitVec 64 × (FE → Instr) × BitVec 21) := [
  (0x0199AAD599805A5A, .fmat, 0x5A5A), (0x0199AAD59980DA5A, .fmata, 0xDA5A), (0x0199AAD599815A5A, .fgradx, 0x15A5A),
  (0x0199AAD59981DA5A, .fgradc, 0x1DA5A), (0x0199AAD599825A5A, .fupd, 0x25A5A), (0x0199AAD59982DA5A, .refine, 0x2DA5A),
  (0x0199AAD599835A5A, .clearg, 0x35A5A), (0x0199AAD59983DA5A, .gemm, 0x3DA5A), (0x0199AAD599845A5A, .gemmq, 0x45A5A),
  (0x0199AAD59984DA5A, .gemms, 0x4DA5A), (0x0199AAD599855A5A, .gemmt, 0x55A5A), (0x0199AAD59985DA5A, .fgrad, 0x5DA5A),
  (0x0199AAD599945A5A, .mcall, 0x145A5A), (0x0399AAD59995A5A5, .mplane, 0x15A5A5), (0x0599AAD59995A5A5, .mldc, 0x15A5A5),
  (0x0799AAD59995A5A5, .mstc, 0x15A5A5), (0x0999AAD59995A5A5, .mgrid, 0x15A5A5), (0x0B99AAD59995A5A5, .mwload, 0x15A5A5),
  (0x0D99AAD59995A5A5, .mstat, 0x15A5A5)]

theorem test_decode_m : ∀ e ∈ words_m, decodeSlot .m e.1 (some 7) =
    some (e.2.1 ⟨6, 1, 9, 2, 1, 0x15, 0x2A, 0x33, 0x0C, e.2.2, some 7⟩) := by decide +kernel

/-- D words: PG 6, WID 1, FMT 9, RND 2, SWP 1, TOKP 0x15, TOKA 0x2A, TOKB 0x33, TOKC 0x0C, and ARG (R52, R56, R75, R247, R355). -/
def words_d : List (BitVec 64 × (FE → Instr) × BitVec 21) := [
  (0x0199AAD59995A5A5, .dcpy, 0x15A5A5), (0x0399AAD59995A5A5, .dmc, 0x15A5A5), (0x0599AAD59995A5A5, .dgat, 0x15A5A5),
  (0x0799AAD59995A5A5, .dsct, 0x15A5A5), (0x0999AAD59995A5A5, .dzero, 0x15A5A5), (0x0B99AAD59995A5A5, .dfill, 0x15A5A5),
  (0x0D99AAD59995A5A5, .dpref, 0x15A5A5), (0x0F99AAD59995A5A5, .dflush, 0x15A5A5), (0x1199AAD59995A5A5, .dinv, 0x15A5A5),
  (0x1399AAD59995A5A5, .phase, 0x15A5A5), (0x1599AAD59995A5A5, .djoin, 0x15A5A5), (0x2199AAD59995A5A5, .ureg, 0x15A5A5),
  (0x2399AAD59995A5A5, .urel, 0x15A5A5), (0x2599AAD59995A5A5, .upd, 0x15A5A5), (0x2799AAD59995A5A5, .ufence, 0x15A5A5),
  (0x3199AAD59995A5A5, .csend, 0x15A5A5), (0x1799AAD5999B0554, .tmovOpr, 0x1B0554), (0x1799AAD5999A1554, .tmovQnt, 0x1A1554),
  (0x1799AAD5999A5554, .tmovDqn, 0x1A5554), (0x1799AAD5999A9554, .tmovLzc, 0x1A9554), (0x1799AAD5999AD554, .tmovLzd, 0x1AD554),
  (0x1799AAD5999B1554, .tmovCrc, 0x1B1554), (0x1799AAD5999B2554, .tmovRes, 0x1B2554), (0x3399AAD59993D420, .crecvStore, 0x13D420),
  (0x3399AAD59993D4A0, .crecvAddw, 0x13D4A0), (0x3399AAD59993D520, .crecvAddq, 0x13D520)]

theorem test_decode_d : ∀ e ∈ words_d, decodeSlot .d e.1 (some 7) =
    some (e.2.1 ⟨6, 1, 9, 2, 1, 0x15, 0x2A, 0x33, 0x0C, e.2.2, some 7⟩) := by decide +kernel

/-- Moves: INV 1, GRD 6, SRC 0x155A, and each destination port (R327, R328). -/
noncomputable def words_mvA : List (BitVec 32 × (FMv → Instr) × BitVec 13) := [
  (0xEAAD0500, .ialuAdd, 0x140), (0xEAAD0900, .ialuAdd, 0x240), (0xEAAD0504, .ialuSub, 0x141), (0xEAAD0904, .ialuSub, 0x241),
  (0xEAAD0508, .ialuMul, 0x142), (0xEAAD0908, .ialuMul, 0x242), (0xEAAD050C, .ialuAnd, 0x143), (0xEAAD090C, .ialuAnd, 0x243),
  (0xEAAD0510, .ialuOr, 0x144), (0xEAAD0910, .ialuOr, 0x244), (0xEAAD0514, .ialuXor, 0x145), (0xEAAD0914, .ialuXor, 0x245),
  (0xEAAD0518, .ialuShl, 0x146), (0xEAAD0918, .ialuShl, 0x246), (0xEAAD051C, .ialuShr, 0x147), (0xEAAD091C, .ialuShr, 0x247),
  (0xEAAD0520, .ialuSar, 0x148), (0xEAAD0920, .ialuSar, 0x248), (0xEAAD0524, .ialuMinu, 0x149), (0xEAAD0924, .ialuMinu, 0x249),
  (0xEAAD0528, .ialuMaxu, 0x14A), (0xEAAD0928, .ialuMaxu, 0x24A), (0xEAAD052C, .ialuCeq, 0x14B), (0xEAAD092C, .ialuCeq, 0x24B),
  (0xEAAD0530, .ialuCne, 0x14C), (0xEAAD0930, .ialuCne, 0x24C), (0xEAAD0534, .ialuClt, 0x14D), (0xEAAD0934, .ialuClt, 0x24D),
  (0xEAAD0538, .ialuCltu, 0x14E), (0xEAAD0938, .ialuCltu, 0x24E), (0xEAAD053C, .ialuCle, 0x14F), (0xEAAD093C, .ialuCle, 0x24F),
  (0xEAAD0D00, .valuFadd, 0x340), (0xEAAD0D04, .valuFsub, 0x341), (0xEAAD0D08, .valuFmul, 0x342), (0xEAAD0D0C, .valuFma, 0x343)]

theorem test_decode_mvA : ∀ e ∈ words_mvA, decodeMove e.1 (some 7) = e.2.1 ⟨1, 6, 0x155A, e.2.2, 0, some 7⟩ := by decide +kernel

/-- Moves: INV 1, GRD 6, SRC 0x155A, and each destination port (R327, R328). -/
noncomputable def words_mvB : List (BitVec 32 × (FMv → Instr) × BitVec 13) := [
  (0xEAAD0D10, .valuFmax, 0x344), (0xEAAD0D14, .valuFmin, 0x345), (0xEAAD0D18, .valuIadd, 0x346), (0xEAAD0D1C, .valuBfwide, 0x347),
  (0xEAAD0D20, .valuBfnarrow, 0x348), (0xEAAD0D24, .valuAnd, 0x349), (0xEAAD0D28, .valuOr, 0x34A), (0xEAAD0D2C, .valuXor, 0x34B),
  (0xEAAD1100, .lsuLdd, 0x440), (0xEAAD1104, .lsuLdw, 0x441), (0xEAAD1108, .lsuLdy, 0x442), (0xEAAD110C, .lsuStd, 0x443),
  (0xEAAD1110, .lsuStw, 0x444), (0xEAAD1114, .lsuSty, 0x445), (0xEAAD1118, .lsuMdrd, 0x446), (0xEAAD111C, .lsuMdwr, 0x447),
  (0xEAAD1500, .rowCpy, 0x540), (0xEAAD1504, .rowZero, 0x541), (0xEAAD1508, .rowTobuf, 0x542), (0xEAAD150C, .rowFrombuf, 0x543),
  (0xEAAD1900, .cvsApply, 0x640), (0xEAAD1904, .cvsCount, 0x641), (0xEAAD1D00, .syncInv, 0x740), (0xEAAD1D04, .syncWbinv, 0x741),
  (0xEAAD1D08, .syncFence, 0x742), (0xEAAD1D0C, .syncSignal, 0x743), (0xEAAD2100, .pcJump, 0x840), (0xEAAD2104, .pcCall, 0x841),
  (0xEAAD2108, .pcRet, 0x842), (0xEAAD210C, .pcHalt, 0x843), (0xEAAD2110, .pcYield, 0x844), (0xEAAD0408, .mv, 0x102)]

theorem test_decode_mvB : ∀ e ∈ words_mvB, decodeMove e.1 (some 7) = e.2.1 ⟨1, 6, 0x155A, e.2.2, 0, some 7⟩ := by decide +kernel

/-! ## Well-formedness: an ill-formed term for each check -/

/-- Terms of the scalar slots with a reserved field (cause 0x02; R49, R51, R135 to R162). -/
def illScalar : List Instr := [
  .add { fr with fn := 1 }, .sel { fr with w := 1 }, .sext { fr with fn := 3 }, .fadd { fr with fn := 4 }, .fadd { fr with w := 1 },
  .abs { fr with rb := 3 }, .clz { fr with lit := some 1 }, .add { fr with rb := 3, lit := some 1 }, .fcvt { fr with rb := 10 },
  .fcvt { fr with rb := 0, fn := 4 }, .fcvt { fr with rb := 6, lit := some 1 }, .csrr { fr with ra := 1, rb := 0x30 },
  .csrr { fr with ra := 0, rb := 2, w := 1 }, .csrw { fr with ra := 0, rb := 2, lit := some 0 },
  .addi { fi with lit := some 1 }, .shli { fi with imm := 64 }, .sari { fi with imm := 0, lit := some 64 }, .li { fli with lit := some 1 },
  .br { fb with cc := 7 }, .br { fb with cc := 0, ra := 1 }, .call { fb with cc := 1 }, .br { fb with lit := some 1 },
  .jr { fr with rd := 1 }, .callr { fr with rb := 1 }, .ret { fr with rd := 0, fn := 1 }, .loop { fr with rd := 0, ra := 0, fn := 2 },
  .lexit { fr with rd := 0, rb := 1 }, .endk { fr with rd := 0, ra := 0, rb := 1 }, .trap { fr with rd := 0 }, .nop { fr with ra := 0 },
  .twait { fr with rd := 1 }, .qsetf { fr with rb := 1, lit := some 0 }, .pcfg { fr with rd := 1 }, .pcfg { fr with rd := 0, w := 1, fn := 7 },
  .xfer { fr with fn := 6 }, .xfer { fr with fn := 0, rb := 1 }, .xfer { fr with rd := 8, fn := 0 }, .xfer { fr with ra := 8, fn := 5 },
  .eret { fr with rd := 1 }, .pcsrr { fr with ra := 0, rb := 0x31 }, .tlbinv { fr with fn := 3 }, .tlbinv { fr with fn := 1 },
  .tlbinv { fr with ra := 0, rb := 1, fn := 2 }, .ldw { fm with off := 1, lit := some 0 }, .std { fm with off := 1, lit := some 0 },
  .ld { fmo with ord := 2 }, .st { fmo with ord := 1 }, .ld { fmo with z := 1 }, .ld { fmo with scope := 5 }, .ld { fmo with lit := some 0 },
  .fence { fmo with rt := 0, ra := 0, ord := 0 }, .fence { fmo with rt := 1, ra := 0 }, .fence { fmo with rt := 0, ra := 0, w := 1 },
  .amoadd { fmx with scope := 5 }, .amocas { fmx with lit := some 0 }, .binit { fr with rd := 1 }, .barr { fr with rb := 1 },
  .bdrop { fr with lit := some 0 }, .bwait { fr with rd := 1 }, .qpush { fr with rb := 1, lit := some 0 }]

theorem test_ill_scalar : ∀ i ∈ illScalar, check true i = some 0x02 ∧ i.wf = false := by decide +kernel

/-- The privileged instructions, refused only to an unprivileged context (R162, R363, R365). -/
theorem test_ill_unprivileged : ∀ i ∈ [Instr.eret { fr with rd := 0, ra := 0 }, .pcsrr { fr with ra := 0 }, .pcsrw { fr with ra := 0 }, .tlbinv fr,
    .csrr { fr with ra := 4, rb := 4 }, .csrw { fr with ra := 4, rb := 4 }], check false i = some 0x0D ∧ check true i = none := by decide +kernel

/-- Terms of L, V, X with what their words may not hold, and the cause (R52 to R55, R165, R166, R168, R174 to R187, R190, R195). -/
def illVector : List (Instr × Nat) := [
  (.ldsc ⟨0, 1, 2, 0, some 0⟩, 0x02), (.vadd .v0 { fv with wid := 3, sc := 0 }, 0x02), (.vadd .v0 { fv with fmt := 13, sc := 0 }, 0x02),
  (.vadd .v1 { fv with sc := 0, msk := 1 }, 0x02), (.vadd .v0 { fv with sc := 0, aux := 1 }, 0x02),
  (.vcmpeq .v0 { fv with dst := 0, sc := 0, aux := 0x18 }, 0x02),
  (.vcmpeq .v0 { fv with sc := 0, aux := 0x101 }, 0x02), (.vcvt .v0 { fv with sb := 0, sc := 0, aux := 0x00D }, 0x02),
  (.vcvt .v0 { fv with sb := 0, sc := 0, aux := 0x040 }, 0x02), (.vqnt .v0 { fv with sb := 0, sc := 0, fmt := 1, aux := 0x010 }, 0x02),
  (.vbcast .v0 { fv with sb := 0, sc := 0, aux := 8 }, 0x02), (.vshuf .v0 { fv with sc := 0, aux := 7 }, 0x02),
  (.vtopk .v0 { fv with sb := 0, sc := 0, aux := 0x00D }, 0x02), (.vtopk .v0 { fv with sb := 0, sc := 0, aux := 0x000 }, 0x02),
  (.vtopk .v0 { fv with sb := 0, sc := 0, aux := 0x048 }, 0x02), (.vsort .v0 { fv with sc := 0, aux := 0x00C }, 0x02),
  (.vsort .v0 { fv with sc := 0, wid := 0, aux := 0x006 }, 0x02), (.vsetrow .v0 { fv with dst := 0, sa := 0, sb := 0, sc := 0, aux := 0x200 }, 0x02),
  (.vsort .v0 { fv with sc := 0, men := 1 }, 0x02), (.vnorm .v0 { fv with sc := 0, rnd := 1 }, 0x02),
  (.vadd .v0 { fv with sc := 4 }, 0x06), (.vadd .v0 { fv with sc := 0, dst := 72 }, 0x06), (.vadd .v0 { fv with sc := 0, sa := 100 }, 0x06),
  (.vadd .v0 { fv with sc := 0, sa := 129 }, 0x06), (.vsort .v0 { fv with sc := 0, dst := 63 }, 0x06),
  (.vsort .v0 { fv with sc := 0, dst := 64 }, 0x06), (.vxfer .v0 { fv with sb := 0, sc := 0, sa := 64 }, 0x06),
  (.vmand .v0 { fv with dst := 1, sa := 0, sb := 0, sc := 0 }, 0x06),
  (.vmulh .v0 { fv with sc := 0 }, 0x09), (.vadd .v0 { fv with sc := 0, fmt := 3 }, 0x09), (.vand .v0 { fv with sc := 0, fmt := 11 }, 0x09),
  (.vmacw .v0 { fv with fmt := 9 }, 0x09), (.vcvt .v0 { fv with sb := 0, sc := 0, fmt := 12, aux := 5 }, 0x09),
  (.vqnt .v0 { fv with sb := 0, sc := 0, fmt := 5 }, 0x09), (.vpack .v0 { fv with sc := 0, fmt := 5 }, 0x09),
  (.vrsum .v0 { fv with sb := 0, sc := 0, fmt := 3 }, 0x09), (.vstat .v0 { fv with sb := 0, fmt := 5 }, 0x09),
  (.vnorm .v0 { fv with sc := 0, fmt := 1 }, 0x09), (.vsort .v0 { fv with sc := 0, fmt := 5 }, 0x09),
  (.vsetrow .v0 { fv with dst := 0, sa := 0, sb := 0, sc := 0, wid := 1 }, 0x09), (.vmand .v0 { fv with dst := 0, sa := 0, sb := 0, sc := 0, fmt := 1 }, 0x09),
  (.xfn { fv with sb := 0, sc := 0, aux := 14 }, 0x02), (.xfn { fv with sb := 0, sc := 0, aux := 0x34 }, 0x02),
  (.xexp2 { fv with sb := 0, sc := 0, rnd := 1 }, 0x02), (.xexp2 { fv with sb := 0, sc := 0, dst := 16 }, 0x06),
  (.xexp2 { fv with sb := 0, sc := 0, sa := 16 }, 0x06), (.xexp2 { fv with sc := 0 }, 0x06), (.xexp2 { fv with sb := 0, sc := 0, fmt := 3 }, 0x09),
  (.xmov { fv with sa := 0, sb := 0, sc := 0, aux := 4 }, 0x02), (.xmov { fv with sb := 0, sc := 0 }, 0x06),
  (.xmov { fv with sa := 0, sb := 0, sc := 0, fmt := 1 }, 0x09)]

theorem test_ill_vector : ∀ e ∈ illVector, check true e.1 = some e.2 ∧ e.1.wf = false := by decide +kernel

/-- Terms of M and D (R236, R243 to R247, R273, R279, R308, R354, R355). -/
def illEngine : List (Instr × Nat) := [
  (.fmat { fe with wid := 1 }, 0x02), (.fmat { fe with lit := some 0 }, 0x02), (.fmat { fe with rnd := 1 }, 0x02), (.fmat { fe with arg := 0x4000 }, 0x02),
  (.fupd { fe with arg := 0x22000 }, 0x02), (.fmat { fe with fmt := 3 }, 0x09), (.fupd { fe with arg := 0x20000, fmt := 1 }, 0x09),
  (.gemmq { fe with arg := 0x40000, fmt := 1 }, 0x09), (.gemm { fe with arg := 0x38000 }, 0x09), (.mplane { fe with arg := 1 }, 0x02),
  (.mstc { fe with arg := 0x60000 }, 0x02), (.mldc { fe with arg := 1 }, 0x02), (.mwload { fe with fmt := 1 }, 0x02),
  (.dcpy { fe with arg := 1 }, 0x02), (.dcpy { fe with wid := 1 }, 0x02), (.dcpy { fe with lit := some 0 }, 0x02), (.dmc { fe with arg := 1 }, 0x02),
  (.dgat { fe with arg := 1 }, 0x02), (.dsct { fe with arg := 1 }, 0x02), (.dzero { fe with arg := 1 }, 0x02),
  (.dfill { fe with arg := 0x20, lit := some 0 }, 0x02), (.dpref { fe with arg := 2 }, 0x02), (.dflush { fe with arg := 2 }, 0x02),
  (.dinv { fe with arg := 5 }, 0x02), (.phase fe, 0x02), (.phase { fe with tokp := 1, swp := 1 }, 0x02), (.djoin { fe with tokp := 1, arg := 5 }, 0x02),
  (.djoin { fe with tokp := 1, arg := 1 }, 0x02), (.tmovOpr fe, 0x02), (.tmovQnt { fe with arg := 0x1004, fmt := 3 }, 0x09),
  (.tmovQnt { fe with arg := 0x100C }, 0x02), (.tmovCrc { fe with arg := 0x11000, fmt := 1 }, 0x02), (.tmovRes { fe with arg := 0x82000 }, 0x02),
  (.ureg fe, 0x02), (.ureg { fe with tokp := 1, arg := 11 }, 0x02), (.urel { fe with swp := 1 }, 0x02), (.upd { fe with arg := 1 }, 0x02),
  (.ufence fe, 0x02), (.csend fe, 0x02), (.csend { fe with tokp := 1, rnd := 1 }, 0x02), (.csend { fe with tokp := 1, fmt := 2 }, 0x09),
  (.crecvStore { fe with tokp := 1, arg := 0x20 }, 0x02), (.crecvAddq { fe with tokp := 1, arg := 0x140 }, 0x02), (.crecvStore { fe with tokp := 1, rnd := 1 }, 0x02)]

theorem test_ill_engine : ∀ e ∈ illEngine, check true e.1 = some e.2 ∧ e.1.wf = false := by decide +kernel

/-- Moves (R327 to R332), and terms whose word names another row. -/
theorem test_ill_move : ∀ e ∈ [(Instr.mv ⟨0, 0, 0, 0, 1, none⟩, 0x02), (.mv ⟨1, 0, 0, 0, 0, none⟩, 0x02), (.mv ⟨0, 0, 0x1EFF, 0, 0, none⟩, 0x02),
    (.mv ⟨0, 0, 1, 0, 0, none⟩, 0x03), (.mv ⟨0, 0, 0, 0x060, 0, none⟩, 0x03), (.mv ⟨0, 0, 0x100, 0, 0, none⟩, 0x06),
    (.mv ⟨0, 0, 0, 0x110, 0, none⟩, 0x06)], check true e.1 = some e.2 ∧ e.1.wf = false := by decide +kernel
theorem test_ill_named : ∀ i ∈ [Instr.xexp2 { fv with aux := 1 }, .xfn fv, .fmata fe, .mcall fe, .tmovQnt { fe with arg := 0x4000 }, .crecvAddw fe,
    .mv ⟨0, 0, 0, 0x140, 0, none⟩, .ialuAdd ⟨0, 0, 0, 0x141, 0, none⟩], named i = false ∧ i.wf = false := by decide +kernel

/-- A well-formed term of each format is accepted. -/
theorem test_well_formed : ∀ i ∈ [Instr.add fr, .addi fi, .li fli, .br fb, .ldw fm, .ld fmo, .amoadd fmx, .ldsc ⟨0, 1, 2, 0, none⟩, .vfma .v0 fv,
    .xexp2 { fv with sb := 0, sc := 0 }, .fmat fe, .dcpy fe, .mv ⟨0, 0, 0, 0, 0, none⟩, .ialuAdd ⟨0, 0, 0, 0x140, 0, none⟩],
    i.wf = true := by decide +kernel

/-! ## States and operands that meet the hypotheses of the statements: scalars, CSRs, control -/

theorem test_meets_integerResults : ∀ op ∈ integerOps, ∀ w ∈ [(0 : BitVec 1), 1], Runs (op.1 { fr with w := w }) base := by
  simp only [runs_iff]; decide +kernel
theorem test_meets_scalarMoves : Runs (.sel fr) base ∧ (∀ n ∈ [(0 : BitVec 3), 1, 2], Runs (.sext { fr with fn := n }) base ∧
    Runs (.zext { fr with fn := n }) base) ∧ (∀ op ∈ immediateOps, Runs (op.1 fi) base ∧ Runs (op.1 { fi with imm := 0, lit := some 63 }) base) ∧
    Runs (.li fli) base ∧ Runs (.lih { fli with imm := 0, lit := some 5 }) base ∧ 63 < (immOf { fi with imm := 64 }).toNat := by
  simp only [runs_iff]; decide +kernel
theorem test_meets_divisionResults : ∀ op ∈ divisionOps,
    (∀ w ∈ [(0 : BitVec 1), 1], Runs (op.1 { fr with rb := 3, w := w }) (withS 3 0x100000000 base)) ∧
    divisorZero { fr with rb := 3, w := 1 } ((withS 3 0x100000000 base).opB { fr with rb := 3, w := 1 }) ∧
    ¬divisorZero { fr with rb := 3 } ((withS 3 0x100000000 base).opB { fr with rb := 3 }) := by
  simp only [runs_iff, divisorZero]; decide +kernel
theorem test_meets_floatAndConvert : (∀ op ∈ floatOps, Runs (op.1 { fr with rb := 3 }) base) ∧ Runs (.fdiv { fr with rb := 3 }) base ∧
    (∀ n ∈ [(0 : BitVec 6), 1, 2, 3, 4, 5, 6, 7, 8, 9], Runs (.fcvt { fr with rb := n }) base) ∧ Runs (.fclass fr) base := by
  simp only [runs_iff]; decide +kernel
theorem test_meets_scalarFrame : exposedDest (.add fr) = some 1 ∧ Runs (.add fr) base ∧ ∃ t, exec (.add fr) base = .next t :=
  ⟨rfl, by simp only [runs_iff]; decide +kernel, _, rfl⟩
theorem test_meets_copyFrame : (∀ i ∈ [Instr.csrr { fr with ra := 0, rb := 2 }, .csrw { fr with ra := 0, rb := 0x18 }, .qsetf fr, .pcfg { fr with rd := 0 }, .xfer fr,
    .pcsrr { fr with ra := 0 }, .pcsrw { fr with ra := 0 }, .tlbinv fr], Runs i (atLevel 1 base)) ∧
    ∃ t, exec (.qsetf fr) (atLevel 1 base) = .next t ∧ t.verdict ≠ .done :=
  ⟨by simp only [runs_iff]; decide +kernel, _, rfl, by decide +kernel⟩
theorem test_meets_vectorFrame : Runs (.vadd .v0 { fv with sc := 0 }) base ∧ Runs (.xmov { fv with sa := 0, sb := 0, sc := 0 }) base ∧
    Runs (.xexp2 { fv with sb := 0, sc := 0 }) base ∧ base.cur.core.filesWf ∧ Memory.wf base.cur.quad.sp = true ∧
    (∃ t, exec (.vadd .v0 { fv with sc := 0 }) base = .next t ∧ t.verdict ≠ .done) ∧
    ∃ t, exec (.xmov { fv with sa := 0, sb := 0, sc := 0 }) base = .next t ∧ t.verdict ≠ .done :=
  ⟨by simp only [runs_iff]; decide +kernel, by simp only [runs_iff]; decide +kernel, by simp only [runs_iff]; decide +kernel, by unfold Core.filesWf; decide +kernel,
    by decide +kernel, ⟨_, rfl, by decide +kernel⟩, _, rfl, by decide +kernel⟩
theorem test_meets_registerViews : base.idle ∧ spWf 0 base.cur.core.s = true ∧ base.cur.core.latency clsA1 ≤ 1 ∧ kilbinLat.getD clsA1 1 ≤ 1 ∧
    2 ≤ base.cur.core.latency clsXC ∧ base.cur.core.tlevel = 0 ∧ (atLevel 2 base).cur.core.tlevel ≠ 0 := by
  unfold State.idle; decide +kernel

/-- The CSR form of a number (R145). -/
def csrF (n : Nat) : FR := { fr with ra := BitVec.ofNat 6 (n / 64), rb := BitVec.ofNat 6 (n % 64) }

theorem test_meets_csrAccess : (∀ e ∈ csrTable, (csrF e.1).csrn = e.1 ∧ Runs (.csrr (csrF e.1)) (atLevel 1 base)) ∧
    Runs (.csrr (csrF 0)) base ∧ Runs (.csrr (csrF 1)) base ∧
    (∀ e ∈ csrWrites, (csrF e.1).csrn = e.1 ∧ Runs (.csrw (csrF e.1)) (atLevel 1 base)) ∧
    Runs (.csrw (csrF 6)) base ∧ ∀ e ∈ csrWrites, (csrF 6).csrn ≠ e.1 := by simp only [runs_iff]; decide +kernel

/-- A handler at level 1 over a bank of one entry, number 3, of class XC. -/
def frozen : State := (atLevel 1 base).setCore fun c => { c with bank0 := [⟨3, clsXC, 1, false, true, 0, 0, 0, 0, 5, [⟨.s 5, 7⟩]⟩] }

theorem test_meets_handlerAccess : 1 ≤ frozen.rd.core.tlevel ∧
    (∀ n ∈ [0x30, 3, 0x2F], Runs (.pcsrr (csrF n)) frozen ∧ Runs (.pcsrw (csrF n)) frozen) ∧
    (frozen.rd.core.bank 0).find? (·.slot == (csrF 3).csrn) ≠ none ∧ (frozen.rd.core.bank 0).find? (·.slot == (csrF 0x2F).csrn) = none ∧
    (frozen.reg 1).getLsbD 63 = false ∧ Runs (.pcsrw (csrF 3)) (withS 1 (-1) frozen) ∧ ((withS 1 (-1) frozen).reg 1).getLsbD 63 = true := by
  simp only [runs_iff]; decide +kernel
theorem test_meets_tlbInvalidates : Runs (.tlbinv fr) frozen ∧ (frozen.reg fr.rb).toNat ≤ 95 ∧ fr.fn ≠ 2 ∧
    (frozen.reg fr.rb).toNat = frozen.rd.core.vmid.toNat ∧ frozen.rd.core.tlbinv = none ∧
    Runs (.tlbinv fr) (frozen.setCore fun c => { c with tlbinv := some (0, 0, 0, 0) }) := by simp only [runs_iff]; decide +kernel
theorem test_meets_copiesAndPorts : Runs (.qsetf fr) base ∧ Runs (.qsetf { fr with rd := 32 }) base ∧
    (∀ n ∈ [(0 : BitVec 3), 1, 2, 3, 4, 5, 6, 7], Runs (.pcfg { fr with rd := 56, fn := n }) base ∧ (n ≠ 7 → Runs (.pcfg { fr with rd := 56, w := 1, fn := n }) base)) ∧
    spWf 0 base.cur.core.port = true ∧ spWf 0 base.cur.core.pidx = true ∧ 3 ≤ (((withS 2 3 base).reg fr.ra + (withS 2 3 base).opB fr).setWidth 32 : BitVec 32).toNat ∧
    (((withS 2 3 base).reg fr.ra + (withS 2 3 base).opB fr).setWidth 32 : BitVec 32).toNat % 32 ≠ 0 ∧
    (∀ n ∈ [(1 : BitVec 3), 2, 3, 4], Runs (.xfer { fr with rb := 63, fn := n }) base) ∧ Runs (.xfer { fr with rd := 7, rb := 0 }) base ∧
    Runs (.xfer { fr with ra := 7, rb := 0, fn := 5 }) base := by simp only [runs_iff]; decide +kernel

/-- A level of the loop stack: two iterations, one stage, over bundles 0x10000 to 0x10100. -/
def oneLoop : LoopEnt := ⟨⟨0, 0, 0, 1, 2, 4, 1, 1, 1, 1, 1, 0, 0, 0⟩, 0, 2, 2, 0x10000, 0x100F0, 0x10100, 2, 0, 0, 0, false⟩
def inLoop (pc : Word) (exec : Nat) : State :=
  base.setCore fun c => { c with pc := pc, blen := 16, loops := [{ oneLoop with exec := exec }] }

theorem test_meets_transfers : (Transfer base (.br fb) (branchTarget fb base.rd.core) none) ∧ Runs (.br fb) base ∧
    closesHere (inLoop 0x100F0 1).rd.core ∧ Runs (.call fb) (inLoop 0x100F0 1) ∧
    (¬closesHere (inLoop 0x10000 0).rd.core ∧ inBody (inLoop 0x10000 0).rd.core 0x10004 ∧ ¬inBody (inLoop 0x10000 0).rd.core 0x10100) ∧
    Runs (.jr { fr with rd := 0 }) (inLoop 0x10000 0) ∧ Runs (.callr fr) base ∧ Runs (.ret { fr with rd := 0 }) base ∧
    Runs (.br { fb with cc := 2, ra := 1 }) base ∧ ¬condition 2 (base.reg 1) := by
  refine ⟨.br fb (.inl rfl), by simp only [runs_iff]; decide +kernel, ⟨_, _, rfl, by decide +kernel, by decide +kernel⟩, by simp only [runs_iff]; decide +kernel, ⟨?_, ?_, ?_⟩,
    by simp only [runs_iff]; decide +kernel, by simp only [runs_iff]; decide +kernel, by simp only [runs_iff]; decide +kernel, by simp only [runs_iff]; decide +kernel, ?_⟩
  · rintro ⟨l, t, h, h1, -⟩
    obtain ⟨rfl, rfl⟩ := List.cons.inj h
    exact absurd h1 (by decide +kernel)
  · intro l t h
    obtain ⟨rfl, rfl⟩ := List.cons.inj h
    exact ⟨by decide +kernel, by decide +kernel⟩
  · intro h
    exact absurd (h _ _ rfl).2 (by decide +kernel)
  · unfold condition; decide +kernel
theorem test_meets_nextBundle : ((inLoop 0x100F0 0).setCore fun c => { c with jump := some 4 }).cur.core.jump = some 4 ∧
    (inLoop 0x100F0 0).cur.core.jump = none ∧ (inLoop 0x100F0 0).cur.core.skipTo = none := by decide +kernel
theorem test_meets_stagePredicates : check base.rd.core.priv (.add { fr with pg := 2 }) = none ∧ (slotOf (.add fr)).isSome = true ∧
    (inLoop 0x10000 0).rd.core.pred (predOf (.add { fr with pg := 2 })) = false ∧ (inLoop 0x10000 0).verdict ≠ .done ∧
    base.cur.core.openLoops = [] := by decide +kernel

/-- Page 1 of device 0 is cached with R, W, A and D, at its own physical address. -/
def mapState0 (s : State) : State := s.setCur fun m => { m with tlb := [⟨some 0, 1, 0, 0x10C07⟩] }

/-- A kernel with level 3 of two iterations and level 4 of none, and a bundle that opens a level. -/
def loopKernel : State := base.setCore fun c =>
  { c with
    pc := 0x10000, blen := 8
    kernel := some { smallKernel with loops := [⟨3, 0, 0, 1, 2, 1, 0, 0, 0, 0, 0, 0, 0, 0⟩, ⟨4, 0, 0, 1, 0, 1, 0, 0, 0, 0, 0, 0, 0, 0⟩] } }
def loopF (n : BitVec 6) : FR := ⟨0, 0, 0, n, 0, 0, none⟩

theorem test_meets_loopOpens : Runs (.loop (loopF 3)) loopKernel ∧ Runs (.loop (loopF 3)) (atLevel 1 loopKernel) ∧
    (∃ r, loopRecord loopKernel.rd.core 3 = some r ∧ r.tripSrc = 0 ∧ 0 < r.tripVal) ∧
    (∃ r, loopRecord loopKernel.rd.core 4 = some r ∧ r.tripSrc = 0 ∧ r.tripVal = 0) ∧ loopRecord loopKernel.rd.core 5 = none ∧
    loopKernel.rd.core.loops.length < 6 ∧ 6 ≤ (loopKernel.setCore fun c => { c with loops := List.replicate 6 oneLoop }).rd.core.loops.length := by
  refine ⟨by simp only [runs_iff]; decide +kernel, by simp only [runs_iff]; decide +kernel, ⟨_, rfl, by decide, by decide⟩, ⟨_, rfl, by decide, by decide⟩, rfl, by decide +kernel,
    by decide +kernel⟩
/-- A kernel with level 5, whose trip count is the word at offset 8 of the argument block, here at 0x10000, a mapped address. -/
def kargKernel (arg : Word) : State := (mapState0 loopKernel).setCore fun c =>
  { c with karg := arg, kernel := some { smallKernel with loops := [⟨5, 0, 2, 1, 8, 1, 0, 0, 0, 0, 0, 0, 0, 0⟩] } }

theorem test_meets_loopTripsFromMemory : (∀ n ∈ [0x10000, 0x1FFF4, 0x10001, 0xFFFFFF0000000], let arg := BitVec.ofNat 64 n
    Runs (.loop (loopF 5)) (kargKernel arg) ∧
    (kargKernel arg).rd.core.tlevel = 0 ∧ ((loopRecord (kargKernel arg).rd.core 5).any fun r => r.tripSrc == 2 && r.tripVal == 8) = true ∧
    (kargKernel arg).rd.core.loops = []) ∧ (0x10001 + 8) % 4 ≠ 0 ∧ inWindow (0xFFFFFF0000000 + 8) = true := by
  simp only [runs_iff]; decide +kernel
theorem test_meets_loopTripMapped : ∀ va ∈ [0x10008, 0x1FFFC], va % 4 = 0 ∧ inWindow va = false ∧
      (kargKernel 0x10000).rd.ownXlate va .read = (.ok 0x10C07 va, none) ∧
      (kargKernel 0x10000).rd.core.fenced = false ∧ (kargKernel 0x10000).rd.core.memq = [] ∧ va % 128 + 4 ≤ 128 ∧
      (((kargKernel 0x10000).rd.mem.touch va 4).homeRead false (va / 128)).2 = false ∧
      (((kargKernel 0x10000).rd.copyFor false 0x10C07 (va / 128) none).isNone) = true := by decide +kernel
-- R30, R154: the trip count of such a level is the word of the argument block.
theorem test_loop_trip_word : (match exec (.loop (loopF 5)) ((kargKernel 0x10000).setCur fun m => { m with mem := { m.mem with dram := [(0x10008, 3)] } }) with
    | .next t => t.cur.core.loops.map (·.trip)
    | _ => []) = [3] := by decide +kernel

/-- Level 3 within level 2, whose bodies end at one bundle; port 1 rises with level 2 of its indices. -/
def nested (e : Nat) : State := (inLoop 0x100F0 e).setCore fun c =>
  { c with
    endDue := true
    loops := [{ oneLoop with exec := e, lrec := { oneLoop.lrec with pdelta := 0xA0 } }, { oneLoop with lrec := { oneLoop.lrec with level := 1 } }]
    port := [(21, 4)] }

theorem test_meets_endsTogether : (match (nested 1).cur.core.loops with
      | [l, o] => decide (l.total ≤ l.exec + 1 ∧ o.fin = l.fin ∧ l.lrec.pdelta / 2 ^ (4 * 1 + 3) % 2 = 1 ∧ l.lrec.pdelta / 2 ^ (4 * 1) % 8 = 2 ∧
          ∀ p, p < 8 → l.lrec.pdelta / 2 ^ (4 * p) % 8 < 6)
      | _ => false) = true ∧ (nested 1).cur.core.endDue = true ∧ spWf 0 (nested 1).cur.core.pidx = true := by decide +kernel
-- R107, R148: the port's index of that level rises, the others are as they were.
theorem test_port_advances : (match exec .loopExecutionEnd (nested 0) with
    | .next t => (List.range 6).map (t.cur.core.portIdx 1)
    | _ => []) = [0, 0, 1, 0, 0, 0] := by decide +kernel
theorem test_meets_executionEnds : ∀ e ∈ [0, 1], ((inLoop 0x100F0 e).setCore fun c => { c with endDue := true }).cur.core.endDue = true ∧
    (e = 0 → e + 1 < oneLoop.total) ∧ (e = 1 → oneLoop.total ≤ e + 1) := by decide +kernel
theorem test_meets_waitsAndPadding : Runs (.endk { fr with rd := 0, ra := 0 }) base ∧ Runs (.nop { fr with rd := 0, ra := 0, rb := 63 }) base ∧
    Runs (.twait { fr with rd := 0, rb := 3 }) base ∧ (∀ r ∈ [(2 : BitVec 6), 3], base.rd.core.awaits (base.rd.core.physS r.toNat) = false) ∧
    Runs (.lexit { fr with rd := 0, ra := 0 }) base ∧ Runs (.lexit { fr with rd := 0 }) (inLoop 0x10000 0) ∧
    (inLoop 0x10000 0).rd.core.openLoops ≠ [] ∧ (inLoop 0x10000 0).reg 2 = 0 ∧ base.rd.core.openLoops = [] := by simp only [runs_iff]; decide +kernel
theorem test_meets_softwareTrap : let s := base.setCore fun c => { c with thandler := 0x9000 }
    Runs (.trap { fr with rd := 0, ra := 0, rb := 9 }) s ∧ s.verdict = .go ∧ s.rd.core.tlevel = 0 ∧ s.rd.core.thandler ≠ 0 ∧
      s.rd.core.loops = [] ∧ s.cur.core.lexit = false ∧ s.cur.core.jump = none ∧ s.cur.core.skipTo = none := by simp only [runs_iff]; decide +kernel
theorem test_meets_trapReturn : ∀ l ∈ [1, 2], Runs (.eret { fr with rd := 0, ra := 0 }) (atLevel l base) ∧ (atLevel l base).verdict = .go ∧
    (atLevel l base).rd.core.bank l = [] ∧
    let s := (atLevel l base).setCore fun c => c.setBank l [⟨0, clsXC, 1, false, true, 0, 0, 0, 0, 5, [⟨.s 5, 7⟩]⟩]
    Runs (.eret { fr with rd := 0, ra := 0 }) s ∧ s.rd.core.bank s.rd.core.tlevel ≠ [] := by simp only [runs_iff]; decide +kernel

/-! ## Memory, barriers, translation -/

/-- Every bank of rank 0 is scratchpad, and S register 2 holds an address in it. -/
def padState (x : Word) : State := (withS 2 x base).setCur fun m => { m with quad := { m.quad with split := [(0, 0x8888888888888888)] } }

/-- Page 1 of device 0 is cached with R, W, A and D, at its own physical address; S register 2 holds an address. -/
def mapState (x : Word) : State := (withS 2 x base).setCur fun m => { m with tlb := [⟨some 0, 1, 0, 0x10C07⟩] }

def lastPad : Word := 0xFFFFFF0000000 + 0x3FFFFF8

theorem test_meets_loadsFromScratchpad : ∀ op ∈ loadOps, ∀ n ∈ [qbase, qbase + 0x3FFFFF8], let x := BitVec.ofNat 64 n
    Runs (op.1 fm) (padState x) ∧
    (addressM fm (padState x) op.2.1).toNat % op.2.1 = 0 ∧ inWindow (addressM fm (padState x) op.2.1).toNat = true ∧
    padFault (padState x).rd ((addressM fm (padState x) op.2.1).toNat - qbase) = none ∧ (padState x).rd.core.fenced = false ∧
    noAmo (padState x).rd.core.memq true ((addressM fm (padState x) op.2.1).toNat - qbase) op.2.1 ∧
    (padState x).rd.core.padOverdue ((addressM fm (padState x) op.2.1).toNat - qbase) op.2.1 = false ∧
    (padState x).rd.quad.poisoned ((addressM fm (padState x) op.2.1).toNat - qbase) op.2.1 = false := by
  simp only [runs_iff, noAmo]; decide +kernel
theorem test_meets_loadsFromMemory : ∀ op ∈ loadOps, Runs (op.1 fm) (mapState 0x1FFF8) ∧
    (addressM fm (mapState 0x1FFF8) op.2.1).toNat % op.2.1 = 0 ∧ inWindow 0x1FFF8 = false ∧
    (mapState 0x1FFF8).rd.ownXlate 0x1FFF8 .read = (.ok 0x10C07 0x1FFF8, none) ∧
    (mapState 0x1FFF8).rd.core.fenced = false ∧ noAmo (mapState 0x1FFF8).rd.core.memq false 0x1FFF8 op.2.1 ∧ 0x1FFF8 % 128 + op.2.1 ≤ 128 := by
  simp only [runs_iff, noAmo]; decide +kernel
theorem test_meets_acquireLoads : ∀ w ∈ [(0 : BitVec 1), 1], ∀ sc ∈ [(0 : BitVec 3), 1, 4], let f : FMO := { fmo with w := w, scope := sc }
    (Runs (.ld f) (padState lastPad) ∧
      lastPad.toNat % wordSize w = 0 ∧ inWindow lastPad.toNat = true ∧ padFault (padState lastPad).rd (lastPad.toNat - qbase) = none ∧
      (padState lastPad).rd.core.fenced = false ∧ (padState lastPad).rd.core.padOverdue (lastPad.toNat - qbase) (wordSize w) = false ∧
      (padState lastPad).rd.quad.poisoned (lastPad.toNat - qbase) (wordSize w) = false ∧
      noAmo (padState lastPad).rd.core.memq true (lastPad.toNat - qbase) (wordSize w)) ∧
    Runs (.ld f) (mapState 0x1FFF8) ∧ 0x1FFF8 % wordSize w = 0 ∧ inWindow 0x1FFF8 = false ∧
      (mapState 0x1FFF8).rd.ownXlate 0x1FFF8 .read = (.ok 0x10C07 0x1FFF8, none) ∧ (mapState 0x1FFF8).rd.core.fenced = false ∧
      noAmo (mapState 0x1FFF8).rd.core.memq false 0x1FFF8 (wordSize w) ∧ 0x1FFF8 % 128 + wordSize w ≤ 128 := by
  simp only [runs_iff, noAmo]; decide +kernel
theorem test_meets_storeEffects : ∀ op ∈ storeOps, Runs (op.1 fm) (padState lastPad) ∧ Memory.wf (padState lastPad).cur.quad.sp = true ∧
    padFault (padState lastPad).rd ((addressM fm (padState lastPad) op.2).toNat - qbase) = none ∧ (padState lastPad).rd.core.memq = [] ∧
    (padState lastPad).rd.core.relFence = none ∧ (padState lastPad).rd.core.relSince = [] ∧
    (padState lastPad).rd.core.padOverdue (lastPad.toNat - qbase) op.2 = false ∧
    (padState lastPad).rd.core.fenced = false ∧ Runs (op.1 fm) (mapState 0x10000) ∧ (addressM fm (mapState 0x10000) op.2).toNat = 0x10000 ∧
    (mapState 0x10000).rd.ownXlate 0x10000 .write = (.ok 0x10C07 0x10000, none) := by
  simp only [runs_iff]; decide +kernel
theorem test_meets_releaseStores : ∀ w ∈ [(0 : BitVec 1), 1], Runs (.st { fmo with ord := 2, w := w }) (padState lastPad) ∧
    (padState lastPad).rd.core.busy = false ∧ pushing (padState lastPad).rd.core = false ∧
    (padState lastPad).rd.core.padOverdue (lastPad.toNat - qbase) 8 = false ∧ Runs (.st { fmo with ord := 2, w := w, scope := 4 }) (mapState 0x10000) := by
  simp only [runs_iff]; decide +kernel
/-- What a mapping without COMP shows is sound where nothing stands in the memory-side cache. -/
theorem sound_of (m : Mem) (h : Memory.wf m.dram = true ∧ spWf false m.poison = true ∧ spWf none m.l2 = true ∧ m.msc = []) : memSound m false := by
  obtain ⟨h1, h2, h3, h4⟩ := h
  refine ⟨h1, h2, h3, by rw [h4]; rfl, fun key c hc => ?_⟩
  rw [h4] at hc
  cases hc
/-- One dirty sector in L2. -/
def recMem0 (sec : Nat) : Mem := { base.cur.mem with l2 := [(ckey false sec, some ⟨5, true, 0, false, 0, 0, false⟩)] }
theorem shown_plain (sec : Nat) : shown false sec := fun h => by cases h
theorem test_meets_homeWrite : present (0x10000 / 128 * 128) = true ∧ memSound base.cur.mem false ∧ l2Sound base.cur.mem false ∧ shown false 0x200 :=
  ⟨by decide +kernel, sound_of _ (by decide +kernel), .inl (by decide +kernel), shown_plain _⟩
/-- A full L2 whose one listed sector is dirty is kept below. -/
theorem test_meets_l2Kept : l2Kept (recMem0 0x200) false := fun key c h => by
  have hk : key = 0x400 := by
    by_cases e : key = 0x400
    · exact e
    · simp [recMem0, spGet, e, ckey] at h
  subst hk
  obtain rfl : c = ⟨5, true, 0, false, 0, 0, false⟩ := by simpa [recMem0, spGet, ckey] using h.symm
  exact ⟨rfl, by decide +kernel, shown_plain _, fun h => by cases h⟩

/-- One store, release or AMO at PA 0x10008, 8 bytes, at the head of the queue. -/
def queuedOp (k : MemKind) (pad : Bool) : MemOp := ⟨k, 0x10008, 0x10008, 8, 5, 2, 0x10C07, 0, 0, 3, none, pad, (0, 0), []⟩
def queueState (k : MemKind) (pad : Bool) : State := base.setCore fun c => { c with memq := [queuedOp k pad] }

/-- A release of DIE at the head of the queue, after the bundles before its own. -/
def releaseOp (pad : Bool) : MemOp := { queuedOp .release pad with release := some 2, after := (0, 3), waits := [(2, 0, 3)] }
def releaseState (pad : Bool) : State := base.setCore fun c => { c with memq := [releaseOp pad] }

theorem test_meets_writesPerformed : ((queueState .store false).cur.core.transit = [] ∧ (queueState .store false).cur.core.memq = [queuedOp .store false] ∧
    (queuedOp .store false).kind = .store ∧ (queueState .store false).cur.mem.bins = [] ∧ present (0x10008 / 128 * 128) = true ∧ 0x10008 % 8 = 0 ∧
    effComp (leafComp (queuedOp .store false).leaf) (0x10008 / 128) = false) ∧
    memSound (queueState .store false).cur.mem false ∧ l2Sound (queueState .store false).cur.mem false ∧ shown false (0x10008 / 128) ∧
    (∀ pad ∈ [true, false], (releaseState pad).cur.core.memq = [releaseOp pad] ∧ (releaseOp pad).kind = .release ∧
      released (releaseState pad).cur.core (releaseOp pad) ∧ ∀ x ∈ (releaseState pad).cur.core.transit, x.overlaps pad 0x10008 8 = false) ∧
    (let s := (releaseState false).setCore fun c => { c with transit := [{ queuedOp .store false with pa := 0 }] }
     ¬released s.cur.core (releaseOp false)) ∧
    ((releaseState false).setCore fun c => { c with unacked := [(3, 7, 0, 0)] }).cur.core.unacked = [(3, 7, 0, 0)] := by
  refine ⟨by decide +kernel, sound_of _ (by decide +kernel), .inl (by decide +kernel), shown_plain _, ?_, ?_, rfl⟩
  · simp only [released, acknowledged]; decide +kernel
  · simp only [released, acknowledged]; decide +kernel
theorem test_meets_fences : (∀ o ∈ [(1 : BitVec 2), 2, 3], ∀ sc ∈ [(0 : BitVec 3), 1, 3, 4],
    Runs (.fence { fmo with rt := 0, ra := 0, ord := o, scope := sc }) base) ∧
    let s := base.setCore fun c => { c with refresh := true, acqWait := some 3 }
    s.cur.core.refresh = true ∧ s.cur.core.acqWait ≠ none ∧ s.cur.core.busy = false ∧
    ∃ o ∈ (queueState .amo false).cur.core.memq, o.kind = .amo := by simp only [runs_iff]; decide +kernel
theorem test_meets_accessFaults : (∀ op ∈ loadOps, Runs (op.1 fm) (mapState 0x10001)) ∧ (addressM fm (mapState 0x10001) 8).toNat % 8 ≠ 0 ∧
    (∀ op ∈ storeOps, Runs (op.1 fm) base) ∧ (∀ op ∈ amoOps, Runs (op.1 fmx) (mapState 0x10001)) ∧
    inWindow (qbase + 0x4000000) = true ∧ padFault (padState 0).rd 0x4000000 = some 0x3A ∧ padFault base.rd 0 = some 0x36 ∧
    ((mapState 0x11000).setCur fun m => { m with tlb := [⟨some 0, 1, 0, 0x10C09⟩] }).rd.ownXlate 0x11000 .read = (.fault 0x21, none) ∧
    base.rd.ownXlate (2 ^ 52) .amo = (.fault 0x20, none) ∧ ((base.rd.ownXlate 0x50000 .read).1 = .fault 0) := by simp only [runs_iff]; decide +kernel
theorem test_meets_atomics : ∀ op ∈ amoOps, ∀ w ∈ [(0 : BitVec 1), 1], Runs (op.1 { fmx with w := w }) (padState lastPad) ∧
    (padState lastPad).rd.quad.poisoned (lastPad.toNat - qbase) (wordSize w) = false ∧ Runs (op.1 { fmx with w := w }) (mapState 0x10000) ∧
    (mapState 0x10000).rd.ownXlate 0x10000 .amo = (.ok 0x10C07 0x10000, none) := by
  simp only [runs_iff]; decide +kernel
theorem test_meets_atomicPerformed : (queueState .amo false).cur.core.memq = [queuedOp .amo false] ∧ (amoOps[(queuedOp .amo false).amo]?).isSome = true ∧
    (queuedOp .amo false).scope ≠ 0 ∧ (queuedOp .amo false).release = none ∧ (queuedOp .amo false).waits = [] ∧ (queueState .amo false).cur.core.transit = [] ∧ (queueState .amo false).cur.mem.bins = [] ∧
    ((queueState .amo false).cur.mem.homeRead false (0x10008 / 128)).2 = false ∧ effComp (leafComp (queuedOp .amo false).leaf) (0x10008 / 128) = false := by
  decide +kernel
theorem test_meets_atomicSound : memSound (queueState .amo false).cur.mem false ∧ l2Sound (queueState .amo false).cur.mem false ∧ shown false (0x10008 / 128) :=
  ⟨sound_of _ (by decide +kernel), .inl (by decide +kernel), shown_plain _⟩
theorem test_meets_scoreboardWrites : let s := base.setCore fun c => { c with sb := [⟨5, some 7, some 0x10000, none⟩] }
    s.cur.core.sb.find? (fun x => x.reg == 5 && x.val.isSome) = some ⟨5, some 7, some 0x10000, none⟩ ∧ spWf none s.cur.core.marks = true := by decide +kernel
theorem test_meets_cachesKeepContents : base.cur.mem.bins = [] ∧ leavesClean (spGet none base.cur.mem.l2 0x400) (base.cur.mem.sideRead false 0x200) ∧
    leavesClean (some ⟨5, true, 0, false, 0, 0, false⟩) (base.cur.mem.sideRead false 0x200) ∧ present (0x400 / 2 * 128) = true ∧ present (0x401 / 2 * 128) = true ∧
    spWf none base.cur.mem.l2 = true ∧ memSound base.cur.mem (0x400 % 2 == 1) ∧ l2Sound base.cur.mem (0x400 % 2 == 1) ∧ shown (0x400 % 2 == 1) (0x400 / 2) := by
  refine ⟨rfl, ?_, ?_, by decide +kernel, by decide +kernel, by decide +kernel, sound_of _ (by decide +kernel), .inl (by decide +kernel), shown_plain _⟩
  · intro c h
    cases h
  · intro c h
    obtain rfl := Option.some.inj h
    exact fun h => absurd h (by decide)
theorem test_meets_barrierObject : Memory.wf (padState 0).cur.quad.sp = true ∧
    (∀ o ∈ [(0, 1, 0), (3, 0, 8), (2, 0, 5), (1, 2, 0)], o.1 < 4 ∧ o.2.1 ≤ 3) ∧
    [(0, 1, 0), (3, 0, 8), (2, 0, 5), (1, 2, 0)] = [(0, 1, 0), (3, 0, 8)] ++ (2, 0, 5) :: [(1, 2, 0)] ∧
    (∀ x ∈ [(0, 1, 0), (3, 0, 8)], x.2.1 = 0 → 2 < x.1) ∧ ∀ x ∈ [(1, 2, 0)], x.2.1 = 0 → 2 ≤ x.1 := by decide +kernel
theorem test_meets_barrierInstructions : let s := padState 0xFFFFFF0000010
    Memory.wf s.cur.quad.sp = true ∧ barrierFree s (s.reg 2) true ∧ barrierFree s (s.reg 2) false ∧ Runs (.binit { fr with rd := 0, rb := 3 }) s ∧
      Runs (.barr fr) s ∧ Runs (.bdrop fr) s ∧ Runs (.bwait { fr with rd := 0, rb := 3 }) s ∧
      (objectWords s.rd.quad 16).2.2.1 = ((s.opB { fr with rb := 3 }).setWidth 32).toNat ∧
      (objectWords s.rd.quad 16).2.2.1 ≠ (((withS 3 1 s).opB { fr with rb := 3 }).setWidth 32).toNat ∧
      (s.setCore fun c => { c with binit := some (16, 4) }).cur.core.binit = some (16, 4) ∧ s.cur.peerOps = [] ∧
      s.cur.core.bank s.cur.core.tlevel = [] := by
  simp only [runs_iff, barrierFree]; decide +kernel
theorem test_meets_barrierFaults : (∀ n ∈ [0, 0xFFFFFF0000004, 0xFFFFFF4000000], let s := padState (BitVec.ofNat 64 n)
    Runs (.barr fr) s ∧ Runs (.binit { fr with rd := 0 }) s ∧ Runs (.bdrop fr) s ∧ Runs (.bwait { fr with rd := 0 }) s) ∧
    inWindow 0 = false ∧ 0xFFFFFF0000004 % 16 ≠ 0 ∧ inWindow 0xFFFFFF4000000 = true ∧ padFault (padState 0).rd (0xFFFFFF4000000 - qbase) = some 0x3A ∧
    Runs (.qpush { fr with rb := 3 }) (withS 3 64 base) ∧ 63 < ((withS 3 64 base).opB { fr with rb := 3 }).toNat := by
  simp only [runs_iff]; decide +kernel
theorem test_meets_tlbinvComplete : (∀ mode ∈ [0, 1, 2], let s := base.setCore fun c => { c with tlbinv := some (mode, 0x10000, 0, 5) }
    s.cur.core.tlbinv = some (mode, 0x10000, 0, 5) ∧ s.cur.boundWork = false) ∧
    let s := base.setCur fun m => { m with peerInvs := [(2, 0, 0)] }
    s.cur.core.tlbinv = none ∧ s.cur.peerInvs ≠ [] ∧ s.cur.boundWork = false := by decide +kernel

/-! ## Vector and X slots -/

/-- A vector term of an opcode in a format, its unused selects zero. -/
def vf (op : Nat) (fmt : BitVec 4) (aux : BitVec 10) : FV :=
  let f := { fv with fmt := fmt, aux := aux }
  let u := usesSel op f
  { f with dst := if u.1 then 1 else 0, sa := if u.2.1 then 2 else 0, sb := if u.2.2.1 then 3 else 0, sc := if u.2.2.2 then 4 else 0 }

/-- It runs in both vector slots after reset, and no port stands in its way. -/
def vectorMeets (g : VOp) (op : Nat) (fmt : BitVec 4) (aux : BitVec 10) : Bool :=
  [Unit2.v0, .v1].all fun u => runsB (g u (vf op fmt aux)) base && (portCheck base.rd op (vf op fmt aux)).isNone &&
    (popsOf op (vf op fmt aux) ++ pushOf op (vf op fmt aux)).isEmpty
theorem vectorMeets_iff {g : VOp} {op : Nat} {fmt : BitVec 4} {aux : BitVec 10} : vectorMeets g op fmt aux = true ↔
    ∀ u ∈ [Unit2.v0, .v1], Runs (g u (vf op fmt aux)) base ∧ portCheck base.rd op (vf op fmt aux) = none ∧
      popsOf op (vf op fmt aux) ++ pushOf op (vf op fmt aux) = [] := by
  simp only [vectorMeets, List.all_eq_true, Bool.and_eq_true, runs_iff, Option.isNone_iff_eq_none, List.isEmpty_iff, and_assoc]

/-- Ports 0 and 1 pop and push rows of the own scratchpad. -/
def portState : State := (padState 0).setCore fun c => { c with port := [(0, 1), (2, 128), (16, 2), (17, 4096), (18, 128)] }
def portedAdd : FV := ⟨0, 2, 0, 0, 65, 64, 2, 0, 0, 0, 0⟩

theorem test_meets_elementwise : ∀ e ∈ elementwiseOps, vectorMeets e.1 e.2.1 9 0 = true ∧
    (e.2.1 ∈ [0x00, 0x01, 0x02, 0x04, 0x05, 0x06, 0x07, 0x08, 0x09, 0x0A, 0x0B, 0x0E, 0x0F, 0x16, 0x17] → vectorMeets e.1 e.2.1 1 0 = true) := by
  decide +kernel
theorem test_meets_ports : Runs (.vadd .v0 portedAdd) portState ∧ portsReady 0x00 portedAdd portState ∧
    popsOf 0x00 portedAdd = [0] ∧ pushOf 0x00 portedAdd = [1] := by simp only [runs_iff, portsReady]; decide +kernel
theorem test_meets_compares : ∀ e ∈ compareOps, (∀ aux ∈ [(0x000 : BitVec 10), 0x008, 0x0F0, 0x100], vectorMeets e.1 e.2.1 0 aux = true ∧
    vectorMeets e.1 e.2.1 10 aux = true) := by decide +kernel
theorem test_meets_multiplyAccumulate : ∀ g ∈ [(5 : BitVec 4), 6, 7, 8], ∀ aux ∈ [(0 : BitVec 10), 1, 2, 3], vectorMeets .vmacw 0x20 g aux = true := by
  decide +kernel
theorem test_meets_conversions : (∀ d ∈ [(0x001 : BitVec 10), 0x021, 0x014, 0x009], vectorMeets .vcvt 0x21 0 d = true) ∧
    vectorMeets .vcvt 0x21 5 0x029 = true ∧ (∀ d ∈ [(0x000 : BitVec 10), 0x01F, 0x3E2], vectorMeets .vqnt 0x22 0 d = true) ∧
    ∀ d ∈ [(0x000 : BitVec 10), 0x01B, 0x3E2], vectorMeets .vdqn 0x23 0 d = true := by decide +kernel
theorem test_meets_rearrangements : vectorMeets .vbcast 0x24 0 0x387 = true ∧ vectorMeets .vperm 0x25 9 0 = true ∧ vectorMeets .vlut 0x29 9 0 = true ∧
    vectorMeets .vrot 0x27 0 0x0FF = true ∧ vectorMeets .vrot 0x27 0 0x07F = true ∧
    ∀ n ∈ [(0 : BitVec 10), 1, 2, 3, 4, 5, 6], vectorMeets .vshuf 0x26 0 n = true := by decide +kernel
theorem test_meets_numberAndPack : (∀ n ∈ [(0 : BitVec 10), 1], vectorMeets .viota 0x28 0 n = true ∧ vectorMeets .viota 0x28 12 n = true ∧
    vectorMeets .vpack 0x2A 9 n = true ∧ vectorMeets .vunpk 0x2B 8 n = true) := by decide +kernel
theorem test_meets_reductions : (∀ e ∈ reductionOps, ∀ n ∈ [(0 : BitVec 10), 1], vectorMeets e.1 e.2.1 1 n = true ∧ vectorMeets e.1 e.2.1 5 n = true) ∧
    ∀ n ∈ [(0 : BitVec 10), 1], vectorMeets .vstat 0x2F 0 n = true ∧ vectorMeets .vnorm 0x30 0 n = true := by decide +kernel
theorem test_meets_sorting : vectorMeets .vtopk 0x31 0 0x008 = true ∧ vectorMeets .vtopk 0x31 0 0x040 = true ∧ vectorMeets .vsort 0x32 0 0x005 = true ∧
    vectorMeets .vsort 0x32 9 0x000 = true ∧ vectorMeets .vsegsum 0x33 10 0 = true := by decide +kernel
theorem test_meets_masksAndRows : vectorMeets .vmand 0x34 0 0x0D1 = true ∧ vectorMeets .vmor 0x35 0 0x0D1 = true ∧ vectorMeets .vmxor 0x36 0 0x0D1 = true ∧
    vectorMeets .vmnot 0x37 0 0x011 = true ∧ vectorMeets .vmset 0x38 1 0x1C1 = true ∧ vectorMeets .vmpop 0x39 0 0x008 = true ∧
    vectorMeets .vxfer 0x3A 3 0 = true ∧ vectorMeets .vsetrow 0x3B 0 0x0FF = true ∧ vectorMeets .vsetrow 0x3B 0 0x1FF = true := by decide +kernel
theorem test_meets_vectorRows : 7 < 8 ∧ 7 < widBits (fv.wid) / 32 ∧ (0x81 : BitVec 8).toNat ≥ 128 ∧ Claim.fm fv ≤ 12 ∧ Claim.fm fv ≠ 11 ∧
    (List.replicate 8 ((0, 0) : Row × Row)).length = 8 ∧ 2 ≤ base.cur.core.latency clsVA ∧ spWf 0 base.cur.core.v = true ∧ spWf 0 base.cur.core.w = true := by
  decide +kernel
theorem test_meets_scaleLoads : ∀ n ∈ [qbase, qbase + 1, qbase + 0x4000000], let s := padState (BitVec.ofNat 64 n)
    Runs (.ldsc ⟨0, 1, 2, 0, none⟩) s ∧ Runs (.ldscb ⟨0, 1, 2, 0, none⟩) s ∧ (n = qbase → s.rd.quad.inRange 0 = true ∧ s.rd.quad.isPending 0 = false ∧
      s.rd.quad.poisoned 0 128 = false ∧ s.rd.core.memq = []) ∧ (n = qbase + 1 → n % 32 ≠ 0) ∧
      (n = qbase + 0x4000000 → n % 128 = 0 ∧ qbase + s.rd.core.rank * 2 ^ 26 + 2 ^ 26 ≤ n) := by simp only [runs_iff]; decide +kernel

/-! ## The X slot's functions, the engine queues, messages -/

/-- A kernel with user function 16 and loadable routine 32. -/
def loadedState : State := base.setCore fun c =>
  { c with kernel := some { smallKernel with xfnMask := 1, xfns := [⟨0, [], []⟩], routMask := 1 } }

theorem test_meets_specialFunctions : (∀ e ∈ specialFunctions.zip [20, 0, 1, 2, 3, 4, 5, 6, 7, 8, 9, 10, 11, 12, 13], let f := { fv with sb := 0, sc := 0, aux := BitVec.ofNat 10 e.2 }
    Runs (e.1 f) base ∧ Runs (e.1 { f with fmt := 2, wid := 2, sa := 0xA0 }) base) ∧ base.rd.core.userX 20 = none ∧
    Runs (.xfn { fv with sb := 0, sc := 0, aux := 16 }) loadedState ∧ (loadedState.rd.core.userX 16).isSome = true := by
  simp only [runs_iff]; decide +kernel
theorem test_meets_rowMoves : (∀ a ∈ [(0x010 : BitVec 10), 0x3F2], Runs (.xmov { fv with dst := 15, sa := 0, sb := 0, sc := 0, aux := a }) base) ∧
    ∀ a ∈ [(0x011 : BitVec 10), 0x3F3], Runs (.xmov { fv with dst := 0, sa := 15, sb := 0, sc := 0, aux := a }) base := by simp only [runs_iff]; decide +kernel

/-- Fields with which the rows of `engineTable` run. -/
def engineFields : List FE :=
  [fe, { fe with arg := 0x8000 }, { fe with arg := 0x10000 }, { fe with arg := 0x18000 }, { fe with arg := 0x20000 }, { fe with arg := 0x28000 },
   { fe with arg := 0x30000 }, { fe with arg := 0x38000, fmt := 1 }, { fe with arg := 0x40000, fmt := 3 }, { fe with arg := 0x48000, fmt := 1 },
   { fe with arg := 0x50000, fmt := 1 }, { fe with arg := 0x58000 }, fe, fe, fe, fe, fe, fe, fe, fe, fe, fe, { fe with arg := 0x60 }, fe, fe, fe,
   { fe with tokp := 1, arg := 0x18 }, { fe with arg := 0x10000, lit := some 7 }, { fe with arg := 0x1000 }, { fe with arg := 0x5000 }, { fe with arg := 0x9000 },
   { fe with arg := 0xD000 }, { fe with arg := 0x11000 }, { fe with arg := 0x2000 }, { fe with tokp := 1 }, { fe with tokp := 1 }]

/-- An operation of the queue. -/
def opOf (id : Nat) (i : Instr) (started : Bool) (left : List (Nat × Nat)) : EngOp :=
  ⟨id, i, [], [], [], 5, [], started, 0, 0, left, [], none⟩

theorem test_meets_engineIssue : engineFields.length = engineTable.length ∧ (∀ e ∈ engineTable.zip engineFields, Runs (e.1.ins e.2) base) ∧ room base ∧
    ¬room (base.setCore fun c => { c with eng := List.replicate 32 (opOf 7 .empty false []) }) := by
  simp only [runs_iff, room]; decide +kernel

/-- Shape mq0 with a base, four bytes long; page 1 is cached with a leaf. -/
def weightState (lo hi : BitVec 32) (leaf : Word) : State :=
  base.setCur fun m => { m with core := { m.core with shape := [(0, lo), (1, hi), (2, 4)] }, l2tlb := [(0, ⟨some 0, 1, 0, leaf⟩)] }
/-- Region 5 is registered, and S register 3 holds its id. -/
def regionState : State := (withS 3 5 base).setCore fun c => { c with regions := [(5, some ⟨0x10000, 0x1000, 0, false⟩)] }
def mq0 (s : State) : List (BitVec 32) := (List.range 8).map (s.rd.core.shapeField false false 0)

theorem test_meets_mcallMwload : Runs (.mcall { fe with arg := 0x107FFF &&& 0x1FE000 }) loadedState ∧ loadedState.rd.core.hasRoutine 32 = true ∧
    loadedState.rd.core.hasRoutine 63 = false ∧ Runs (.mwload fe) (weightState 0xF0000000 0xFFFFF 0) ∧
    inWindow (shBase (mq0 (weightState 0xF0000000 0xFFFFF 0))) = true ∧ inWindow (shBase (mq0 (weightState 0x10000 0 0x10C07))) = false ∧
    (bindPages (weightState 0x10000 0 0x10C07).rd ((shRuns (mq0 (weightState 0x10000 0 0x10C07))).map pieces).flatten).2 = .error (0x21, 0x10000) ∧
    (bindPages (weightState 0x10000 0 0x10413).rd ((shRuns (mq0 (weightState 0x10000 0 0x10413))).map pieces).flatten).2 = .ok [(0x10000, 0x10413, 4)] := by
  simp only [runs_iff]; refine ⟨?_, ?_, ?_, ?_, ?_, ?_, rfl, rfl⟩ <;> decide +kernel
theorem test_meets_updUrel : argReg regionState { fe with arg := 0x60 } 5 = 5 ∧ regionState.rd.core.region? 5 = some ⟨0x10000, 0x1000, 0, false⟩ ∧
    Runs (.upd { fe with arg := 0x60 }) regionState ∧ Runs (.urel { fe with arg := 0x60 }) regionState ∧ regionState.verdict ≠ .stall ∧
    base.rd.core.region? (argReg base { fe with arg := 0x60 } 5) = none := by simp only [runs_iff]; decide +kernel
theorem test_meets_phaseIssue : let f := { fe with tokp := 1, arg := 0x18000 }
    Runs (.phase f) (withS 3 0x9 base) ∧ 8 < bankField (argReg (withS 3 0x9 base) f 15) 0 ∧ Runs (.phase f) (withS 3 0x8 base) ∧
      (∀ b, b < 16 → bankField (argReg (withS 3 0x8 base) f 15) b ≤ 8) ∧ spWf 0 base.cur.quad.split = true ∧ spWf false base.cur.quad.pending = true ∧
      Runs (.phase f) ((withS 3 0x8 base).setCore fun c => { c with eng := [opOf 7 (.phase f) true []] }) := by simp only [runs_iff]; decide +kernel
theorem test_meets_collectiveIssue : base.verdict = .go ∧ room base ∧
    ¬room (base.setCore fun c => { c with eng := List.replicate 32 (opOf 7 .empty false []) }) ∧ spWf 0 base.cur.coll.sent = true ∧ spWf 0 base.cur.coll.recvd = true ∧
    Runs (.csend { fe with tokp := 1, arg := 0x618 }) base ∧ Runs (.crecvStore { fe with tokp := 1, arg := 0x600 }) base ∧
    Runs (.crecvAddw { fe with tokp := 1, arg := 0x680 }) base ∧ Runs (.crecvAddq { fe with tokp := 1, arg := 0x700 }) base := by
  simp only [runs_iff, room]; decide +kernel

/-- A running context with one operation in its queue. -/
def engState (o : EngOp) : State := base.setCore fun c => { c with status := .running, eng := [o] }

theorem test_meets_engineRuns : (engState (opOf 7 (.dcpy fe) false [])).cur.core.op? 7 = some (opOf 7 (.dcpy fe) false []) ∧
    mayStart (engState (opOf 7 (.dcpy fe) false [])).cur (opOf 7 (.dcpy fe) false []) = true ∧
    mayStart (engState (opOf 7 (.dcpy fe) true [])).cur (opOf 7 (.dcpy fe) true []) = false ∧
    mayComplete (engState (opOf 7 (.dcpy fe) true [])).cur (opOf 7 (.dcpy fe) true []) = true ∧
    (engState (opOf 7 (.dcpy fe) true [])).cur.core.status ≠ .idle := by decide +kernel
/-- The context leaves a scratchpad eighth or takes one, alone; another context's saved group has bytes in it. -/
def phaseState (l : List (Nat × Nat)) : State :=
  (engState { opOf 7 (.phase fe) true l with vals := [0, 0x8] }).setCur fun m => { m with
    quad := { m.quad with split := [(0, 0x8)], sp := [(5 * 2 ^ 19 + 3, 7), (9 * 2 ^ 19 + 3, 8)] }
    mem := recMem0 0x200
    disp := { m.disp with saved := [⟨1, 0, 0, [], none, none, [(0, 0x10)], [9], [], [], none, []⟩] } }
theorem test_meets_engineProgress :
    (∀ k ∈ [(5, 0), (9, 0)], let s := phaseState [k]
      let o := { opOf 7 (.phase fe) true [k] with vals := [0, 0x8] }
      s.cur.core.op? o.id = some o ∧ o.started = true ∧ o.left.find? (fun x => x.2 == 0 && x.1 / 8 == k.1 / 8) = some k ∧ k.1 < 128 ∧
        (∀ e ∈ s.cur.core.eng, e.id = o.id) ∧ s.cur.mem.l2 ≠ [] ∧
        (k.1 = 5 → k.1 % 8 < bankField (s.cur.quad.splitOf s.cur.core.rank) (k.1 / 8)) ∧ s.cur.core.num * 128 + k.1 ∉ s.cur.mem.pads ∧
        spWf none s.cur.mem.l2 = true) ∧
    (let s := phaseState [(9, 1)]
      let o := { opOf 7 (.phase fe) true [(9, 1)] with vals := [0, 0x8] }
      s.cur.core.op? o.id = some o ∧ o.left.find? (fun x => x.2 == 1 && x.1 / 8 == 1) = some (9, 1) ∧ Memory.wf s.cur.quad.sp = true ∧
        (∃ v, s.cur.disp.saved[0]? = some v ∧ s.cur.core.rank * 128 + 9 ∈ v.left) ∧
        bankField (s.cur.quad.splitOf s.cur.core.rank) (9 / 8) ≤ 9 % 8) ∧
    (3, 0) ∈ (opOf 7 (.dmc fe) true [(0, 0), (3, 0)]).left ∧ (engState (opOf 7 (.dmc fe) true [(3, 0)])).cur.peerThere 3 = false ∧
    (let s := engState { opOf 7 (.upd fe) true [] with pairs := [(0x10000, 5, 0)] }
     s.cur.core.pairsOut[0]? = some (7, (0x10000, 5, 0)) ∧ spWf none s.cur.mem.l1 = true ∧ spWf none s.cur.mem.rdc = true ∧ spWf 0 s.cur.mem.vc = true) := by
  refine ⟨?_, ?_, by decide, by decide +kernel, by decide +kernel⟩
  · decide +kernel
  · exact ⟨rfl, rfl, by decide +kernel, ⟨_, rfl, by decide +kernel⟩, by decide +kernel⟩
theorem test_meets_phaseKept : memSound (phaseState []).cur.mem false ∧ l2Kept (phaseState []).cur.mem false :=
  ⟨sound_of _ (by decide +kernel), test_meets_l2Kept⟩

/-! ## What engine operations read and write -/

/-- `readsWell` and `padRuns` as computations. -/
def readsB (m : Mach) (l : List Run) : Bool := (cuts l).all fun r => match m.engPlace r.1 .read with
  | (.ok (.pad key), none) => !m.quad.poisoned key r.2
  | (.ok (.home pa leaf), none) => m.mem.bins.isEmpty && !(m.mem.homeRead (effComp (leafComp leaf) (pa / 128)) (pa / 128)).2
  | _ => false
theorem reads_of {m : Mach} {l : List Run} (h : readsB m l = true) : readsWell m l := by
  intro r hr
  have := (List.all_eq_true.mp h) r hr
  unfold pieceWell
  generalize m.engPlace r.1 .read = q at this ⊢
  rcases q with ⟨_ | ⟨_ | _⟩, _ | _⟩ <;> simp_all
/-- Runs that follow one another do not meet. -/
def rises : List Run → Bool
  | a :: b :: l => decide (a.1 + a.2 ≤ b.1) && rises (b :: l)
  | _ => true
theorem rises_apart : ∀ l : List Run, rises l = true → l.Pairwise fun a b => a.1 + a.2 ≤ b.1 ∨ b.1 + b.2 ≤ a.1 := by
  have key : ∀ l : List Run, rises l = true → l.Pairwise fun a b => a.1 + a.2 ≤ b.1 := by
    intro l
    induction l with
    | nil => exact fun _ => .nil
    | cons a l ih =>
      intro h
      cases l with
      | nil => simp
      | cons b l =>
        simp only [rises, Bool.and_eq_true, decide_eq_true_eq] at h
        have hl := ih h.2
        refine .cons (fun c hc => ?_) hl
        rcases List.mem_cons.mp hc with rfl | hc
        · exact h.1
        · have := List.rel_of_pairwise_cons hl hc
          omega
  exact fun l h => (key l h).imp .inl
def padsB (m : Mach) (l : List Run) : Bool :=
  ((cuts l).all fun r => inWindow r.1 && match m.engPlace r.1 .write with
    | (.ok (.pad key), none) => key == r.1 - qbase
    | _ => false) && rises (cuts l)
theorem pads_of {m : Mach} {l : List Run} (h : padsB m l = true) : padRuns m l := by
  simp only [padsB, Bool.and_eq_true, List.all_eq_true] at h
  refine ⟨fun r hr => ⟨(h.1 r hr).1, ?_⟩, rises_apart _ h.2⟩
  have := (h.1 r hr).2
  split at this
  · next e => rw [e, beq_iff_eq.mp this]
  · cases this

/-- A shape: base, bytes of a row, rows and their stride, and the distance of what stands beside it. -/
def shape (b n0 n1 stride : Nat) (beside : Nat := 0) : List (BitVec 32) :=
  [BitVec.ofNat 32 b, BitVec.ofNat 32 (b / 2 ^ 32), BitVec.ofNat 32 n0, BitVec.ofNat 32 n1, 1, BitVec.ofNat 32 stride, 0, BitVec.ofNat 32 beside]
/-- The own scratchpad with bytes in it; sector 0x200 is dirty in the die L2, and its page is at hand for core and engines. -/
def dataState : State := (padState 0).setCur fun m => { m with
  quad := { m.quad with sp := [(3, 5), (64, 1), (70, 2), (129, 0x3F), (4096, 1), (8192, 2), (8200, 1)] }
  mem := recMem0 0x200
  tlb := [⟨some 0, 1, 0, 0x10C07⟩]
  l2tlb := [(0, ⟨some 0, 1, 0, 0x10C07⟩)] }
/-- Fields that name the shapes s, d, x. -/
def fieldsOf (s d x : Nat) (low : Nat := 0) : FE := { fe with arg := BitVec.ofNat 21 (s * 2 ^ 19 + d * 2 ^ 17 + x * 2 ^ 15 + low) }
def shapedOp (i : FE → Instr) (f : FE) (l : List (List (BitVec 32))) : EngOp := { opOf 7 (i f) true [] with shapes := l }

/-- A write of four bytes inside a sector at its home. -/
theorem test_meets_engineWritesHome : inWindow 0x10004 = false ∧
    dataState.cur.engPlace 0x10004 .write = (.ok (.home 0x10004 0x10C07), none) ∧ 0x10004 % 128 + [(1 : Byte), 2, 3, 4].length ≤ 128 ∧
    dataState.cur.mem.bins = [] ∧ present (0x10004 / 128 * 128) = true ∧ effComp (leafComp 0x10C07) (0x10004 / 128) = false ∧
    memSound dataState.cur.mem false ∧ l2Sound dataState.cur.mem false ∧ shown false (0x10004 / 128) ∧
    spWf none dataState.cur.mem.l1 = true ∧ spWf none dataState.cur.mem.rdc = true :=
  ⟨by decide +kernel, rfl, by decide, rfl, by decide +kernel, by decide +kernel, sound_of _ (by decide +kernel), .inl (by decide +kernel),
    shown_plain _, by decide +kernel, by decide +kernel⟩

/-- Shapes of a copy from the scratchpad and from memory. -/
theorem test_meets_copyWrites : ∀ b ∈ [qbase, 0x10000], let a := shape b 64 2 128
    let d := shape (qbase + 10000) 64 2 128
    qS (shapedOp .dcpy (fieldsOf 0 1 0) [a, d]) (fieldsOf 0 1 0) = a ∧ qD (shapedOp .dcpy (fieldsOf 0 1 0) [a, d]) (fieldsOf 0 1 0) = d ∧
      shapeOk a ∧ shapeOk d ∧ shTotal a = shTotal d ∧ readsB dataState.cur (shRuns a) = true ∧ padsB dataState.cur (shRuns d) = true := by
  simp only [shapeOk]; decide +kernel
/-- A multicast to ranks 0 and 2, and one of its landings. -/
theorem test_meets_multicastWrites : let a := shape qbase 64 2 128
    let d : List (BitVec 32) := [10000, 0, 64, 2, 1, 128, 0, 0]
    let f := fieldsOf 0 1 0 (5 * 2 ^ 11)
    let o := { shapedOp .dmc f [a, d] with left := [(0, 0), (2, 0)], pairs := keepStream (plain (List.replicate 128 5)) }
    let s := dataState.setCore fun c => { c with status := .running, eng := [o] }
    (shapeOk a ∧ shAligned d = 0 ∧ shSize d = 0 ∧ shTotal a = shTotal d ∧ shF d 1 = 0 ∧ bits (shF d 7).toNat 3 1 = 0 ∧ f.arg.extractLsb' 11 4 ≠ 0) ∧
      (shF d 7).getLsbD 0 = false ∧ (∀ r ∈ shRunsAt (shF d 0).toNat d, 0 ≤ r.1 ∧ r.1 + r.2 ≤ 2 ^ 26) ∧
      s.cur.core.op? o.id = some o ∧ o.started = true ∧ (0, 0) ∈ o.left ∧ s.cur.peerThere 0 = true ∧
      padsB s.cur ((shRunsAt (shF d 0).toNat d).map fun r => (qbase + 0 * 2 ^ 26 + r.1.toNat, r.2)) = true := by
  simp only [shapeOk]; decide +kernel
/-- The bytes that the landing brings. -/
theorem test_meets_keptStream : keptStream (keepStream (plain (List.replicate 128 5))) = plain (List.replicate 128 5) := by decide +kernel
/-- Rows 2 and 0 of a table, and the list of them. -/
theorem test_meets_rowWrites : let tab := shape (qbase + 64) 8 3 40
    let packed := shape (qbase + 10000) 8 2 12
    let x := shape (qbase + 8192) 4 2 8
    let n := (shF x 3).toNat
    (shapeOk tab ∧ shapeOk packed ∧ (shF x 0).toNat % 4 = 0 ∧ runSide (shBase x, 4 * n) ≠ 9 ∧ shTotal packed = n * shN0 tab) ∧
      readsB dataState.cur [(shBase x, 4 * n)] = true ∧ numsOf 4 (bytesSeen dataState.cur [(shBase x, 4 * n)]) = [2, 0] ∧
      (∀ t ∈ [2, 0], t < shN1 tab ∧ readsB dataState.cur [tableRow tab t] = true ∧ padsB dataState.cur [tableRow tab t] = true) ∧
      padsB dataState.cur (shRuns packed) = true ∧ ∀ k ∈ spots [tableRow tab 2], k ∉ spots [tableRow tab 0] := by
  simp only [shapeOk]; decide +kernel
/-- Blocks of FP32 and of BF16, their codes, and the scales beside them; and a compressed block with its metadata. -/
theorem test_meets_blockWrites : (∀ b ∈ [(2, 4), (1, 2)], let n := b.1
    let a := shape qbase (32 * b.2) n 128
    let d := shape (qbase + 10000) 32 n 40 1000
    (shapeOk a ∧ shapeOk d ∧ shTotal d = 32 * n ∧ shTotal a = 32 * n * b.2 ∧ besideStatus d n = 0) ∧ readsB dataState.cur (shRuns a) = true ∧
      readsB dataState.cur (shRuns d) = true ∧ readsB dataState.cur [besideRun d n] = true ∧
      padsB dataState.cur (shRuns d ++ [besideRun d n]) = true ∧ padsB dataState.cur (shRuns a) = true) ∧
    let a := shape qbase 4096 1 4096
    let d := shape (qbase + 16384) 4096 1 4096 9000
    (shapeOk a ∧ shapeOk d ∧ shTotal a % 4096 = 0 ∧ shTotal d = shTotal a ∧ besideStatus d 1 = 0) ∧ readsB dataState.cur (shRuns a) = true ∧
      padsB dataState.cur (shRuns d ++ [besideRun d 1]) = true ∧ readsB dataState.cur (blockRuns d 0) = true ∧
      readsB dataState.cur [((besideRun d 1).1 + 0, 1)] = true := by
  simp only [shapeOk]; decide +kernel
/-- Metadata 0xFF stands for a block of zeros, whatever its slot. -/
theorem test_meets_expandBlock (b : List Byte) : expandBlock b 0xFF = some (List.replicate 4096 0) ∧
    (List.replicate 4096 (0 : Byte)).length = 4096 := ⟨rfl, List.length_replicate⟩

/-- The array with what `data` puts into its active plane and into the gradient image. -/
def arrayState (plane grad : List Host.Cell) : State := dataState.setCur fun m => { m with arr := { m.arr with plane0 := plane, grad := grad } }
/-- A valid grid row of degree 1 with two intervals: x0, 1/h, h, GCTL. -/
def gridRow (invh g : Nat) : List Host.Cell :=
  cellsWrite (cellsWrite (cellsWrite (cellsWrite [] cellPart (natBytes 0x3F800000 4)) (cellPart + 4) (natBytes invh 4)) (cellPart + 8) (natBytes 0x3F000000 4))
    (cellPart + 12) (natBytes (0x80000000 + g) 4)

theorem test_meets_arrayWrites : Memory.wf (arrayState (gridRow 0x40000000 2) [(12, 5)]).cur.quad.sp = true ∧
    (∀ p ∈ [gridRow 0x40000000 2, gridRow 0x40000000 9, gridRow 0x7F7FFFFF 2, gridRow 0 2], arrClean (arrayState p [(12, 5)]).cur.arr) ∧
    badGrid (gridRow 0x40000000 2) = false ∧ validRows (gridRow 0x40000000 2) = [0] ∧ refuse (gridRec (gridRow 0x40000000 2) 0) = 0 ∧
    refuse (gridRec (gridRow 0x40000000 9) 0) = 0x41 ∧ refuse (gridRec (gridRow 0x7F7FFFFF 2) 0) = 0x40 ∧ badGrid (gridRow 0 2) = true ∧
    gradWord (arrayState [] [(12, 5)]).cur.arr 0 3 = 5 := by
  simp only [arrClean]; decide +kernel
theorem test_meets_arrayLoads : (∀ e ∈ [(0, planeSize), (cellPart, 2048)], let q := shape qbase e.2 1 0
    shapeOk q ∧ shTotal q = e.2 ∧ allOwn dataState.cur.core.rank (shRuns q) = true ∧ readsB dataState.cur (shRuns q) = true) ∧
    ∀ e ∈ [(2, gradSize), (1, planeSize), (0, planeSize)], let q := shape qbase e.2 1 0
    (fieldsOf 0 e.1 0).arg.extractLsb' 17 2 = BitVec.ofNat 2 e.1 ∧ shapeOk q ∧ shTotal q = e.2 ∧
      allOwn dataState.cur.core.rank (shRuns q) = true ∧ padsB dataState.cur (shRuns q) = true := by
  simp only [shapeOk]; decide +kernel
/-- MWLOAD's pieces: 3,072 whole sectors. -/
theorem test_meets_weightLoad : let q := shape 0x10000 cellPart 1 0
    let l : List (Nat × Word × Nat) := List.replicate 3072 (0x10000, 0x10413, 128)
    shapeOk q ∧ shTotal q = cellPart ∧ dataState.cur.mem.bins = [] ∧ (l.map fun p => p.2.2).sum = cellPart ∧
      ∀ p ∈ l, p.1 % 128 + p.2.2 ≤ 128 ∧
        (dataState.cur.mem.sideRead (effComp (leafComp p.2.1) (p.1 / 128)) (p.1 / 128)).2 = false := by
  refine ⟨by simp only [shapeOk]; decide +kernel, by decide +kernel, rfl, by rw [List.map_replicate, List.sum_replicate]; rfl, fun p h => ?_⟩
  rw [List.eq_of_mem_replicate h]
  decide +kernel

/-- Streams of two samples of a routine, each in its place; for a gathered one the indices too. -/
def streamState : State := arrayState (gridRow 0x40000000 2) []
def sampleOp (ins : FE → Instr) (f : FE) : EngOp :=
  { shapedOp ins f [shape qbase 2048 2 2048, shape (qbase + 0x10000) 2048 2 2048, shape (qbase + 0x20000) 2048 2 2048,
      shape (qbase + 0x30000) 4 2 4] with pairs := [(1, 0, 0), (7, 0, 0)] }
theorem test_meets_sampleWrites : ∀ ridx ∈ [0, 1, 2, 3, 7, 8, 9, 10, 11], ∀ low ∈ [0, 2 ^ 14, 2 ^ 13], ∀ n ∈ [0, 1],
    let f : FE := { fe with arg := BitVec.ofNat 21 (ridx * 2 ^ 15 + low), fmt := if ridx = 8 then 3 else 1 }
    let o := sampleOp .fmat f
    let e : Eng := ⟨streamState.cur, 0, 0⟩
    let st := streamsOf f.ridx f.fmt.toNat
    let r := if f.gath then (o.pairs.getD n (0, 0, 0)).1 else n
    f.ridx = ridx ∧ Memory.wf e.m.quad.sp = true ∧ (f.gath = true ∧ n = 1 ∨ r < (shF (o.sh 0) 3).toNat) ∧
      (r < (shF (o.sh 0) 3).toNat → readsB e.m [rowRunOf (o.sh 0) r st.x] = true) ∧
      (st.g.isSome = true → r < (shF (o.sh 0) 3).toNat → readsB e.m [rowRunOf (o.sh 2) (if ridx = 8 then r else n) (st.g.getD 0)] = true) ∧
      (st.out.isSome = true → readsB e.m [rowRunOf (o.sh 1) n (st.out.getD 0)] = true ∧ padsB e.m [rowRunOf (o.sh 1) n (st.out.getD 0)] = true) := by
  decide +kernel
/-- A routine whose streams pass, over a grid that passes and over one that does not. -/
theorem test_meets_sampleRuns : let f : FE := { fe with fmt := 1 }
    let o := { opOf 7 (.fmat f) true [] with shapes := [shape qbase 256 2 256, shape (qbase + 0x10000) 512 2 512, [], []] }
    o.ins ∈ samplers.map (· f) ∧ worse (preStreams streamState.cur.core.rank o f) (if isSpline f.ridx ∧ badGrid (streamState.cur.arr.plane false) then 0x40 else 0) = 0 ∧
      arrClean streamState.cur.arr ∧ badGrid ((arrayState (gridRow 0 2) []).cur.arr.plane false) = true ∧ isSpline f.ridx = true := by
  simp only [arrClean, samplers]; decide +kernel

/-- A page of updates, at hand for the engines; the context may hold entry 0 and the region. -/
def updState (regions : Sp (Option Region)) (p : List PRegion) : State := dataState.setCur fun m => { m with
  l2tlb := [(0, ⟨some 0, 1, 0, 0x10C47⟩)]
  core := { m.core with launch := 3, inst := 2, regions := regions }
  mem := { m.mem with pregions := p } }
theorem test_meets_regionWrites : (∀ e ∈ [0, 1], let s := updState (if e = 0 then [] else [(0, some ⟨0x10000, 0x1000, 5, false⟩)]) [⟨0, 0x10000, 0x1000, 5, [(9, 9)]⟩]
    spWf none s.cur.core.regions = true ∧ spGet none s.cur.core.regions e = none ∧ (∀ k, k < e → spGet none s.cur.core.regions k ≠ none) ∧
      (∃ r ∈ s.cur.mem.pregions, r.same s.cur.core.vmid.toNat 0x10000 0x1000 5 = true) ∧ (0x10000 : Word).toNat % 512 = 0 ∧ 0x1000 % 512 = 0 ∧
      0x1000 / oprEs 5 ≤ 2 ^ 32 - 1 ∧ inWindow 0x10000 = false ∧ inHbm 0x10000 = true ∧
      s.cur.translate s.cur.core.vmid.toNat 0x10000 .region (.die s.cur.core.die) = (.ok 0x10C47 0x10000, none)) ∧
    (∀ va, (0x10000 : Word).toNat ≤ va → va < (0x10000 : Word).toNat + 0x1000 → (va = (0x10000 : Word).toNat ∨ va % 65536 = 0) → va = 0x10000) ∧
    (let l : Sp (Option Region) := (List.range 256).map fun k => (k, some ⟨0x10000, 0x1000, 5, false⟩)
     ∀ k, k < 256 → spGet none l k ≠ none) := by
  refine ⟨by decide +kernel, fun va h1 h2 h => ?_, by decide +kernel⟩
  have e : (0x10000 : Word).toNat = 0x10000 := rfl
  rw [e] at h1 h2 h
  omega
/-- UREL with a bin of the region, and without; a pair's index that skips, one past the region, and the last in it. -/
theorem test_meets_regionEnds : spWf none (updState [(0, some ⟨0x10000, 0x1000, 5, true⟩)] []).cur.core.regions = true ∧
    (updState [] []).cur.mem.bins = [] ∧ (∀ i ∈ [0xFFFFFFFF, 0x400, 0x3FF], let s := (updState [] []).setCur fun m => { m with quad := { m.quad with sp := cellsWrite [] 64 (natBytes i 4) } }
      let run (a : Nat) : List Run := joinRuns (((List.range 4).map (a + ·)).map fun a => (a, 1))
      readsB s.cur (run (qbase + 64)) = true ∧ readsB s.cur (run (qbase + 128)) = true ∧ bytesNat (bytesSeen s.cur (run (qbase + 64))) = i ∧
        (i = 0x3FF → s.cur.translate s.cur.core.vmid.toNat (0x10000 + i * oprEs 0) .region (.die s.cur.core.die) =
          (.ok 0x10C47 (0x10000 + i * oprEs 0), none))) ∧ 0x1000 / oprEs 0 = 0x400 ∧
    present (0x10004 / 128 * 128) = true ∧ base.cur.mem.l2 = [] ∧ 0x10004 % oprEs 0 = 0 ∧ (base.cur.mem.homeRead false (0x10004 / 128)).2 = false := by
  decide +kernel
theorem test_meets_regionSound : memSound base.cur.mem false := sound_of _ (by decide +kernel)

/-- A shape over the dirty sector and its line, and one in the window. -/
theorem test_meets_cacheOps : let q := shape 0x10000 64 2 128
    (shapeOk q ∧ shapeOk (shape qbase 64 2 128)) ∧ (cuts (shRuns q)) = [(0x10000, 64), (0x10080, 64)] ∧
      dataState.cur.engPlace 0x10000 .read = (.ok (.home 0x10000 0x10C07), none) ∧
      dataState.cur.engPlace 0x10080 .read = (.ok (.home 0x10080 0x10C07), none) ∧ 0x400 / 8 = 0x10000 / 512 ∧
      (∀ r ∈ cuts (shRuns (shape qbase 64 2 128)), inWindow r.1 = true) ∧ dataState.cur.mem.bins = [] ∧ dataState.cur.mem.l2 = (recMem0 0x200).l2 := by
  simp only [shapeOk]
  exact ⟨by decide +kernel, by decide +kernel, rfl, rfl, by decide, by decide +kernel, rfl, rfl⟩

/-! ## A device's record at the address that the model leaves open

The table of virtual devices stands at Config.vdevTable, which nothing knows. These states hold device 0's record there, and
page tables and a ring at a place that does not meet it. -/

/-- A sector of L2 that holds a number. -/
def lit (pa x : Nat) : Nat × Option Sector := (ckey false (pa / 128), some ⟨BitVec.ofNat 1024 x, false, 0, false, 0, 0, false⟩)

/-- 128 bytes around a record at B, the j-th sector from the record's own. -/
def recBytes (B : Nat) (r : Nat → Byte) (j : Nat) : List Byte := (List.range 128).map fun i => r (128 * j + i - B % 128)
@[simp] theorem recBytes_length (B : Nat) (r : Nat → Byte) (j : Nat) : (recBytes B r j).length = 128 := by simp [recBytes]
def recSector (B : Nat) (r : Nat → Byte) (j : Nat) : Nat × Option Sector :=
  (ckey false (B / 128 + j), some ⟨rowOf (recBytes B r j), true, 0, false, 0, 0, false⟩)

/-- The record stands in the die L2 after the literal sectors, or, where it lies below them, in the memory-side cache. -/
def recMem (B : Nat) (lits : List (Nat × Option Sector)) (r : Nat → Byte) (low : Bool := false) : Mem :=
  let l := [recSector B r 0, recSector B r 1, recSector B r 2]
  { Mach.reset.mem with l2 := lits ++ if low then [] else l, msc := if low then l else [] }

/-- The literal sectors do not meet the record's. -/
def apart (B : Nat) (lits : List (Nat × Option Sector)) : Prop := ∀ e ∈ lits, e.1 < 2 * (B / 128) ∨ 2 * (B / 128 + 2) < e.1

theorem spGet_append_apart (lits tail : List (Nat × Option Sector)) (k : Nat) (h : ∀ e ∈ lits, e.1 ≠ k) :
    spGet none (lits ++ tail) k = spGet none tail k := by
  induction lits with
  | nil => rfl
  | cons e t ih =>
    have h1 := h e (by simp)
    simp only [List.cons_append, spGet]
    rw [if_neg (Ne.symm h1)]
    exact ih fun x hx => h x (by simp [hx])

theorem recMem_homeRead (B : Nat) (lits : List (Nat × Option Sector)) (r : Nat → Byte) (low : Bool) (h : apart B lits) (j : Nat) (hj : j < 3) :
    (recMem B lits r low).homeRead false (B / 128 + j) = (rowOf (recBytes B r j), false) := by
  have hn : ∀ e ∈ lits, e.1 ≠ ckey false (B / 128 + j) := fun e he => by
    have := h e he
    simp only [ckey, if_neg (by decide : ¬(false = true))]
    omega
  have hl : spGet none [recSector B r 0, recSector B r 1, recSector B r 2] (ckey false (B / 128 + j)) = (recSector B r j).2 := by
    have : j = 0 ∨ j = 1 ∨ j = 2 := by omega
    rcases this with rfl | rfl | rfl <;> simp [spGet, recSector, ckey]
  cases low with
  | false =>
    have hk : spGet none (recMem B lits r false).l2 (ckey false (B / 128 + j)) = (recSector B r j).2 := by
      rw [← hl]; exact spGet_append_apart lits _ _ hn
    simp only [Mem.homeRead, hk, recSector]
  | true =>
    have hk : spGet none (recMem B lits r true).l2 (ckey false (B / 128 + j)) = none := spGet_append_apart lits [] _ hn
    have hm : spGet none (recMem B lits r true).msc (ckey false (B / 128 + j)) = (recSector B r j).2 := hl
    simp only [Mem.homeRead, Mem.sideRead, hk, hm, recSector]

/-- What the record's fields read as. -/
theorem recMem_num (B : Nat) (lits : List (Nat × Option Sector)) (r : Nat → Byte) (low : Bool) (h : apart B lits) (off n : Nat) (ho : off < 128) (hn : n ≤ 8) :
    (recMem B lits r low).num (B + off) n = bytesNat ((List.range n).map fun k => r (off + k)) := by
  have hq : (B + off) / 128 = B / 128 + (B % 128 + off) / 128 := by omega
  have h1 := recMem_homeRead B lits r low h ((B % 128 + off) / 128) (by omega)
  have h2 := recMem_homeRead B lits r low h ((B % 128 + off) / 128 + 1) (by omega)
  have hs : n / 128 + 2 = 2 := by omega
  have ht : (recMem B lits r low).touch (B + off) n = recMem B lits r low := rfl
  simp only [Mem.num, Mem.load, ht, Mem.homeBytes, hq, hs]
  congr 1
  simp only [List.range_succ, List.range_zero, List.nil_append, List.cons_append, List.map_cons, List.map_nil, Nat.add_zero, Nat.add_assoc] at h1 h2 ⊢
  simp only [h1, h2, rowBytes_rowOf _ (recBytes_length B r _), List.flatten_cons, List.flatten_nil, List.append_nil]
  apply List.ext_getElem
  · simp only [List.length_take, List.length_drop, List.length_append, recBytes_length, List.length_map, List.length_range]; omega
  · intro i hi _
    simp only [List.length_take, List.length_drop, List.length_append, recBytes_length] at hi
    simp only [List.getElem_take, List.getElem_drop, List.getElem_map, List.getElem_range]
    rw [List.getElem_append]
    split
    · next h => simp only [recBytes_length] at h; simp only [recBytes, List.getElem_map, List.getElem_range]; congr 1; omega
    · next h => simp only [recBytes_length] at h; simp only [recBytes_length]; simp only [recBytes, List.getElem_map, List.getElem_range]; congr 1; omega

/-- Group 1 of device 0, in the first entry of the module's table. -/
def groupMem : Mem := recMem Config.groupTable [] fun k => if k = 0 ∨ k = 5 then 1 else 0
theorem groupMem_dev : groupMem.groupDev 1 = some 0 := by
  have h (off n : Nat) (ho : off < 128) (hn : n ≤ 8) := recMem_num Config.groupTable [] (fun k => if k = 0 ∨ k = 5 then 1 else 0) false (by intro e he; cases he) off n ho hn
  have h0 : groupMem.num (Config.groupTable + 16 * 0) 4 = 1 := h 0 4 (by decide) (by decide)
  have h4 : groupMem.num (Config.groupTable + 16 * 0 + 4) 1 = 0 := h 4 1 (by decide) (by decide)
  have h5 : groupMem.num (Config.groupTable + 16 * 0 + 5) 1 = 1 := h 5 1 (by decide) (by decide)
  have he : groupMem.groupEntry 0 = some (1, 0) := by
    unfold Mem.groupEntry
    simp only [h0, h4, h5]
    decide
  unfold Mem.groupDev
  have hr : List.range 256 = 0 :: (List.range 255).map (· + 1) := by decide +kernel
  rw [hr, List.findSome?_cons, he]
  rfl

/-! ## Messages, Oasis cores -/

/-- An empty message of group 1 from endpoint 1, for this module's endpoint 0. -/
def msg : Message := ⟨1, 0, 0, 1, 0, 0, 0, 0, 0, 0, [], [], [], [], [], 0⟩
/-- An unstarted match of a CRECV for the message of endpoint 1. -/
def recvOp : EngOp := { opOf 7 (.crecvStore fe) true [(0, 0)] with vals := [1, 0, 0] }
def sendOp : EngOp := { opOf 7 (.csend fe) true [(0, 0)] with vals := [1, 0, 0] }
/-- Group 1 is registered, and the followed context belongs to it. -/
def groupState (o : EngOp) : State := (engState o).setCur fun m => { m with mem := groupMem }

/-- The context's message to itself is out, and waits where its frames stand: the peer has it, or the queue of link 0. -/
def outState (route : Option Nat) : State :=
  let o := { sendOp with left := [(1, 1)], pairs := (route.map fun n => (n, 0, 0)).toList }
  (engState o).setCur fun m => { m.setLink 0 { m.link 0 with queue := if route.isSome then [(7, [])] else [] } with
    coll := { m.coll with out := [(7, { msg with gid := m.gid, srcEp := m.core.inst })] } }

theorem test_meets_messages : (engState sendOp).cur.core.op? 7 = some sendOp ∧ maySend (engState sendOp).cur sendOp fe = true ∧
    base.cur.coll.out.find? (fun k => k.2 == { msg with notice := 0 }) = none ∧ base.cur.ours { msg with srcEp := 5 } = false ∧
    (∀ r ∈ [none, some 0], ∀ n ∈ [0, 0x60, 0x63, 0x64], let s := outState r
      let g : Message := { msg with gid := s.cur.gid, srcEp := s.cur.core.inst }
      let o := { sendOp with left := [(1, 1)], pairs := (r.map fun n => (n, 0, 0)).toList }
      s.cur.coll.out.find? (fun k => k.2 == { ({ g with notice := n } : Message) with notice := 0 } && s.cur.ours k.2) = some (7, g) ∧
        s.cur.core.op? 7 = some o ∧ s.cur.toSelf (o.vals.getD 0 0) = false ∧ earlierOn s.cur o 1 = [] ∧ s.cur.carried o = r.isNone) ∧
    crecvFE recvOp.ins = some (fe, 0) ∧
    (∀ n ∈ [0, 0x60, 0x63, 0x64], let g : Message := { msg with gid := base.cur.gid, notice := n }
     let s := (engState recvOp).setCur fun m => { m with coll := { m.coll with store := [g] } }
     s.cur.messageFor recvOp = some g ∧ ∀ e ∈ s.cur.coll.out, e.2 ≠ g) ∧
    recvOp.left = [(0, 0)] ∧ fits recvOp fe 0 0 = true ∧ (engState sendOp).cur.isHere 1 0 = false ∧
    (engState recvOp).cur.awaits { msg with gid := base.cur.gid } = true := by decide +kernel
/-- A CSEND of 128 INT8 elements with their scales beside them, and one of no scaled format. -/
theorem test_meets_messageData : ∀ fmt ∈ [3, 5], let f : FE := { fe with fmt := BitVec.ofNat 4 fmt }
    let o := { shapedOp .csend f [shape qbase 64 2 128 1000] with left := [(0, 0)], vals := [1, 0, 0] }
    let s := dataState.setCore fun c => { c with status := .running, eng := [o] }
    s.cur.core.op? 7 = some o ∧ maySend s.cur o f = true ∧ readsB s.cur (shRuns (o.sh f.qs)) = true ∧
      readsB s.cur [besideRun (o.sh f.qs) (shTotal (o.sh f.qs) / 32)] = true ∧ shTotal (o.sh f.qs) / 32 = 4 := by decide +kernel
/-- A message of a registered group is addressed to this module, and takes room for its bytes; a full store has none. -/
theorem test_meets_messageAccept : (groupState recvOp).cur.addressed msg = true ∧ (groupState recvOp).cur.coll.store = [] ∧
    msg.data.length + msg.scales.length ≤ Config.receiveStore ∧
    Config.receiveStore < 0 + (List.replicate (Config.receiveStore + 1) (0 : Byte)).length ∧
    (groupState recvOp).cur.awaits { msg with srcEp := 9 } = false := by
  have e : (groupState recvOp).cur.mem.groupDev msg.gid = some 0 := groupMem_dev
  refine ⟨?_, rfl, Nat.zero_le _, by simp, by decide +kernel⟩
  unfold Mach.addressed
  rw [e]
  rfl

def mvF (src dst : BitVec 13) : FMv := ⟨0, 0, src, dst, 0, if src = 0x1EFF then some 7 else none⟩
/-- `Moves` as a computation. -/
def movesB (f : FMv) (s : State) : Bool :=
  s.verdict != .done && (checkMove f).isNone && s.rd.oas.passes f && !s.rd.oas.waits f && !(f.src.toNat == 0x410 && s.rd.oas.poisonR.isSome)
theorem moves_of {f : FMv} {s : State} (h : movesB f s = true) : Moves f s := by
  simp only [movesB, Bool.and_eq_true, bne_iff_ne, Option.isNone_iff_eq_none, Bool.not_eq_true', Bool.and_eq_false_iff, beq_eq_false_iff_ne] at h
  obtain ⟨⟨⟨⟨h1, h2⟩, h3⟩, h4⟩, h5⟩ := h
  refine ⟨h1, h2, h3, h4, fun ⟨a, b⟩ => ?_⟩
  rcases h5 with h | h
  · exact h a
  · simp [h] at b

theorem test_meets_oasisMoves : (∀ n ∈ [0x000, 0x020, 0x03F, 0x040, 0x04F, 0x061, 0x067, 0x110, 0x310, 0x410, 0x710, 0x1EFF, 0x1F00, 0x1FFF],
    movesB (mvF (BitVec.ofNat 13 n) 0) base = true) ∧
    (∀ n ∈ [0x000, 0x020, 0x03F, 0x040, 0x04F, 0x061, 0x067, 0x100, 0x102, 0x300, 0x301, 0x401, 0x500, 0x700], movesB (mvF 0 (BitVec.ofNat 13 n)) base = true) ∧
    (∀ n ∈ triggerPorts, movesB (mvF 0x1FFF (BitVec.ofNat 13 n)) base = true) ∧
    spWf 0 base.cur.oas.o = true ∧ spWf 0 base.cur.oas.y = true ∧ spWf 0 base.cur.oas.opr = true := by decide +kernel
theorem test_moves : Moves (mvF 0x020 0x140) base := moves_of (by decide +kernel)

/-- O0 of the followed Oasis core holds an address, whose page is cached with R, W, A and D for its device. -/
def oasState (x : Word) : State := base.setCur fun m =>
  { m with oas := { m.oas with o := [(0, x)], opr := [(16, x.setWidth 512), (24, x.setWidth 512)] }, l2tlb := [(m.oas.die, ⟨some 0, 1, 0, 0x100C07⟩)] }

theorem test_meets_oasisTriggers : movesB (mvF 0x020 0x440) (oasState 0x10000) = true ∧ srcWord (oasState 0x10000) (mvF 0x020 0x440) = 0x10000 ∧
    (oasState 0x10000).cur.oasPlace 0x10000 .read = (.ok 0x100C07 0x100000, none) ∧ (oasState 0x10000).cur.oasPlace 0x10000 .write = (.ok 0x100C07 0x100000, none) ∧
    (oasState 0x10000).cur.oasPlace (2 ^ 52) .read = (.fault 0x20, none) ∧
    (base.setCur fun m => { m with l2tlb := [(m.oas.die, ⟨some 0, 1, 0, 0x10C07⟩)] }).cur.oasPlace 0x10000 .read = (.fault 0x38, none) ∧ 0x10000 % 65536 = 0 ∧ (oasState 0x10000).cur.oasPlace 0x10000 .range = (.ok 0x100C07 0x100000, none) ∧
    wordOperand (oasState 0x10000) 4 0 = 0x10000 ∧ wordOperand (oasState 0x10000) 6 0 = 0x10000 ∧ (0x10001 : Nat) % 8 ≠ 0 ∧
    rowsAgree 0x10000 0x10000 ∧ ¬rowsAgree 0x10000 0x10400 ∧ (wordOperand (oasState 0x10000) 4 1).toNat ≤ 63 ∧
    63 < (wordOperand (base.setOas fun o => { o with opr := [(17, 64)] }) 4 1).toNat ∧
    base.rd.oas.stack = [] ∧ 8 ≤ (base.setOas fun o => { o with stack := List.replicate 8 0 }).rd.oas.stack.length := by
  simp only [rowsAgree]; decide +kernel
/-- One operation under way at 0x10000, over a dirty sector in the die L2; the page of its stack is at hand, and a bin of its
device stands in its line. -/
def oasisState (p : OasOp) (bins : List Bin) : State := base.setCur fun m => { m with
  mem := { recMem0 0x200 with bins := bins }
  oas := { m.oas with num := 8, ops := [p], relFence := true }
  l2tlb := [(0, ⟨some 0, 1, 0, 0x10C07⟩)] }
def oasOp (unit op : Nat) : OasOp := ⟨unit, op, 0x10000, 0x100, 0x10000, 0x10000, 0x10C07, 5⟩
theorem test_meets_oasisResults : (base.setOas fun o => { o with flight := [⟨0, 0, 1, 3⟩] }).cur.oas.flight.find? (fun r => r.unit == 0 && r.left == 0) = some ⟨0, 0, 1, 3⟩ ∧
    (∀ e ∈ [(3, 0), (3, 1), (3, 2), (3, 3), (3, 4), (3, 5), (3, 6), (3, 7), (4, 0), (4, 1), (4, 2), (4, 3), (5, 0), (5, 1), (6, 0), (6, 1), (6, 2), (6, 3)],
      (oasisState (oasOp e.1 e.2) []).cur.oas.ready e.1 = some (oasOp e.1 e.2)) ∧ 0x10000 % 1024 = 0 ∧
    (let s := oasisState (oasOp 5 0) [⟨0x80, 0, 0, 0x10000, 0, [(0x10000, some 1)], 1, []⟩]
     (s.cur.mem.bins.filter fun b => b.vmid == s.cur.oas.vmid && inStack (s.cur.oas.num / 8) (b.line * 512) && lineMeets (s.cur.opRuns (oasOp 5 0)) b.line).length = 1) ∧
    lineMeets ((oasisState (oasOp 6 0) []).cur.opRuns (oasOp 6 0)) 0x80 = true ∧ lineMeets ((oasisState (oasOp 6 0) []).cur.opRuns (oasOp 6 0)) 0x81 = false ∧
    dramWf base.cur.mem ∧ present 0x10000 = true ∧ spWf 0 base.cur.oas.res = true ∧ spWf 0 base.cur.oas.bufs = true ∧
    spWf false base.cur.oas.bufPoison = true ∧ ((recMem0 0x200).homeRead false (0x10000 / 128)).2 = false ∧ spWf 0 base.cur.mem.vc = true ∧
    spWf [] base.cur.mem.relClk = true := by
  simp only [dramWf]; decide +kernel
/-- A fenced store releases, with nothing of the core's die on its way. -/
theorem test_meets_oasisReleases : releases (oasisState (oasOp 3 3) []) (oasOp 3 3) ∧ releases (oasisState (oasOp 6 3) []) (oasOp 6 3) ∧
    noneAway (oasisState (oasOp 3 3) []).cur.core ∧ ¬releases (oasisState (oasOp 3 0) []) (oasOp 3 0) ∧ memSound (oasisState (oasOp 3 3) []).cur.mem false ∧
    l2Kept (oasisState (oasOp 3 3) []).cur.mem false := by
  refine ⟨.inl ⟨rfl, by decide, by decide, rfl⟩, .inr ⟨rfl, by decide⟩, by simp only [noneAway]; decide +kernel, ?_, sound_of _ (by decide +kernel), test_meets_l2Kept⟩
  rintro (⟨-, h, -⟩ | ⟨h, -⟩) <;> exact absurd h (by decide)

/-- One group, of the core or of the Oasis core that is followed. -/
def placedOne (oasis : Bool) : Placed := ⟨1, 0, 0, 1, oasis, [], [], none, 0, 0⟩
def aLaunch : Launch := ⟨1, 0, false, List.replicate 128 0, smallKernel, [], .running, [], [], [], [], 0, false, 0, 0, false, (0x20000, false), (0x30000, false), none⟩
def placedState (oasis : Bool) (p : Placed → Placed) (l : Launch → Launch) : State :=
  base.setCur fun m => { m with
    core := { m.core with launch := 1, status := .ending }
    oas := { m.oas with launch := 1, status := .ending }
    disp := { m.disp with launches := [l aLaunch], placed := [p (placedOne oasis)] } }

theorem test_meets_refreshAndPreempt : (∃ p ∈ (base.setOas fun o => { o with ops := [⟨4, 1, 0x10000, 0, 0x300000, 0x300000, 0x10C07, 0⟩] }).cur.oas.ops,
      p.unit = 4 ∧ p.pa / 2 ^ 20 % 16 = 3) ∧
    let s := (placedState true id id).setOas fun o => { o with preempt := true, status := .running }
    s.cur.disp.groupOf s.cur.oas.num true = some (placedOne true) ∧ s.cur.oas.preempt = true ∧ s.cur.oas.status = .running ∧ s.cur.oas.ops = [] := by
  decide +kernel

/-! ## The sequencer, instances, links -/

theorem test_meets_sequencerCycles : (base.setCore fun c => { c with empties := 3 }).cur.core.empties = 3 ∧ (atLevel 1 base).cur.core.tlevel ≠ 0 ∧
    let p : Pending := ⟨0, clsXC, 0, true, true, 0, 0, 0, 0, 5, [⟨.s 5, 7⟩]⟩
    let s := base.setCore fun c => { c with bank0 := [p] }
    p ∈ s.cur.core.bank 0 ∧ (s.cur.core.bank 0).filter (·.slot == p.slot) = [p] ∧ (∀ q ∈ base.cur.core.bank 0, q.slot = 0 → (q.overdue && q.arrived) = false) := by
  decide +kernel
theorem test_meets_instancesEnd : (placedState false id id).cur.core.num < 144 ∧ (placedState false id id).cur.disp.groupOf 0 false = some (placedOne false) ∧
    (placedState false id id).cur.disp.launch? 1 = some aLaunch ∧ (placedState false id id).cur.core.eng = [] ∧ (placedState false id id).cur.core.busy = false ∧
    (placedState true id id).cur.disp.groupOf (placedState true id id).cur.oas.num true = some (placedOne true) ∧ (placedState true id id).cur.oas.ops = [] ∧
    (placedState false id fun l => { l with killed := true }).cur.disp.launch? 1 = some { aLaunch with killed := true } ∧
    (placedState false id id).cur.core.tlbinv = none ∧
    (let p := { placedOne false with size := 4 }
     let l := { aLaunch with packet := natBytes 16 128, unplaced := [1] }
     let s := placedState false (fun _ => p) fun _ => l
     s.cur.disp.groupOf 1 false = some p ∧ 1 ∉ p.retired ∧ 1 ∉ p.halted ∧ s.cur.disp.launch? p.launch = some l ∧ aLaunch.gang = false ∧ l.gang = true ∧
      1 ≠ s.cur.core.num) ∧
    let s := base.setCore fun c => { c with status := .running, lost := some 0x10000, thandler := 0x9000 }
    s.cur.core.lost = some 0x10000 ∧ s.cur.core.thandler ≠ 0 ∧ s.cur.core.empties = 0 ∧ s.cur.core.endDue = false := by decide +kernel

/-- Link 0 in a step of its training. -/
def linkState (l : Link → Link) : State := base.setCur fun m => m.setLink 0 (l (m.link 0))
def aFrame : Frame := ⟨0, 0, 0, 0, 0, [], []⟩
def aHello : Hello := ⟨0, 0, [], [], [], true, true⟩

theorem test_meets_linkFrames : (∀ e p, ¬opens (base.cur.link 0) aFrame e p) ∧ aFrame.ftype.toNat = 0 ∧
    (let l := (linkState fun l => { l with step := 6, win := { l.win with sinceAck := 3 }, unacked := [(0, aFrame)] }).cur.link 0
     l.step = 6 ∧ 0 < l.win.sinceAck ∧ l.next.sinceAck = 0 ∧ l.unacked ≠ []) ∧
    (let l := (linkState fun l => { l with step := 6, seq := 2 ^ 32 }).cur.link 0
     l.step = 6 ∧ l.seq = 2 ^ 32) ∧ (base.cur.link 0).step ≠ 6 :=
  ⟨fun e p h => absurd h.1 (by decide +kernel), by decide +kernel, by decide +kernel, by decide +kernel, by decide +kernel⟩
/-- A frame of a type with no payload, sealed under the keys that a link has for epoch 0. -/
def sealedFrame (l : Link) (ftype : BitVec 8) (seq : BitVec 64 := 0) : Frame :=
  let head : Frame := { aFrame with ftype := ftype, seq := seq }
  { head with tag := (aesSeal ((epochKeys l 0).take 32) (epochIv (epochKeys l 0) seq.toNat) (frameHead head) []).2 }
/-- What has been sealed opens again, here with no payload. -/
theorem aesOpen_seal (key iv ad : List Byte) : aesOpen key iv ad [] (aesSeal key iv ad []).2 = some [] := by
  have h (keys : List (List Byte)) : gcmStream keys iv [] = [] := rfl
  simp only [aesOpen, aesSeal, h, if_true]
theorem opens_sealed (l : Link) (ftype : BitVec 8) (seq : BitVec 64) (h : l.step = 6) (he : l.epochOf (sealedFrame l ftype seq) = some 0)
    (hw : (l.window 0).has seq.toNat = false) : opens l (sealedFrame l ftype seq) 0 [] :=
  ⟨h, he, hw, [], aesOpen_seal _ _ _, rfl⟩
theorem test_meets_opens : ∀ ftype : BitVec 8, let l := (linkState fun l => { l with step := 6 }).cur.link 0
    opens l (sealedFrame l ftype) 0 [] ∧ l.peerEpoch = 0 ∧ l.win.beyond = [] ∧ l.win.inOrder = [] ∧
      (sealedFrame l ftype).seq.toNat = l.win.cum ∧ l.win.sinceAck < 15 ∧ l.queue = [] :=
  fun ftype => ⟨opens_sealed _ ftype 0 (by decide +kernel) rfl (by decide +kernel), by decide +kernel, by decide +kernel, by decide +kernel,
    rfl, by decide +kernel, by decide +kernel⟩
/-- A frame of any kind that runs nine ahead. -/
theorem test_meets_opensAhead : ∀ ev ∈ frameEvents, let l := (linkState fun l => { l with step := 6 }).cur.link 0
    (sealedFrame l (BitVec.ofNat 8 ev.1) 9).ftype.toNat = ev.1 ∧ opens l (sealedFrame l (BitVec.ofNat 8 ev.1) 9) 0 [] ∧
      (l.window 0).cum + 8 < (9 : BitVec 64).toNat := by
  intro ev h
  refine ⟨?_, opens_sealed _ _ 9 (by decide +kernel) rfl (by decide +kernel), by decide +kernel⟩
  simp only [frameEvents, List.mem_cons, List.not_mem_nil, or_false] at h
  rcases h with rfl | rfl | rfl | rfl <;> rfl
/-- An epoch that is over by time. -/
theorem test_meets_epochSpent : epochSpent ((linkState id).setCur fun m => { m with ftime := 3600000000000 }) ((linkState id).cur.link 0) ∧
    ¬epochSpent (linkState id) ((linkState id).cur.link 0) := by simp only [epochSpent]; decide +kernel
theorem test_meets_linkTraining : (base.setCur fun m => { m with info := { m.info with isthMask := 1 } }).cur.linkUsable 0 = true ∧ base.cur.framed 0 = true ∧ (base.cur.link 0).step = 0 ∧ (base.cur.link 0).retired = false ∧ spWf none base.cur.links = true ∧
    (base.cur.link 0).failures < 7 ∧ 7 ≤ ((linkState fun l => { l with failures := 7 }).cur.link 0).failures ∧
    (let l := (linkState fun l => { l with step := 3 }).cur.link 0
     l.step = 3 ∧ l.peer = none ∧ aHello.reservedZero = true ∧ validChain aHello.chain = false) ∧
    (let l := (linkState fun l => { l with step := 3, peer := some aHello }).cur.link 0
     l.step = 3 ∧ l.peer = some aHello ∧ l.failures < 7 ∧ edVerify [] [] [] = false) ∧
    ((linkState fun l => { l with step := 5 }).cur.link 0).step = 5 ∧
    let s := (linkState fun l => { l with step := 6, unacked := [(0, aFrame)] }).setCur fun m => { m with ftime := 50000000 }
    (s.cur.link 0).step = 6 ∧ (s.cur.link 0).unacked ≠ [] ∧ (s.cur.link 0).ackedAt.toNat + 50000000 ≤ s.cur.ftime.toNat := by decide +kernel
/-- A CSEND whose frames went over the link that fails, one bound to it, a CRECV of its peer, and an operation that waits on no link. -/
def cutOp (i : Instr) (left : List (Nat × Nat)) (route : List Nat) : EngOp :=
  { opOf 7 i true left with vals := [0x100000001, 0, 0], pairs := route.map fun n => (n, 0, 0) }
def cutState (o : EngOp) : State := (engState o).setCur fun m => { m.setLink 0 { m.link 0 with step := 6, unacked := [(0, aFrame)] } with ftime := 50000000 }
theorem test_meets_linkFail : (∀ o ∈ [cutOp (.csend fe) [(1, 1)] [0], cutOp (.csend fe) [(0, 1)] [0], cutOp (.crecvStore fe) [(0, 0)] []],
      cutOff (cutState o) 0 o ∧ o ∈ (cutState o).cur.core.eng ∧ ((cutState o).cur.link 0).step = 6 ∧ ((cutState o).cur.link 0).unacked ≠ [] ∧
        ((cutState o).cur.link 0).ackedAt.toNat + 50000000 ≤ (cutState o).cur.ftime.toNat ∧ spWf none (cutState o).cur.links = true) ∧
    ¬cutOff (cutState (opOf 7 (.dcpy fe) true [])) 0 (opOf 7 (.dcpy fe) true []) := by
  simp only [cutOff]; decide +kernel

/-- Page tables of four levels at b + 0x1000, whose entry for 0x10000 maps it to 0x100000; the pointers to the rings and a
ring's header at b + 0x10000, with a TAIL, a HEAD of 0 and 64 slots. -/
def tabLits (b tail : Nat) : List (Nat × Option Sector) :=
  [lit (b + 0x1000) (b + 0x2001), lit (b + 0x1080) 0, lit (b + 0x2000) (b + 0x3001), lit (b + 0x2080) 0,
    lit (b + 0x3000) (b + 0x4001), lit (b + 0x3080) 0, lit (b + 0x4000) (0x10000F * 2 ^ 64), lit (b + 0x4080) 0,
    lit (b + 0x10000) 0x20100, lit (b + 0x10080) 0, lit (b + 0x10100) (tail + 6 * 2 ^ 128 + 2 ^ 136), lit (b + 0x10180) 0,
    lit (b + 0x10200) 0, lit (b + 0x10280) 0]

/-- Device 0's record: enabled, its tables and rings, and every other bit 1. -/
def recByte (b k : Nat) : Byte :=
  if k < 4 then (if k = 0 then 3 else 0)
  else if 8 ≤ k ∧ k < 16 then BitVec.ofNat 8 ((b + 0x1000) / 256 ^ (k - 8))
  else if 56 ≤ k ∧ k < 72 then BitVec.ofNat 8 (0x20000 / 256 ^ ((k - 56) % 8))
  else 0xFF

def tabMem (b tail : Nat) : Mem := recMem Config.vdevTable (tabLits b tail) (recByte b) (b != 0)

/-- The record, with the ring's page cached for every device, in the followed core's TLB and in the hub's. -/
def tabState (b tail : Nat) : State :=
  base.setCur fun m => { m with
    mem := tabMem b tail
    tlb := [⟨none, 2, 0, BitVec.ofNat 64 (b + 0x10C07)⟩]
    l2tlb := [(4, ⟨none, 2, 0, BitVec.ofNat 64 (b + 0x10C07)⟩)] }

/-- Where the tables may stand beside the record. -/
def tabBase : Nat := if Config.vdevTable < 2 ^ 30 then 2 ^ 31 else 0

theorem tab_apart (b tail : Nat) (h : b = tabBase) : (b = 0 ∨ b = 2 ^ 31) ∧ apart Config.vdevTable (tabLits b tail) := by
  have key : (b = 0 ∧ 2 ^ 30 ≤ Config.vdevTable) ∨ (b = 2 ^ 31 ∧ Config.vdevTable < 2 ^ 30) := by
    rw [h, tabBase]; split <;> omega
  refine ⟨by omega, fun e he => ?_⟩
  simp only [tabLits, lit, ckey, List.mem_cons, List.not_mem_nil, or_false, if_neg (by decide : ¬(false = true))] at he
  rcases key with ⟨rfl, h⟩ | ⟨rfl, h⟩ <;> rcases he with he | he | he | he | he | he | he | he | he | he | he | he | he | he <;>
    subst he <;> simp only <;> omega

theorem tab_vdev (b tail off n : Nat) (h : b = tabBase) (ho : off < 128) (hn : n ≤ 8) :
    (tabMem b tail).vdev 0 off n = bytesNat ((List.range n).map fun k => recByte b (off + k)) :=
  recMem_num _ _ _ _ (tab_apart b tail h).2 off n ho hn

theorem tab_enabled (b tail : Nat) (h : b = tabBase) : (tabState b tail).cur.enabledDev 0 = true := by
  have hv : (tabMem b tail).vdev 0 0 4 = 3 := by rw [tab_vdev _ _ _ _ h (by decide) (by decide)]; rfl
  have hf : (tabState b tail).cur.vflags 0 = 3 := hv
  simp only [Mach.enabledDev, hf]; decide

/-- The page tables name a leaf that permits a read, and none that permits what their leaf forbids. -/
theorem test_meets_translationEvents : ∃ s a leaf, let top (va : Nat) := (State.cur s).startTable s.cur.core.die 0 va
    let found (va : Nat) := (walkFrom s.cur.mem va (top va).1 (top va).2).leaf
    found 0x10000 = some (leaf, 0, a) ∧ denied .read leaf = none ∧ denied .weights leaf = some 0x21 ∧ found 0x20000 = none ∧
    ({ s with cur := { s.cur with pool := [⟨0, 2, .read, none, none⟩] } } : State).cur.pool = [⟨0, 0x20000 / 65536, .read, none, none⟩] ∧
    s.cur.boundWork = false ∧ inWindow 0x20000 = false := by
  refine ⟨tabState tabBase 0, tabBase + 0x4008, 0x10000F, ?_⟩
  obtain ⟨hb, -⟩ := tab_apart tabBase 0 rfl
  have hv : (tabMem tabBase 0).vdev 0 8 8 = tabBase + 0x1000 := by
    rw [tab_vdev _ _ _ _ rfl (by decide) (by decide)]
    rcases hb with h | h <;> rw [h] <;> rfl
  have ht (va : Nat) : (tabState tabBase 0).cur.startTable (tabState tabBase 0).cur.core.die 0 va = (4, tabBase + 0x1000) := by
    rw [← hv]; rfl
  simp only [ht]
  simp only [tabState, State.setCur]
  rcases hb with h | h <;> rw [h] <;> decide +kernel


theorem tab_masks (b tail off : Nat) (h : b = tabBase) (ho : off = 32 ∨ off = 72 ∨ off = 80) : (tabMem b tail).vdev 0 off 8 = 2 ^ 64 - 1 := by
  rw [tab_vdev _ _ _ _ h (by omega) (by decide)]
  rcases (tab_apart b tail h).1 with e | e <;> rw [e] <;> rcases ho with rfl | rfl | rfl <;> decide +kernel

theorem tab_rings (b tail off : Nat) (h : b = tabBase) (ho : off = 56 ∨ off = 64) : (tabMem b tail).vdev 0 off 8 = 0x20000 := by
  rw [tab_vdev _ _ _ _ h (by omega) (by decide)]
  rcases (tab_apart b tail h).1 with e | e <;> rw [e] <;> rcases ho with rfl | rfl <;> decide +kernel

/-- The header of queue 0's ring, of the host's and of the device's, with 1 packet or full. -/
theorem tab_ring (b : Nat) (h : b = tabBase) : ∀ tail ∈ [1, 64], ∀ q ∈ [0, 64],
    ((tabState b tail).cur.ring 0 q).2 = some (0x20100, natBytes (tail + 6 * 2 ^ 128 + 2 ^ 136) 64) := by
  have hb := (tab_apart b 0 h).1
  intro tail ht q hq
  have h1 := tab_masks b tail (if decide (64 ≤ q) then 80 else 72) h (by split <;> simp)
  have h2 := tab_rings b tail (if decide (64 ≤ q) then 64 else 56) h (by split <;> simp)
  have e : (tabState b tail).cur.mem = tabMem b tail := rfl
  unfold Mach.ring Mach.ringAt
  rw [e, h1, h2]
  clear h1 h2 e h
  revert tail q
  rcases hb with h | h <;> rw [h] <;> decide +kernel

/-- A packet stands first in queue 0 of device 0, of the host's queues or of the device's; `more` is what else stands in the
ring, as a number from its header on. -/
def bellState (q more : Nat) : State :=
  (tabState tabBase (1 + more)).setCur fun m => { m with disp := { m.disp with bells := [⟨0, q, 0x20100, 0, 0, 1⟩] } }

/-- The bits of a ring's flags and of a control packet in its first slot, from the header on. -/
def packetBits : Nat := 2 ^ 137 + 2 ^ 512 * (2 + 0x20200 * 2 ^ 192 + 0x20280 * 2 ^ 256)

/-- Packets whose TOKEN is misaligned, or beyond the address space; one with a reserved byte set. -/
def tokenOdd : Nat := 2 ^ 137 + 2 ^ 512 * (2 + 0x20201 * 2 ^ 192 + 0x20280 * 2 ^ 256)
def tokenFar : Nat := 2 ^ 137 + 2 ^ 512 * (2 + 2 ^ 60 * 2 ^ 192 + 0x20280 * 2 ^ 256)
def reservedSet : Nat := packetBits + 2 ^ 512 * 2 ^ 496

def bellCases : List Nat := [0, packetBits, 65, tokenOdd, tokenFar, reservedSet]
theorem bell_next : ∀ q ∈ [0, 64], ∀ more ∈ bellCases, (bellState q more).cur.nextBell = some ⟨0, q, 0x20100, 0, 0, 1⟩ := by
  intro q hq more hm
  have hb := (tab_apart tabBase 0 rfl).1
  have e : (bellState q more).cur.enabledDev 0 = true := tab_enabled tabBase (1 + more) rfl
  have hr : ((bellState q more).cur.vread 0 0x20100 64).2 = some (natBytes (1 + more + 6 * 2 ^ 128 + 2 ^ 136) 64) := by
    clear e
    unfold bellState
    revert q more
    rcases hb with h | h <;> rw [h] <;> decide +kernel
  have hs : (bellState q more).cur.serves ⟨0, q, 0x20100, 0, 0, 1⟩ = true := by
    unfold Mach.serves
    rw [e, hr]
    clear e hr
    revert q more
    decide +kernel
  have hl : (bellState q more).cur.disp.bells = [⟨0, q, 0x20100, 0, 0, 1⟩] := rfl
  simp only [Mach.nextBell, hl, List.filter, hs]; rfl

theorem test_meets_launchAcceptance : ∀ q ∈ [0, 64], ∃ b, (bellState q 0).cur.nextBell = some b ∧ b.vmid = 0 ∧
    (∃ ring, (ring = RingRef.host ∨ ring = .device) ∧ b.queue = 0 + (if ring = .host then 0 else 64)) ∧ (bellState q 0).cur.disp.elsewhere 1 0 = false := fun q hq =>
  ⟨⟨0, q, 0x20100, 0, 0, 1⟩, bell_next q hq 0 (by decide), rfl, by
    simp only [List.mem_cons, List.not_mem_nil, or_false] at hq
    rcases hq with rfl | rfl
    · exact ⟨.host, .inl rfl, rfl⟩
    · exact ⟨.device, .inr rfl, rfl⟩, rfl⟩

/-- A control packet in a system queue meets every check of acceptance; with a reserved byte set it fails the first. -/
theorem test_meets_launchAccepted : ∀ more ∈ [packetBits, reservedSet], let s := bellState 0 more
    let b : Bell := ⟨0, 0, 0x20100, 0, 0, 1⟩
    let h := natBytes (1 + more + 6 * 2 ^ 128 + 2 ^ 136) 64
    let packet := natBytes (more / 2 ^ 512) 128
    let r1 := s.cur.vread 0 b.ring 64
    let r2 := r1.1.vread 0 (slotAt b.ring (field h 16 1) (field h 8 8)) 128
    let r3 := r2.1.wordAt 0 (field packet 24 8)
    let r4 := r3.1.wordAt 0 (field packet 32 8)
    let m4 := (r4.1.vwrite 0 (b.ring + 8) (natBytes (field h 8 8 + 1) 8) .read).1
    let l := m4.launchFor b true packet (tabBase + 0x10200, false) (tabBase + 0x10280, false)
    (s.cur.nextBell = some b ∧ r1.2 = some h ∧ ahead (field h 8 8) (field h 0 8) ≤ 2 ^ field h 16 1 ∧ r2.2 = some packet ∧
      field packet 24 8 % 8 = 0 ∧ r3.2 = some (tabBase + 0x10200, false) ∧ r4.2 = some (tabBase + 0x10280, false) ∧
      (field h 17 1 / 2 % 2 == 1) = true ∧ l.1.kernel.nbufr + l.1.kernel.nbufw = 0 ∧ l.1.cgroup = 0) ∧
      (more = packetBits → acceptable m4 l.1 l.2 true) ∧ (more = reservedSet → failsWith m4 l.1 l.2 true 0x10) := by
  have hb := (tab_apart tabBase 0 rfl).1
  have hsub : ∀ x ∈ [packetBits, reservedSet], x ∈ bellCases := by decide +kernel
  intro more hm
  refine ⟨⟨bell_next 0 (.head _) more (hsub more hm), ?_, ?_, ?_, ?_, ?_, ?_, ?_, ?_, ?_⟩,
    fun e => ⟨⟨?_, ?_, ?_, ?_, ?_, ?_, ?_, ?_, ?_, .inl ⟨?_, ?_⟩⟩, fun h => absurd h ?_, ?_, fun h => absurd ?_ h⟩,
    fun e => .inl ⟨fun h => absurd h.2.1 ?_, rfl⟩⟩ <;>
    clear hsub <;> (try clear h) <;> (try unfold depthOk) <;> (try revert more) <;> (try unfold bellState) <;> rcases hb with h | h <;> (try rw [h]) <;> decide +kernel

/-- A ring that holds more than its slots. -/
theorem test_meets_ringOverfull : let h := natBytes (66 + 6 * 2 ^ 128 + 2 ^ 136) 64
    (bellState 0 65).cur.nextBell = some ⟨0, 0, 0x20100, 0, 0, 1⟩ ∧ ((bellState 0 65).cur.vread 0 0x20100 64).2 = some h ∧
      2 ^ field h 16 1 < ahead (field h 8 8) (field h 0 8) := by
  have hb := (tab_apart tabBase 0 rfl).1
  refine ⟨bell_next 0 (.head _) 65 (by decide +kernel), ?_, by decide +kernel⟩
  unfold bellState
  rcases hb with h | h <;> rw [h] <;> decide +kernel
/-- TOKENs that cannot be written. -/
theorem test_meets_tokenBad : ∀ more ∈ [tokenOdd, tokenFar], let s := bellState 0 more
    let h := natBytes (1 + more + 6 * 2 ^ 128 + 2 ^ 136) 64
    let packet := natBytes (more / 2 ^ 512) 128
    let r1 := s.cur.vread 0 0x20100 64
    let r2 := r1.1.vread 0 (slotAt 0x20100 (field h 16 1) (field h 8 8)) 128
    s.cur.nextBell = some ⟨0, 0, 0x20100, 0, 0, 1⟩ ∧ r1.2 = some h ∧ ahead (field h 8 8) (field h 0 8) ≤ 2 ^ field h 16 1 ∧
      r2.2 = some packet ∧ (field packet 24 8 % 8 = 0 → more = tokenFar) ∧ (more = tokenFar → (r2.1.wordAt 0 (field packet 24 8)).2 = none) := by
  have hb := (tab_apart tabBase 0 rfl).1
  have hsub : ∀ x ∈ [tokenOdd, tokenFar], x ∈ bellCases := by decide +kernel
  intro more hm
  refine ⟨bell_next 0 (.head _) more (hsub more hm), ?_, ?_, ?_, ?_, ?_⟩ <;> clear hsub <;>
    revert more <;> (try unfold bellState) <;> rcases hb with h | h <;> (try rw [h]) <;> decide +kernel

theorem test_meets_controlWindow : (∃ m hdr h, (tabState tabBase 1).cur.enabledDev 0 = true ∧ (tabState tabBase 1).cur.ring 0 0 = (m, some (hdr, h)) ∧
      field h 17 1 % 2 = 1 ∧ field h 18 1 = 0 ∧ ahead (field h 8 8) (field h 0 8) ≠ 0 ∧ ahead (field h 8 8) (field h 8 8) = 0) ∧
    (base.cur.info.state ≠ 1 ∨ base.cur.info.accepted = true) ∧ base.cur.info.imgstat ≠ 0xFF ∧
    (let s := base.setCur fun m => { m with info := { m.info with state := 1, accepted := false, imgstat := 0xFF, imgaddr := 1 } }
     s.cur.info.state = 1 ∧ s.cur.info.accepted = false ∧ s.cur.info.imgstat = 0xFF ∧ s.cur.info.imgaddr.toNat % 64 ≠ 0) ∧
    (base.setCur fun m => m.setDie 0 id).cur.up = true ∧ base.cur.info.imgstat ≠ 0xFF ∧ bytesNat (List.replicate 8 0) < 2 ^ 63 ∧ (∀ n ∈ [1, 125], bytesNat (natBytes n 2) = n) ∧
    ∀ c p, base.cur.admitted 0 c p = true ∨ base.cur.admitted 0 c p = false :=
  ⟨⟨_, _, _, tab_enabled tabBase 1 rfl, Prod.ext rfl (tab_ring tabBase rfl 1 (by decide) 0 (by decide)), by decide +kernel, by decide +kernel, by decide +kernel, by decide +kernel⟩, by decide +kernel, by decide +kernel,
    by decide +kernel, by decide +kernel, by decide +kernel, by decide +kernel, by decide +kernel, fun c p => by cases base.cur.admitted 0 c p <;> simp⟩

/-- QPUSH to queue 0 of a device's own rings, with room and without. -/
def pushState (tail : Nat) : State := withS 2 0x20200 (tabState tabBase tail)

theorem test_meets_qpush : ∀ tail ∈ [1, 64], let s := pushState tail
    let n := s.noteRead (.qpush fr)
    Runs (.qpush fr) s ∧ (s.opB fr).toNat ≤ 63 ∧ (n.rd.ringAt n.rd.core.vmid.toNat (s.opB fr).toNat true).2 = some 0x20100 ∧
      (∃ pl, n.rd.place (s.reg fr.ra).toNat 128 .read = (.ok pl, none)) ∧
      (∃ h, (n.rd.vread n.rd.core.vmid.toNat 0x20100 17).2 = some h ∧ ahead (field h 8 8) (field h 0 8) = tail ∧ 2 ^ field h 16 1 = 64) ∧
      s.rd.core.busy = false ∧ pushing s.rd.core = false ∧ s.rd.core.fenced = false := by
  have hb := (tab_apart tabBase 0 rfl).1
  intro tail ht
  have h1 := tab_masks tabBase tail 80 rfl (by simp)
  have h2 := tab_rings tabBase tail 64 rfl (by simp)
  have e : ((pushState tail).noteRead (.qpush fr)).rd.mem = tabMem tabBase tail := rfl
  have e0 : ((pushState tail).noteRead (.qpush fr)).rd.core.vmid.toNat = 0 := rfl
  have e1 : ((pushState tail).opB fr).toNat = 0 := rfl
  have hr : (((pushState tail).noteRead (.qpush fr)).rd.ringAt 0 0 true).2 = some 0x20100 := by
    unfold Mach.ringAt
    simp only [if_true]
    rw [e, h1, h2]
    clear h1 h2 e e0 e1
    unfold pushState
    revert tail
    rcases hb with h | h <;> rw [h] <;> decide +kernel
  simp only [e0, e1, hr, runs_iff]
  clear h1 h2 e e0 e1 hr
  unfold pushState
  refine ⟨?_, by decide, trivial, ?_, ?_, ?_⟩
  · revert tail; rcases hb with h | h <;> rw [h] <;> decide +kernel
  · refine ⟨.home (tabBase + 0x10200) (BitVec.ofNat 64 (tabBase + 0x10C07)), ?_⟩
    revert tail; rcases hb with h | h <;> rw [h] <;> decide +kernel
  · refine ⟨natBytes (tail + 6 * 2 ^ 128 + 2 ^ 136) 17, ?_⟩
    revert tail; rcases hb with h | h <;> rw [h] <;> decide +kernel
  · revert tail; rcases hb with h | h <;> rw [h] <;> decide +kernel

/-- Fewer distinct entries than entries. -/
theorem eraseDups_length_le : (l : List Nat) → l.eraseDups.length ≤ l.length
  | [] => Nat.le_refl _
  | a :: l => by
    rw [List.eraseDups_cons]
    exact Nat.succ_le_succ ((eraseDups_length_le _).trans (List.length_filter_le _ _))
  termination_by l => l.length
  decreasing_by exact Nat.lt_succ_of_le (List.length_filter_le _ _)

/-- The memory that holds the tables, the ring and the record is sound. -/
theorem tab_sound (tail : Nat) : memSound (tabMem tabBase tail) false := by
  have hb : (tabBase = 0 ∧ 2 ^ 30 ≤ Config.vdevTable) ∨ (tabBase = 2 ^ 31 ∧ Config.vdevTable < 2 ^ 30) := by
    simp only [tabBase]; split <;> omega
  have lits (b : Nat) : ∀ e ∈ tabLits b tail, e.2 ≠ none := by
    intro e he
    simp only [tabLits, lit, List.mem_cons, List.not_mem_nil, or_false] at he
    rcases he with he | he | he | he | he | he | he | he | he | he | he | he | he | he <;> subst he <;> simp
  have order (b : Nat) (h : b = 0 ∨ b = 2 ^ 31) : (tabLits b tail).Pairwise fun x y => x.1 < y.1 := by
    rcases h with rfl | rfl <;> simp [tabLits, lit, ckey]
  have recs (B : Nat) (r : Nat → Byte) : spWf none [recSector B r 0, recSector B r 1, recSector B r 2] = true := by
    simp [spWf, spAbove, recSector, ckey]
  unfold tabMem
  rcases hb with ⟨e, hv⟩ | ⟨e, hv⟩ <;> rw [e]
  · refine ⟨rfl, rfl, ?_, rfl, fun key c h => by cases h⟩
    show spWf none (tabLits 0 tail ++ _) = true
    rw [spWf_iff_cons]
    obtain ⟨r1, r2⟩ := (spWf_iff_cons _ _).mp (recs Config.vdevTable (recByte 0))
    refine ⟨fun x hx => ?_, List.pairwise_append.mpr ⟨order 0 (.inl rfl), r2, fun x hx y hy => ?_⟩⟩
    · rcases List.mem_append.mp hx with h | h
      · exact lits 0 x h
      · exact r1 x h
    · have h1 : x.1 < 2 ^ 20 := by
        simp only [tabLits, lit, ckey, List.mem_cons, List.not_mem_nil, or_false] at hx
        rcases hx with h | h | h | h | h | h | h | h | h | h | h | h | h | h <;> rw [h] <;> simp only [Bool.false_eq_true, if_false] <;> omega
      have h2 : 2 * (Config.vdevTable / 128) ≤ y.1 := by
        simp only [Bool.false_eq_true, if_false, recSector, ckey, List.mem_cons, List.not_mem_nil, or_false, bne_self_eq_false] at hy
        rcases hy with h | h | h <;> subst h <;> simp only <;> omega
      omega
  · refine ⟨rfl, rfl, ?_, ?_, fun key c h => ?_⟩
    · show spWf none (tabLits (2 ^ 31) tail ++ []) = true
      rw [spWf_iff_cons, List.append_nil]
      exact ⟨lits _, order _ (.inr rfl)⟩
    · exact recs _ _
    · replace h : spGet none [recSector Config.vdevTable (recByte (2 ^ 31)) 0, recSector Config.vdevTable (recByte (2 ^ 31)) 1,
        recSector Config.vdevTable (recByte (2 ^ 31)) 2] key = some c := h
      simp only [spGet, recSector, ckey, Bool.false_eq_true, if_false] at h
      have hk : ∃ j, j < 3 ∧ key = 2 * (Config.vdevTable / 128 + j) + 0 ∧ c.dirty = true := by
        split at h
        · exact ⟨0, by omega, by assumption, by rw [← Option.some.inj h]⟩
        · split at h
          · exact ⟨1, by omega, by assumption, by rw [← Option.some.inj h]⟩
          · split at h
            · exact ⟨2, by omega, by assumption, by rw [← Option.some.inj h]⟩
            · cases h
      obtain ⟨j, hj, rfl, hd⟩ := hk
      refine ⟨by simp, ?_, shown_plain _, fun hc => by rw [hd] at hc; cases hc⟩
      have := Nat.mul_div_le Config.vdevTable 128
      simp only [inHbm, hbmEnd]
      exact decide_eq_true (by omega)

/-- The ring's pages are at hand, and a packet's slot apart from the header. -/
theorem test_meets_qpushWrites : let s := pushState 1
    let leaf := BitVec.ofNat 64 (tabBase + 0x10C07)
    ringFound s.cur 0 0 0x20100 ∧ s.cur.mem.bins = [] ∧ s.rd.mem.bins = [] ∧ cached s.cur 0 0x20100 17 leaf (tabBase + 0x10100) ∧
      cached s.cur 0 (0x20100 + 64 + 128 * (1 % 64)) 128 leaf (tabBase + 0x101C0) ∧ effComp (leafComp leaf) ((tabBase + 0x101C0) / 128) = false ∧
      effComp (leafComp leaf) ((tabBase + 0x10100) / 128) = false ∧ memSound s.cur.mem false ∧ l2Sound s.cur.mem false ∧
      ∀ k ∈ [0x202, 0x203, 0x204], present ((tabBase / 128 + k) * 128) = true := by
  have hb := (tab_apart tabBase 0 rfl).1
  have h2 := tab_rings tabBase 1 64 rfl (by simp)
  have h1 := tab_masks tabBase 1 80 rfl (by simp)
  have e : (pushState 1).cur.mem = tabMem tabBase 1 := rfl
  have hr : ((pushState 1).cur.ringAt 0 0 true).2 = some 0x20100 := by
    unfold Mach.ringAt
    simp only [if_true]
    rw [e, h1, h2]
    clear h1 h2 e
    unfold pushState
    rcases hb with h | h <;> rw [h] <;> decide +kernel
  refine ⟨⟨hr, BitVec.ofNat 64 (tabBase + 0x10C07), tabBase + 0x10000, ?_⟩, rfl, rfl, ?_, ?_, ?_, ?_, tab_sound 1, .inl ?_, ?_⟩
  · rw [e, h2]
    simp only [cached]
    clear h1 h2 e hr
    unfold pushState
    rcases hb with h | h <;> rw [h] <;> decide +kernel
  all_goals
    clear h1 h2 e hr
    try simp only [cached]
    try unfold pushState
  · rcases hb with h | h <;> rw [h] <;> decide +kernel
  · rcases hb with h | h <;> rw [h] <;> decide +kernel
  · rcases hb with h | h <;> rw [h] <;> decide +kernel
  · rcases hb with h | h <;> rw [h] <;> decide +kernel
  · refine Nat.lt_of_le_of_lt ((eraseDups_length_le _).trans (Nat.le_of_eq (List.length_map _))) ?_
    show (tabLits tabBase 1 ++ if tabBase != 0 then [] else _ : Sp (Option Sector)).length < 1024
    split <;> simp [tabLits]
  · rcases hb with h | h <;> rw [h] <;> decide +kernel

/-! ## Launches and placement -/

/-- The launch waits, with its group 0 to place. -/
def waiting1 (level : Nat) (id : Nat) : Launch :=
  { aLaunch with id := id, state := .ready, unplaced := [0], packet := natBytes level 48 ++ natBytes 1 12 ++ natBytes 1 68 }

/-- Device 0 has credit, every quad and stack is usable, and one launch waits. -/
def waitState (level : Nat) (saved : List Saved) : State := (tabState tabBase 1).setCur fun m => { m with
  info := { m.info with quadMask := BitVec.allOnes 36, stackMask := BitVec.allOnes 16 }
  disp := { m.disp with launches := [waiting1 level 1], deficit := [(0, 5)], weight := [(0, 1)], serving := 1, saved := saved } }

/-- A saved group of the launch, main or Oasis. -/
def aSaved (oasis : Bool) : Saved :=
  ⟨1, 0, 0, [], if oasis then none else some Core.reset, none, if oasis then [] else [(0, 0)], [], [], [], if oasis then some Oasis.reset else none, []⟩

/-- What makes the launch the policy's choice, where its group fits. -/
theorem chosen_of (level : Nat) (saved : List Saved) (hf : (chargeAll (waitState level saved).cur).fit [] (waiting1 level 1) 0 = some 0)
    (h1 : (chargeAll (waitState level saved).cur).disp.launch? (chargeAll (waitState level saved).cur).disp.serving = some (waiting1 level 1))
    (h2 : (chargeAll (waitState level saved).cur).disp.waiting (waiting1 level 1) = true ∧
      (chargeAll (waitState level saved).cur).disp.served (waiting1 level 1).vmid = true) : chosen (waitState level saved) (waiting1 level 1) 0 0 := by
  have h3 : (waiting1 level 1).unplaced = 0 :: [] := rfl
  unfold chosen Mach.choice Mach.nextGroup
  simp only [h1, h2, h3, hf, and_self, if_true, Option.map_some]

theorem chosen_main (saved : List Saved) (h : saved = [] ∨ saved = [aSaved false]) : chosen (waitState 0 saved) (waiting1 0 1) 0 0 := by
  have hb := (tab_apart tabBase 1 rfl).1
  refine chosen_of 0 saved ?_ ?_ ?_
  · have e : (chargeAll (waitState 0 saved).cur).mem.vdev (waiting1 0 1).vmid 32 8 = 2 ^ 64 - 1 := tab_masks tabBase 1 32 rfl (by simp)
    unfold Mach.fit
    rw [e]
    clear e
    unfold waitState
    rcases h with h | h <;> rw [h] <;> rcases hb with h | h <;> rw [h] <;> decide +kernel
  · rcases h with h | h <;> rw [h] <;> rfl
  · rcases h with h | h <;> rw [h] <;> unfold waitState <;> rcases hb with h | h <;> rw [h] <;> decide +kernel

theorem chosen_oasis (saved : List Saved) (h : saved = [] ∨ saved = [aSaved true]) : chosen (waitState 1 saved) (waiting1 1 1) 0 0 := by
  have hb := (tab_apart tabBase 1 rfl).1
  refine chosen_of 1 saved ?_ ?_ ?_
  · have e : (chargeAll (waitState 1 saved).cur).mem.vdev (waiting1 1 1).vmid 40 2 = 2 ^ 16 - 1 := by
      show (tabMem tabBase 1).vdev 0 40 2 = _
      rw [tab_vdev _ _ _ _ rfl (by decide) (by decide)]
      rfl
    unfold Mach.fit
    rw [e]
    clear e
    unfold waitState
    rcases h with h | h <;> rw [h] <;> rcases hb with h | h <;> rw [h] <;> decide +kernel
  · rcases h with h | h <;> rw [h] <;> rfl
  · rcases h with h | h <;> rw [h] <;> unfold waitState <;> rcases hb with h | h <;> rw [h] <;> decide +kernel



theorem test_meets_groupsPlaced : chosen (waitState 0 []) (waiting1 0 1) 0 0 ∧ (waiting1 0 1).level = 0 ∧
    (chargeAll (waitState 0 []).cur).disp.saved? 1 0 = none ∧ 0 ≤ (waitState 0 []).cur.core.num ∧ (waitState 0 []).cur.core.num < 0 + (waiting1 0 1).gsize ∧
    chosen (waitState 1 []) (waiting1 1 1) 0 0 ∧ (waiting1 1 1).level = 1 ∧ (chargeAll (waitState 1 []).cur).disp.saved? 1 0 = none ∧
    0 = (waitState 1 []).cur.oas.num ∧ ∀ l g b, chosen (waitState 0 []) l g b → l.id ≠ 2 := by
  refine ⟨chosen_main [] (.inl rfl), rfl, rfl, by decide, by decide, chosen_oasis [] (.inl rfl), rfl, rfl, rfl, fun l g b h => ?_⟩
  have h1 := chosen_main [] (.inl rfl)
  unfold chosen at h h1
  rw [h1] at h
  injection h with h
  injection h with h
  rw [← h]; decide

theorem test_meets_groupsResume : chosen (waitState 0 [aSaved false]) (waiting1 0 1) 0 0 ∧
    (chargeAll (waitState 0 [aSaved false]).cur).disp.saved? 1 0 = some (aSaved false) ∧ (aSaved false).core = some Core.reset ∧
    (waiting1 0 1).level = 0 ∧ 0 ≤ Core.reset.num ∧ Core.reset.num < 0 + (waiting1 0 1).gsize ∧
    (0 = (aSaved false).base ∧ (∀ x ∈ (aSaved false).splits, ∀ k ∈ eighthsOf x.1 x.2, k ∈ (aSaved false).left) ∧
      ∀ r ∈ (waitState 0 [aSaved false]).cur.ranks 0 (waiting1 0 1).gsize, ∃ x ∈ (aSaved false).splits, x.1 = r) ∧
    chosen (waitState 1 [aSaved true]) (waiting1 1 1) 0 0 ∧ (waiting1 1 1).level = 1 ∧
    (chargeAll (waitState 1 [aSaved true]).cur).disp.saved? 1 0 = some (aSaved true) ∧ (aSaved true).oasis = some Oasis.reset ∧
    0 = (waitState 1 [aSaved true]).cur.oas.num :=
  ⟨chosen_main _ (.inr rfl), rfl, rfl, rfl, by decide, by decide, by decide +kernel, chosen_oasis _ (.inr rfl), rfl, rfl, rfl, rfl⟩

/-- The group of the followed core is asked to leave, and its context stands at a point of pre-emption. -/
def askedState (halted : List Nat) : State :=
  (placedState false (fun p => { p with preempt := some 0, halted := halted }) id).setCore fun c =>
    { c with status := .running, atPoint := true }

theorem test_meets_groupsPreempted :
    (let p := { placedOne false with preempt := some 0 }
     (askedState []).cur.core.num = 0 ∧ (askedState []).cur.disp.groupOf 0 false = some p ∧ 0 ∉ p.halted ∧ 0 ∉ p.retired ∧
      p.preempt.isSome = true ∧ (askedState []).cur.core.atHalt = true ∧ (placedOne false).preempt = none ∧
      (askedState []).cur.disp.placed? p.launch p.group = some p ∧ p.oasis = false ∧ p.stopped = false ∧
      (∃ q ∈ (askedState []).cur.disp.together p, q.stopped = false)) ∧
    let p := { placedOne false with preempt := some 0, halted := [0] }
    let s := (askedState [0]).setCore fun c => { c with kernel := some { smallKernel with livev := 5, livew := 2 } }
    s.cur.disp.placed? p.launch p.group = some p ∧ p.oasis = false ∧ p.covers s.cur.core.num = true ∧ s.cur.core.num ∈ p.halted ∧
      (∀ q ∈ s.cur.disp.together p, q.preempt.isSome = true ∧ q.stopped = true ∧ (q ≠ p → q.covers s.cur.core.num = false)) ∧
      s.cur.drained = true ∧ s.cur.mem.l2 = [] ∧ (liveMasks s.cur.core).1.getLsbD 2 = true ∧ (liveMasks s.cur.core).2.getLsbD 1 = true := by
  decide +kernel

theorem test_meets_otherMembers : ∀ oasis ∈ [true, false], let p := { placedOne oasis with size := 2, preempt := some 0 }
    let s := placedState oasis (fun _ => p) id
    s.cur.disp.groupOf 1 oasis = some p ∧ 1 ≠ (if oasis then s.cur.oas.num else s.cur.core.num) ∧ 1 ∉ p.halted ∧ 1 ∉ p.retired ∧ p.preempt.isSome = true := by
  decide +kernel

/-- Quad 0 alone is usable, and a group of another device without credit holds it. -/
def askingState : State := (waitState 0 []).setCur fun m => { m with
  ftime := 2 ^ 63
  info := { m.info with quadMask := 1 }
  disp := { m.disp with
    launches := [waiting1 0 1, { aLaunch with id := 2, vmid := 1 }], placed := [⟨2, 0, 0, 4, false, [], [], none, 0, 0⟩], chargedAt := 2 ^ 63 } }

theorem test_meets_coresAskedBack : let s := askingState
    let m := chargeAll s.cur
    let l := waiting1 0 1
    let p : Placed := ⟨2, 0, 0, 4, false, [], [], none, 0, 0⟩
    s.cur.disp.launch? 1 = some l ∧ m.disp.waiting l = true ∧ m.disp.served l.vmid = true ∧ l.state = .ready ∧
      Config.preemptDelay.toNat < (s.cur.ftime - l.readyAt).toNat ∧
      oneMakesRoom m l (fun q => ∃ k, s.cur.disp.launch? q.launch = some k ∧ (k.vmid ≠ l.vmid ∨ l.cls < k.cls)) p ∧
      oneMakesRoom m l (fun q => m.disp.vmidOf q.launch ≠ l.vmid ∧ m.disp.deficitOf (m.disp.vmidOf q.launch) ≤ 0 ∧
        Config.slice.toNat < (s.cur.ftime - q.placedAt).toNat) p := by
  have hb := (tab_apart tabBase 1 rfl).1
  have hf : (chargeAll askingState.cur).fit [] (waiting1 0 1) 0 = none ∧
      ((chargeAll askingState.cur).fit [⟨2, 0, 0, 4, false, [], [], none, 0, 0⟩] (waiting1 0 1) 0).isSome = true := by
    have e : (chargeAll askingState.cur).mem.vdev (waiting1 0 1).vmid 32 8 = 2 ^ 64 - 1 := tab_masks tabBase 1 32 rfl (by simp)
    unfold Mach.fit
    rw [e]
    clear e
    unfold askingState waitState
    rcases hb with h | h <;> rw [h] <;> decide +kernel
  have hp : (chargeAll askingState.cur).disp.placed = [⟨2, 0, 0, 4, false, [], [], none, 0, 0⟩] := rfl
  have ht : ∀ d : BitVec 48, d.toNat < (askingState.cur.ftime - 0).toNat := fun d =>
    Nat.lt_of_lt_of_le d.isLt (by have h : (askingState.cur.ftime - 0).toNat = 2 ^ 63 := by decide +kernel
                                  rw [h]; decide)
  have room (allowed : Placed → Prop) (h : allowed ⟨2, 0, 0, 4, false, [], [], none, 0, 0⟩) :
      oneMakesRoom (chargeAll askingState.cur) (waiting1 0 1) allowed ⟨2, 0, 0, 4, false, [], [], none, 0, 0⟩ := by
    refine ⟨0, rfl, hf.1, hf.2, ?_, ⟨?_, rfl, rfl, Nat.zero_le _, h⟩, ?_, ?_⟩
    · rw [hp]; simp
    · rw [hp]; simp
    · intro q hq hn
      have := hq.1
      rw [hp] at this
      exact absurd (by simpa using this) hn
    · unfold askingState waitState
      rcases hb with h | h <;> rw [h] <;> decide +kernel
  refine ⟨rfl, ?_, ?_, rfl, ht _, room _ ⟨{ aLaunch with id := 2, vmid := 1 }, rfl, .inl (by decide)⟩, room _ ⟨?_, ?_, ht _⟩⟩ <;>
    unfold askingState waitState <;> rcases hb with h | h <;> rw [h] <;> decide +kernel

/-- One launch, in a state of its life. -/
def lifeState (l : Launch → Launch) : State := base.setCur fun m => { m with disp := { m.disp with launches := [l aLaunch] } }

theorem test_meets_launchLife :
    (let l := { aLaunch with state := LaunchState.accepted }
     (lifeState fun _ => l).cur.disp.launch? 1 = some l ∧ l.state = .accepted ∧ ∀ d ∈ l.deps, ∀ x, (lifeState fun _ => l).cur.disp.launch? d = some x → x.done = true) ∧
    (let l := { aLaunch with state := LaunchState.ready, packet := natBytes 2 128 }
     (lifeState fun _ => l).cur.disp.launch? 1 = some l ∧ l.level = 2 ∧ l.state = .ready) ∧
    (let l := { aLaunch with state := LaunchState.draining }
     (lifeState fun _ => l).cur.disp.launch? 1 = some l ∧ (lifeState fun _ => l).cur.completion l = some (0x00, .complete) ∧
      l.done = false ∧ l.level ≠ 2 ∧ l.id = 1 ∧ (lifeState fun _ => l).cur.disp.doomed l = false ∧
      (lifeState fun _ => l).cur.disp.childless 1 = true ∧ (lifeState fun _ => l).cur.quiet 1 = true ∧ l.killed = false) ∧
    (let l := { aLaunch with killed := true, state := LaunchState.ready }
     (lifeState fun _ => l).cur.completion l = some (0x02, .killed) ∧ l.killed = true) ∧
    (let l := { aLaunch with state := LaunchState.ready, ancestors := [2], unplaced := [0] }
     let s := base.setCur fun m => { m with disp := { m.disp with launches := [{ aLaunch with id := 2, killed := true }, l] } }
     s.cur.disp.launch? 1 = some l ∧ l.done = false ∧ s.cur.disp.doomed l = true) ∧
    (let l := { aLaunch with state := LaunchState.ready }
     (lifeState fun _ => l).cur.disp.launch? 1 = some l ∧ (lifeState fun _ => l).cur.completion l = none) := by
  simp only [List.not_mem_nil, aLaunch, false_imp_iff, implies_true, and_true]
  decide +kernel

theorem test_meets_policyRounds : spWf 0 base.cur.disp.deficit = true ∧ (lifeState id).cur.disp.launch? 1 = some aLaunch ∧
    (∃ p ∈ (placedState false id id).cur.disp.placed, (placedState false id id).cur.disp.vmidOf p.launch = 0) ∧ base.cur.disp.launches = [] := by
  decide +kernel

theorem test_meets_trapEntry : base.rd.core.tlevel = 0 ∧ (base.setCore fun c => { c with thandler := 0x9000 }).rd.core.thandler ≠ 0 ∧
    (atLevel 1 base).rd.core.tlevel = 1 := by decide +kernel
theorem test_meets_faultKills : base.rd.core.tlevel = 0 ∧ base.rd.core.thandler = 0 ∧ (atLevel 2 base).rd.core.tlevel = 2 ∧
    (placedState false id id).rd.core.thandler = 0 ∧
    (placedState false id id).rd.disp.launch? (placedState false id id).rd.core.launch = some aLaunch ∧ aLaunch.killed = false ∧
    (let l := { aLaunch with killed := true }
     let s := placedState false id fun _ => l
     s.rd.disp.launch? s.rd.core.launch = some l ∧ ∀ n, l.killer = some (n, s.rd.cycle) → n ≤ s.rd.core.num) ∧
    let l := { aLaunch with killed := true, killer := some (5, base.rd.cycle) }
    let s := placedState false id fun _ => l
    s.rd.disp.launch? s.rd.core.launch = some l ∧ l.killer = some (5, s.rd.cycle) ∧ ¬ 5 ≤ s.rd.core.num := by
  simp only [aLaunch, reduceCtorEq, false_imp_iff, implies_true, and_true]
  decide +kernel
theorem test_meets_refusedEncodings : (slotOf (.add { fr with rd := 0, fn := 1 })).isSome = true ∧ base.reached ∧ base.rd.core.priv = false ∧
    base.rd.core.checks (.add { fr with rd := 0, fn := 1 }) = some 0x02 ∧
    base.rd.core.checks (.vadd .v0 { vf 0x00 3 0 with sa := 64 }) = some 0x06 ∧ check base.rd.core.priv (.vadd .v0 { vf 0x00 3 0 with sa := 64 }) = some 0x09 ∧
    base.rd.core.checks (.eret fr) = some 0x0D ∧ 0x100 ≤ FR.csrn { fr with ra := 8, rb := 0 } := by
  simp only [State.reached]; decide +kernel

/-! ## Objects -/

def sectBytes (type offset size : Nat) : List Byte :=
  natBytes 0 4 ++ natBytes type 1 ++ natBytes 0 3 ++ natBytes offset 8 ++ natBytes size 8 ++ natBytes 0 8

/-- An unsigned object of one kernel, a single empty bundle: the header, five sections, their contents (R92, R93). -/
def anObject : List Byte :=
  natBytes 0x4F4B4C46 4 ++ natBytes 1 4 ++ natBytes 128 4 ++ natBytes 0 4 ++ [1, 3, 4, 8, 14, 6, 2, 1] ++ natBytes 128 4 ++
    natBytes 5 4 ++ natBytes 0 96 ++ sectBytes 4 288 0 ++ sectBytes 1 288 4 ++ sectBytes 7 292 64 ++ sectBytes 8 356 0 ++
    sectBytes 11 356 96 ++ natBytes 0x8000 4 ++ (natBytes 0 4 ++ natBytes 1 8 ++ natBytes 4 4 ++ natBytes 0 48) ++ natBytes 0 96

theorem test_meets_objectsLoad :
    loadStatus (tabState tabBase 1).cur 0 anObject (placeFrom (0x20000 : Word).toNat (sects anObject)) = 0 ∧
    loadStatus base.cur 0 [] (placeFrom (0x20000 : Word).toNat (sects [])) = 1 ∧ field anObject 0 4 = 0x4F4B4C46 ∧
    (let b := natBytes 0x4F4B4C46 4 ++ natBytes 2 4
     field b 0 4 = 0x4F4B4C46 ∧ field b 4 2 ≠ 1) := by
  refine ⟨?_, by decide +kernel, by decide +kernel, by decide +kernel⟩
  have hv : (tabMem tabBase 1).vdev 0 0 4 = 3 := by rw [tab_vdev _ _ _ _ rfl (by decide) (by decide)]; rfl
  have hf : (tabState tabBase 1).cur.vflags 0 = 3 := hv
  have hs : badSignature (tabState tabBase 1).cur 0 anObject = none := by
    unfold badSignature
    rw [hf]
    have h1 : bytesNat (bytesOfType anObject 11) = 0 := by decide +kernel
    have h2 : objPriv anObject = false := by decide +kernel
    simp only [h1, h2]; decide
  have hi : (tabState tabBase 1).cur.images = [] := rfl
  unfold loadStatus
  rw [hs, hi]
  decide +kernel

/-! ## Health -/

def dieState (f : Die → Die) : State := base.setCur fun m => m.setDie 0 f

theorem test_meets_fabricAccesses : base.cur.up = false ∧ inWindow (0xFFFFFF0000000 : Word).toNat = true ∧ inWindow (0x20000 : Word).toNat = false ∧
    0x20000 % 65536 + 8 ≤ 65536 ∧
    (let s := (tabState 0 1).setCur fun m => m.setDie 0 id
     s.cur.up = true ∧ s.cur.translate 0 0x20000 .read (.die 4) = (.ok 0x10C07 0x10000, none) ∧
      s.cur.translate 0 0x20000 .token (.die 4) = (.ok 0x10C07 0x10000, none) ∧ s.cur.mem.bins = [] ∧ spWf [] s.cur.mem.relClk = true) ∧
    (let s := base.setCur fun m => { m.setDie 0 id with l2tlb := [(4, ⟨none, 2, 0, 0x10C01⟩)] }
     s.cur.up = true ∧ s.cur.translate 0 0x20000 .read (.die 4) = (.fault 0x21, none) ∧
      s.cur.translate 0 0x20000 .token (.die 4) = (.fault 0x21, none)) := by decide +kernel

/-- Bring-up has come to the links, of which one is left to train or none. -/
theorem test_meets_bringUp :
    (let s := dieState id
     s.cur.up = true ∧ s.cur.info.state = 0 ∧ ∀ n, n < 36 → s.cur.linkUsable n = true → s.cur.framed n = true → (s.cur.link n).step = 6) ∧
    let s := base.setCur fun m => { m.setDie 0 id with info := { m.info with isthMask := 1 } }
    s.cur.up = true ∧ s.cur.info.state = 0 ∧ s.cur.linkUsable 0 = true ∧ s.cur.framed 0 = true ∧ (s.cur.link 0).step ≠ 6 := by decide +kernel

theorem test_meets_heatAndPower : spWf none base.cur.dies = true ∧
    (let s := dieState fun d => { d with retest := true }
     (s.cur.health 0).retest = true ∧ (s.cur.health 0).testing = false ∧ s.cur.dieEmpty 0 = true ∧ spWf none s.cur.dies = true) ∧
    (placedState false id id).cur.dieEmpty 0 = false ∧
    (let s := dieState fun d => { d with testing := true }
     (s.cur.health 0).testing = true ∧ 0 ≤ (s.cur.health 0).spares) ∧
    (let s := (dieState fun d => { d with testing := true, spares := 0 }).setCur fun m => { m with info := { m.info with quadMask := 1 } }
     (s.cur.health 0).testing = true ∧ (s.cur.health 0).spares < 1 ∧ s.cur.info.quadMask.getLsbD 0 = true ∧ s.cur.quadHeld 0 = false) ∧
    (let s := (placedState false id id).setCur fun m => { m.setDie 0 fun d => { d with testing := true, spares := 0 } with info := { m.info with quadMask := 1 } }
     (s.cur.health 0).testing = true ∧ (s.cur.health 0).spares < 1 ∧ s.cur.info.quadMask.getLsbD 0 = true ∧ s.cur.quadHeld 0 = true) ∧
    (base.cur.health 0).tripped = false ∧
    (let s := (dieState fun d => { d with tripped := true }).setCore fun c => { c with status := .running }
     (s.cur.health 0).tripped = true ∧ (s.cur.health 0).lost = false ∧ s.cur.core.die = 0 ∧ s.cur.core.status ≠ .idle) ∧
    (let s := base.setCur fun m => m.setDie 8 fun d => { d with tripped := true }
     (s.cur.health 8).tripped = true ∧ (s.cur.health 8).lost = false ∧ s.cur.core.die ≠ 8) := by decide +kernel

/-- A tripped die that has lost its copies, at the temperature of a restart and above it. -/
theorem test_meets_restart (now : Int) : let s := dieState fun d => { d with tripped := true, lost := true, now }
    (s.cur.health 0).lost = true ∧ (s.cur.health 0).now = now ∧ Config.tripPoint - 10 ≤ Config.tripPoint - 10 ∧
      Config.tripPoint - 10 < Config.tripPoint := by
  exact ⟨rfl, rfl, Int.le_refl _, by omega⟩

/-- A dirty sector whose home is the tripped die. -/
theorem test_meets_deadline : let s := (dieState fun d => { d with tripped := true }).setCur fun m => { m with mem := recMem0 0x200 }
    (s.cur.health 0).tripped = true ∧ (s.cur.health 0).lost = false ∧ memSound s.cur.mem false ∧
      (∀ k x, spGet none s.cur.mem.l2 k = some x → (k % 2 == 1) = false ∧ shown false (k / 2)) ∧
      (∃ c, spGet none s.cur.mem.l2 0x400 = some c ∧ c.dirty = true) ∧ homeDie (0x400 / 2 * 128) = 0 :=
  ⟨by decide +kernel, by decide +kernel, sound_of _ (by decide +kernel),
    fun k x h => ⟨(test_meets_l2Kept k x h).1, shown_plain _⟩, ⟨_, rfl, rfl⟩, by decide +kernel⟩

/-- The followed core's array is its own, or holds what a pre-empted context left. -/
theorem test_meets_errorsAndRetirement : spWf false base.cur.quad.spPoison = true ∧
    (∀ m ∈ [base.cur, { base.cur with arrLeft := some base.cur.arr }], spWf false (stored m).poiG = true ∧
      spWf false (stored m).poi0 = true ∧ spWf false (stored m).poi1 = true) ∧
    dramWf base.cur.mem ∧ present (0x200 * 128) = true ∧ base.cur.mem.l2 = [] ∧ base.cur.mem.msc = [] ∧
    (let s := base.setCur fun m => { m with info := { m.info with quadMask := BitVec.allOnes 36, isthMask := 1, portMask := 1 } }
     (∀ n ∈ [0, 143], s.cur.info.quadMask.getLsbD (n / 4) = true ∧ s.cur.quadHeld (n / 4) = false) ∧ s.cur.linkUsable 0 = true ∧
      (s.cur.link 0).unacked = [] ∧ (s.cur.link 0).queue = [] ∧ spWf none s.cur.links = true ∧ s.cur.linkUsable 32 = true ∧
      (s.cur.link 32).unacked = [] ∧ (s.cur.link 32).queue = []) ∧
    (let s := (placedState false id id).setCur fun m => { m with info := { m.info with quadMask := BitVec.allOnes 36 } }
     s.cur.info.quadMask.getLsbD 0 = true ∧ s.cur.quadHeld 0 = true ∧
      ∃ p ∈ s.cur.disp.placed, onQuad 0 p = true ∧ p.preempt = none ∧ p.noAsk.toNat ≤ s.cur.ftime.toNat ∧
        ∃ q ∈ s.cur.disp.together p, q.preempt = none) ∧
    base.cur.info.pcret.getLsbD 1023 = false := by
  simp only [dramWf]; decide +kernel
/-! ## Steps -/

/-- The state that fetches a row's word next. -/
theorem test_meets_stepRunsBundle : let s := base.placeBundle .s0 0x00051460
    let u := ({ s with turn := .any } : State).fetch 1 s.cur.core.pc.toNat
    let h := decHeader 0x80008000
    let v := u.1.fetch (h.len / 4 - 1) (s.cur.core.pc.toNat + 4)
    let l := decSlots h allSlots [0x00051460]
    atBundle s ∧ pcInRange s ∧ u.2 = .ok [0x80008000] ∧ h.ok = true ∧ s.cur.core.pc.toNat + h.len ≤ s.cur.core.range.1 + s.cur.core.range.2 ∧
      v.2 = .ok [0x00051460] ∧ bundleFault v.1.cur.core l = none ∧ (∀ x ∈ l, slotWaits v.1.cur.core x = false) ∧ h.tgt = true ∧
      l.map (·.ins) = [some (.add ⟨0, 5, 5, 6, 0, 0, none⟩)] ∧ (decHeader 0x80000000).tgt = false ∧ (decHeader 1).ok = false ∧
      (decSlots (decHeader 0x8000) allSlots []) = [] := by
  simp only [atBundle, pcInRange, State.idle]; decide +kernel

/-- A bundle that a check refuses. -/
theorem test_meets_bundleFault : bundleFault base.cur.core (decSlots (decHeader 0x80008000) allSlots [0x00051461]) ≠ none := by decide +kernel

/-- A page that may not be fetched, one that is not yet walked, and a register that is awaited. -/
theorem test_meets_stepStalls : let s := base.placeBundle .s0 0x00051460
    (({ s with turn := .any } : State).setCur fun m => { m with tlb := [⟨none, 0, 0, 0xC01⟩] }).fetch 1 s.cur.core.pc.toNat =
      ((({ s with turn := .any } : State).setCur fun m => { m with tlb := [⟨none, 0, 0, 0xC01⟩] }), .error (0x21, BitVec.ofNat 64 s.cur.core.pc.toNat)) ∧
    ((({ s with turn := .any } : State).setCur fun m => { m with tlb := [] }).fetch 1 s.cur.core.pc.toNat).2 = .error (0, BitVec.ofNat 64 s.cur.core.pc.toNat) ∧
    ∃ x ∈ decSlots (decHeader 0x80008000) allSlots [0x00051460], slotWaits (base.setCore fun c => { c with sb := [⟨5, none, none, none⟩] }).cur.core x = true := by
  decide +kernel

theorem test_meets_stepRunsWord : let s := base.placeWord 0x00100400
    let l := wordMoves 0 (spGets 0 s.cur.oas.code ((s.cur.oas.pc - s.cur.oas.base).toNat / 4) 4)
    atWord s ∧ wordFault s.cur.oas l = none ∧ (∀ x ∈ l, s.cur.oas.passes x.2 = true → s.cur.oas.waits x.2 = false) ∧
      wordFault s.cur.oas (wordMoves 0 [0xFFFFFFFF, 0, 0, 0]) ≠ none := by
  simp only [atWord, State.idle]; decide +kernel

theorem test_meets_encodeDecode : Instr.wf (.add fr) = true ∧ slotOf (.add fr) = some .s0 ∧
    (∃ op f, view (.add fr) = .sR .common op f) ∧ Instr.wf (.vfma .v0 ⟨0, 2, 1, 0, 3, 3, 4, 5, 0, 0, 0⟩) = true ∧ slotOf (.vfma .v0 fv) = some .v0 ∧
    decodeSlot .s0 0x00051460 none = some (.add ⟨0, 5, 5, 6, 0, 0, none⟩) ∧ (0x00051460 : BitVec 64).toNat < 2 ^ 32 := by
  refine ⟨by decide +kernel, by decide +kernel, ⟨_, _, rfl⟩, by decide +kernel, by decide +kernel, by decide +kernel, by decide⟩

/-- A step from a sound state that has nothing half issued. -/
theorem test_meets_stepKeeps : base.idle ∧ ∃ t, step (base.placeBundle .s0 0x00051460) = .next t ∧ (base.placeBundle .s0 0x00051460).idle := by
  refine ⟨by simp only [State.idle]; decide +kernel, ?_⟩
  have h : ((step (base.placeBundle .s0 0x00051460)) matches .next _) = true := by decide +kernel
  cases e : step (base.placeBundle .s0 0x00051460) with
  | next t => exact ⟨t, rfl, by simp only [State.idle]; decide +kernel⟩
  | fault r => rw [e] at h; cases h
  | refused r => rw [e] at h; cases h

/-! ## Single steps: the results and causes that the spec writes out -/

def op2 (a b : Word) : State := withS 2 a (withS 3 b base)
def f3 : FR := { fr with rb := 3 }
/-- S1 in the next state, where the class has latency 1; and what the scoreboard holds for it. -/
def s1Of (i : Instr) (s : State) : Option Word := match exec i s with
  | .next t => some (t.cur.core.readS 1)
  | _ => none
def sb1Of (i : Instr) (s : State) : Option Word := match exec i s with
  | .next t => (t.cur.core.sb.find? fun e => e.reg == 1).bind (·.val)
  | _ => none
/-- Cause of the handler that a step enters. -/
def causeOf (i : Instr) (s : State) : Option Word := match exec i s with
  | .next t => if t.cur.core.tlevel = 1 then some t.cur.core.trap1.cause else none
  | _ => none
def handled (s : State) : State := s.setCore fun c => { c with thandler := 0x9000, thsize := 0x100 }

-- R138: results modulo 2^64, a shift distance modulo the width.
theorem test_add_wraps : s1Of (.add f3) (op2 0xFFFFFFFFFFFFFFFF 1) = some 0 := by decide +kernel
theorem test_shl_distance_wraps : s1Of (.shl f3) (op2 1 65) = some 2 := by decide +kernel
-- R135: a 32-bit result is written sign-extended.
theorem test_add_w32_extends : s1Of (.add { f3 with w := 1 }) (op2 0x7FFFFFFF 1) = some 0xFFFFFFFF80000000 := by decide +kernel
-- R142: toward zero; the corner of the most negative dividend; the cause of a zero divisor, by its low 32 bits for .w32.
theorem test_div_toward_zero : sb1Of (.div f3) (op2 (BitVec.ofInt 64 (-7)) 2) = some (BitVec.ofInt 64 (-3)) := by decide +kernel
theorem test_rem_sign_of_dividend : sb1Of (.rem f3) (op2 (BitVec.ofInt 64 (-7)) 2) = some (BitVec.ofInt 64 (-1)) := by decide +kernel
theorem test_div_corner : sb1Of (.div f3) (op2 0x8000000000000000 0xFFFFFFFFFFFFFFFF) = some 0x8000000000000000 := by decide +kernel
theorem test_div_by_zero : causeOf (.div { f3 with w := 1 }) (handled (op2 1 0x100000000)) = some 0x10 := by decide +kernel
-- R363: ERET belongs to privileged contexts.
theorem test_eret_unprivileged : causeOf (.eret { fr with rd := 0, ra := 0 }) (handled base) = some 0x0D := by decide +kernel
-- R156, R366: an address that is not a multiple of the access size.
theorem test_ldw_misaligned : causeOf (.ldw fm) (handled (op2 0x10001 0)) = some 0x30 := by decide +kernel

end Sys2Proof.Tests
end

section
/-! PROOFS. The scalar operations of the common block (R135 to R142): what an operand is after the gate, the operations
of each width as operations on bit vectors, and the encodings that are refused. -/

open Sys2Proof Sys2Proof.Machine Sys2Proof.Claim

namespace Sys2Proof.Scalar

/-! ## Operands after the gate -/

/-- Counting tokens as read changes no register (R41). -/
@[simp] theorem reg_noteRead (s : State) (i : Instr) (n : BitVec 6) : (s.noteRead i).reg n = s.reg n := by
  unfold State.reg
  cases h : s.snap with
  | none => rw [State.rd_of_none h, State.rd_of_none (s := s.noteRead i) h]; rfl
  | some m => rw [State.rd_of_snap h, State.rd_of_snap (s := s.noteRead i) h]

@[simp] theorem opB_noteRead (s : State) (i : Instr) (f : FR) : (s.noteRead i).opB f = s.opB f := by
  simp only [State.opB, reg_noteRead]

/-! ## Numbers and bit vectors -/

theorem signed_toNat {n : Nat} (a : BitVec n) : signed n a.toNat = a.toInt := by
  cases n with
  | zero => simp [signed, BitVec.eq_nil a]
  | succ n =>
    simp only [signed, Nat.mod_eq_of_lt a.isLt, BitVec.toInt_eq_toNat_cond, Nat.add_sub_cancel]
    congr 1
    rw [Nat.pow_succ, eq_iff_iff]
    omega

theorem signed_eq_toInt_setWidth (n : Nat) (x : Word) : signed n x.toNat = (x.setWidth n).toInt := by
  rw [← signed_toNat, BitVec.toNat_setWidth]
  simp [signed]

theorem wrap_eq_toNat (n : Nat) (i : Int) : wrap n i = (BitVec.ofInt n i).toNat := (BitVec.toNat_ofInt i).symm

theorem ofNat_wrap (n : Nat) (i : Int) : BitVec.ofNat n (wrap n i) = BitVec.ofInt n i := by
  rw [wrap_eq_toNat, BitVec.ofNat_toNat, BitVec.setWidth_eq]

theorem truth_decide (n : Nat) (p : Prop) [Decidable p] : BitVec.ofNat n (if p then 1 else 0) = truth n (decide p) := by
  by_cases h : p <;> simp [truth, h]

theorem word_truth (b : Bool) : (if b = true then 1 else 0 : Word) = truth 64 b := by cases b <;> rfl

/-! ## The operations at each width -/

/-- An operation on numbers gives, at every width of whole bytes and taken modulo 2ⁿ, what the operation on bit vectors
gives (R135). -/
def Computes (fn : Nat → Nat → Nat → Nat) (g : WidthOp) : Prop :=
  ∀ n, 8 ∣ n → 0 < n → ∀ a b : BitVec n, BitVec.ofNat n (fn n a.toNat b.toNat) = g n a b

/-- The operand width and the sign extension of R135. -/
theorem fitW_eq_atWidth {fn : Nat → Nat → Nat → Nat} {g : WidthOp} (h : Computes fn g) (w : BitVec 1) (a b : Word) :
    fitW w (fn (opWidth w) (a.toNat % 2 ^ opWidth w) (b.toNat % 2 ^ opWidth w)) = atWidth w g a b := by
  unfold fitW atWidth opWidth
  split
  · rw [← h 32 (by decide) (by decide), BitVec.toNat_setWidth, BitVec.toNat_setWidth]
  · rw [← h 64 (by decide) (by decide), Nat.mod_eq_of_lt a.isLt, Nat.mod_eq_of_lt b.isLt]

theorem intR_of_runs {i : Instr} {f : FR} {cls : Nat} {fn : Nat → Nat → Nat → Nat} {g : WidthOp} {s : State}
    (hfn : Computes fn g) (h : Runs i s) :
    intR i f cls fn s = .next ((s.noteRead i).writeS cls f.rd (atWidth f.w g (s.reg f.ra) (s.opB f))) := by
  simp only [intR, gated_of_runs h, reg_noteRead, opB_noteRead, fitW_eq_atWidth hfn]

/-! ### Sums and products -/

theorem computes_add : Computes (fun _ a b => a + b) (fun _ a b => a + b) := fun n _ _ a b => by
  simp [BitVec.ofNat_add]

theorem computes_sub : Computes (fun n a b => a + (2 ^ n - b)) (fun _ a b => a - b) := fun n _ _ a b => by
  apply BitVec.eq_of_toNat_eq
  simp [BitVec.toNat_sub, Nat.add_comm]

theorem computes_mul : Computes (fun _ a b => a * b) (fun _ a b => a * b) := fun n _ _ a b => by
  simp [BitVec.ofNat_mul]

theorem computes_mulh : Computes (fun n a b => wrap (2 * n) (signed n a * signed n b) / 2 ^ n)
    (fun n a b => (a.signExtend (2 * n) * b.signExtend (2 * n)).extractLsb' n n) := fun n _ _ a b => by
  have h : wrap (2 * n) (a.toInt * b.toInt) = (a.signExtend (2 * n) * b.signExtend (2 * n)).toNat := by
    rw [wrap_eq_toNat, BitVec.ofInt_mul]; rfl
  apply BitVec.eq_of_toNat_eq
  simp [signed_toNat, h, Nat.shiftRight_eq_div_pow]

theorem computes_mulhu : Computes (fun n a b => a * b / 2 ^ n)
    (fun n a b => (a.setWidth (2 * n) * b.setWidth (2 * n)).extractLsb' n n) := fun n _ _ a b => by
  have hprod : a.toNat * b.toNat < 2 ^ (2 * n) := by
    rw [Nat.two_mul, Nat.pow_add]; exact Nat.mul_lt_mul'' a.isLt b.isLt
  have hfits (x : BitVec n) : x.toNat % 2 ^ (2 * n) = x.toNat :=
    Nat.mod_eq_of_lt (x.isLt.trans_le (Nat.pow_le_pow_right two_pos (by omega)))
  apply BitVec.eq_of_toNat_eq
  simp [Nat.shiftRight_eq_div_pow, hfits, Nat.mod_eq_of_lt hprod]

/-- The most negative value gives itself. -/
theorem computes_abs : Computes (fun n a _ => (signed n a).natAbs) (fun _ a _ => if a.msb then -a else a) := fun n _ _ a _ => by
  have hlt := a.isLt
  simp only [signed_toNat]
  apply BitVec.eq_of_toNat_eq
  change _ = a.abs.toNat
  rw [BitVec.toNat_abs, BitVec.toNat_ofNat, BitVec.toInt_eq_msb_cond]
  split
  next hmsb =>
    have hpos : a.toNat ≠ 0 := fun h0 => by simp [BitVec.eq_of_toNat_eq (y := 0#n) h0] at hmsb
    rw [show ((a.toNat : Int) - (2 ^ n : Nat)).natAbs = 2 ^ n - a.toNat by omega, Nat.mod_eq_of_lt (by omega)]
  next => rw [Int.natAbs_natCast, Nat.mod_eq_of_lt hlt]

/-! ### Logic -/

theorem computes_and : Computes (fun _ a b => a &&& b) (fun _ a b => a &&& b) := fun n _ _ a b => by
  simp [BitVec.ofNat_and]

theorem computes_or : Computes (fun _ a b => a ||| b) (fun _ a b => a ||| b) := fun n _ _ a b => by
  simp [BitVec.ofNat_or]

theorem computes_xor : Computes (fun _ a b => a ^^^ b) (fun _ a b => a ^^^ b) := fun n _ _ a b => by
  simp [BitVec.ofNat_xor]

theorem xor_ofNat_ones {n : Nat} (b : BitVec n) : b ^^^ BitVec.ofNat n (2 ^ n - 1) = ~~~b := by
  rw [← BitVec.xor_allOnes, ← BitVec.toNat_allOnes, BitVec.ofNat_toNat, BitVec.setWidth_eq]

theorem computes_andn : Computes (fun n a b => a &&& (b ^^^ (2 ^ n - 1))) (fun _ a b => a &&& ~~~b) := fun n _ _ a b => by
  simp [BitVec.ofNat_and, BitVec.ofNat_xor, xor_ofNat_ones]

theorem computes_orn : Computes (fun n a b => a ||| (b ^^^ (2 ^ n - 1))) (fun _ a b => a ||| ~~~b) := fun n _ _ a b => by
  simp [BitVec.ofNat_or, BitVec.ofNat_xor, xor_ofNat_ones]

/-! ### Shifts and rotations -/

theorem computes_shl : Computes (fun n a b => a * 2 ^ (b % n)) (fun n a b => a <<< (b.toNat % n)) := fun n _ _ a b => by
  apply BitVec.eq_of_toNat_eq
  simp [Nat.shiftLeft_eq]

theorem computes_shr : Computes (fun n a b => a / 2 ^ (b % n)) (fun n a b => a >>> (b.toNat % n)) := fun n _ _ a b => by
  apply BitVec.eq_of_toNat_eq
  simpa [Nat.shiftRight_eq_div_pow] using Nat.mod_eq_of_lt ((Nat.div_le_self _ _).trans_lt a.isLt)

theorem computes_sar : Computes (fun n a b => wrap n (signed n a / 2 ^ (b % n)))
    (fun n a b => a.sshiftRight (b.toNat % n)) := fun n _ _ a b => by
  simp [signed_toNat, ofNat_wrap, BitVec.sshiftRight, Int.shiftRight_eq_div_pow]

/-- The two parts of a rotation share no bit, so that their sum is their union. -/
theorem add_mod_eq_or_of_rotate {n r a : Nat} (hr : r ≤ n) (ha : a < 2 ^ n) :
    (a * 2 ^ r % 2 ^ n + a / 2 ^ (n - r)) % 2 ^ n = a * 2 ^ r % 2 ^ n ||| a / 2 ^ (n - r) := by
  have hpow : 2 ^ n = 2 ^ r * 2 ^ (n - r) := by rw [← Nat.pow_add, Nat.add_sub_cancel' hr]
  have hlow : a / 2 ^ (n - r) < 2 ^ r := Nat.div_lt_of_lt_mul (by rwa [Nat.mul_comm, ← hpow])
  have hor : a * 2 ^ r % 2 ^ n + a / 2 ^ (n - r) = a * 2 ^ r % 2 ^ n ||| a / 2 ^ (n - r) := by
    rw [Nat.mul_comm a, hpow, Nat.mul_mod_mul_left, Nat.two_pow_add_eq_or_of_lt hlow]
  rw [hor, Nat.mod_eq_of_lt (Nat.or_lt_two_pow (Nat.mod_lt _ (Nat.two_pow_pos n)) ((Nat.div_le_self _ _).trans_lt ha))]

theorem computes_rol : Computes (fun n a b => a * 2 ^ (b % n) % 2 ^ n + a / 2 ^ (n - b % n))
    (fun n a b => a.rotateLeft (b.toNat % n)) := fun n _ hn a b => by
  apply BitVec.eq_of_toNat_eq
  simp only [BitVec.toNat_ofNat, BitVec.toNat_rotateLeft, Nat.mod_mod, Nat.shiftLeft_eq, Nat.shiftRight_eq_div_pow]
  exact add_mod_eq_or_of_rotate (Nat.mod_lt _ hn).le a.isLt

/-- A rotation right by r is one left by n − r. -/
theorem computes_ror : Computes (fun n a b => a / 2 ^ (b % n) + a * 2 ^ (n - b % n) % 2 ^ n)
    (fun n a b => a.rotateRight (b.toNat % n)) := fun n _ hn a b => by
  have h := add_mod_eq_or_of_rotate (Nat.sub_le n (b.toNat % n)) a.isLt
  apply BitVec.eq_of_toNat_eq
  simp only [BitVec.toNat_ofNat, BitVec.toNat_rotateRight, Nat.mod_mod, Nat.shiftLeft_eq, Nat.shiftRight_eq_div_pow]
  rwa [Nat.sub_sub_self (Nat.mod_lt _ hn).le, Nat.add_comm, Nat.or_comm] at h

/-! ### Minima, maxima and comparisons -/

theorem computes_min : Computes (fun n a b => if signed n a ≤ signed n b then a else b)
    (fun _ a b => if a.sle b then a else b) := fun n _ _ a b => by
  simp [signed_toNat, BitVec.sle_eq_decide, apply_ite (BitVec.ofNat n)]

theorem computes_max : Computes (fun n a b => if signed n a ≤ signed n b then b else a)
    (fun _ a b => if a.sle b then b else a) := fun n _ _ a b => by
  simp [signed_toNat, BitVec.sle_eq_decide, apply_ite (BitVec.ofNat n)]

theorem computes_minu : Computes (fun _ a b => if a ≤ b then a else b)
    (fun _ a b => if a.ule b then a else b) := fun n _ _ a b => by
  simp [BitVec.ule_eq_decide, apply_ite (BitVec.ofNat n)]

theorem computes_maxu : Computes (fun _ a b => if a ≤ b then b else a)
    (fun _ a b => if a.ule b then b else a) := fun n _ _ a b => by
  simp [BitVec.ule_eq_decide, apply_ite (BitVec.ofNat n)]

theorem computes_cmpeq : Computes (fun _ a b => if a = b then 1 else 0) (fun n a b => truth n (a == b)) := fun n _ _ a b => by
  simp [truth_decide, ← BitVec.toNat_inj, beq_eq_decide]

theorem computes_cmpne : Computes (fun _ a b => if a = b then 0 else 1) (fun n a b => truth n (a != b)) := fun n _ _ a b => by
  by_cases h : a = b
  · simp [truth, h]
  · simp [truth, BitVec.toNat_inj, h, bne_iff_ne.2 h]

theorem computes_cmplt : Computes (fun n a b => if signed n a < signed n b then 1 else 0)
    (fun n a b => truth n (a.slt b)) := fun n _ _ a b => by
  simp only [signed_toNat, truth_decide, BitVec.slt_eq_decide]

theorem computes_cmpltu : Computes (fun _ a b => if a < b then 1 else 0)
    (fun n a b => truth n (a.ult b)) := fun n _ _ a b => by
  simp only [truth_decide, BitVec.ult_eq_decide]

theorem computes_cmple : Computes (fun n a b => if signed n a ≤ signed n b then 1 else 0)
    (fun n a b => truth n (a.sle b)) := fun n _ _ a b => by
  simp only [signed_toNat, truth_decide, BitVec.sle_eq_decide]

theorem computes_cmpleu : Computes (fun _ a b => if a ≤ b then 1 else 0)
    (fun n a b => truth n (a.ule b)) := fun n _ _ a b => by
  simp only [truth_decide, BitVec.ule_eq_decide]

/-! ### Counts of bits -/

theorem toNat_ne_zero {n : Nat} {a : BitVec n} (h : ¬a = 0#n) : a.toNat ≠ 0 := by simpa [← BitVec.toNat_inj] using h

/-- Of a nonzero number, CLZ names the highest one bit, which is what its logarithm names. -/
theorem computes_clz : Computes (fun n a _ => if a = 0 then n else n - 1 - a.log2) (fun _ a _ => a.clz) := fun n _ hn a _ => by
  by_cases ha : a = 0#n
  · simpa [ha] using (BitVec.clz_eq_iff_eq_zero.2 ha).symm
  · have hc : a.clz.toNat < n := by simpa [BitVec.lt_def] using BitVec.clz_lt_iff_ne_zero.2 ha
    have hlog : a.toNat.log2 = n - 1 - a.clz.toNat := (Nat.log2_eq_iff (toNat_ne_zero ha)).2
      ⟨BitVec.two_pow_sub_clz_le_toNat_of_ne_zero hn ha,
        by rw [show n - 1 - a.clz.toNat + 1 = n - a.clz.toNat by omega]; exact BitVec.toNat_lt_two_pow_sub_clz⟩
    simp only [if_neg (toNat_ne_zero ha)]
    rw [hlog, show n - 1 - (n - 1 - a.clz.toNat) = a.clz.toNat by omega, BitVec.ofNat_toNat, BitVec.setWidth_eq]

/-- The count of trailing zeros is the number of the lowest one bit. -/
theorem ctzFrom_eq {n k a : Nat} (hk : k < n) (hlow : ∀ j < k, a.testBit j = false) (hbit : a.testBit k = true) :
    ctzFrom n a = k := by
  induction n generalizing k a with
  | zero => omega
  | succ n ih =>
    cases k with
    | zero =>
      have h1 : a % 2 = 1 := by simpa [Nat.testBit_zero] using hbit
      rw [ctzFrom, if_pos h1]
    | succ k =>
      have h0 : a % 2 ≠ 1 := by simpa [Nat.testBit_zero] using hlow 0 (by omega)
      have hhalf : ctzFrom n (a / 2) = k := ih (by omega)
        (fun j hj => by rw [Nat.testBit_div_two]; exact hlow _ (by omega)) (by rwa [Nat.testBit_div_two])
      rw [ctzFrom, if_neg h0, hhalf]

theorem computes_ctz : Computes (fun n a _ => if a = 0 then n else ctzFrom n a) (fun _ a _ => a.ctz) := fun n _ _ a _ => by
  by_cases ha : a = 0#n
  · have hrev : a.reverse = 0#n := BitVec.reverse_eq_zero_iff.2 ha
    simpa [ha, ← BitVec.ctz_eq_reverse_clz] using (BitVec.clz_eq_iff_eq_zero.2 hrev).symm
  · have hc : a.ctz.toNat < n := by simpa [BitVec.lt_def] using BitVec.ctz_lt_iff_ne_zero.2 ha
    have hctz : ctzFrom n a.toNat = a.ctz.toNat := ctzFrom_eq hc
      (fun j hj => BitVec.getLsbD_false_of_lt_ctz hj) (BitVec.getLsbD_true_ctz_of_ne_zero ha)
    simp only [if_neg (toNat_ne_zero ha)]
    rw [hctz, BitVec.ofNat_toNat, BitVec.setWidth_eq]

/-- The model counts from the low end; this is the same count from the high end. -/
theorem popcount_succ (n a : Nat) : popcount (n + 1) a = popcount n a + (a.testBit n).toNat := by
  induction n generalizing a with
  | zero => rw [Nat.toNat_testBit]; simp [popcount]
  | succ n ih => rw [popcount, ih, Nat.testBit_div_two, ← Nat.add_assoc, popcount]

theorem popcount_eq_cpopNatRec {n : Nat} (a : BitVec n) (k : Nat) : popcount k a.toNat = a.cpopNatRec k 0 := by
  induction k with
  | zero => rfl
  | succ k ih => rw [popcount_succ, ih, BitVec.cpopNatRec_succ, BitVec.cpopNatRec_eq (0 + _), Nat.zero_add]; rfl

theorem computes_popc : Computes (fun n a _ => popcount n a) (fun _ a _ => a.cpop) := fun n _ _ a _ => by
  simp only [popcount_eq_cpopNatRec, BitVec.cpop]

/-! ### Bytes in reverse order: bit i of the result is bit i mod 8 of the byte that stands as far from the other end -/

theorem testBit_bytesNat (l : List Byte) (i : Nat) : (bytesNat l).testBit i = (l.getD (i / 8) 0).getLsbD (i % 8) := by
  induction l generalizing i with
  | nil => simp [bytesNat]
  | cons b t ih =>
    rw [bytesNat, Nat.add_comm, show 256 = 2 ^ 8 from rfl, Nat.testBit_two_pow_mul_add _ b.isLt]
    by_cases hi : i < 8
    · rw [if_pos hi, Nat.div_eq_of_lt hi, Nat.mod_eq_of_lt hi]; rfl
    · rw [if_neg hi, ih, show i / 8 = (i - 8) / 8 + 1 by omega, show (i - 8) % 8 = i % 8 by omega, List.getD_cons_succ]

theorem getLsbD_natBytes (x n k j : Nat) :
    ((natBytes x n).getD k 0).getLsbD j = (decide (k < n) && decide (j < 8) && x.testBit (8 * k + j)) := by
  induction n generalizing x k with
  | zero => simp [natBytes]
  | succ n ih =>
    cases k with
    | zero => simp [natBytes, BitVec.getLsbD_ofNat]
    | succ k =>
      rw [natBytes, List.getD_cons_succ, ih, show 256 = 2 ^ 8 from rfl, Nat.testBit_div_two_pow]
      simp [show 8 * k + j + 8 = 8 * (k + 1) + j by omega]

theorem testBit_swapBytes {m i : Nat} (a : Nat) (hi : i < 8 * m) :
    (swapBytes m a).testBit i = a.testBit (8 * (m - 1 - i / 8) + i % 8) := by
  have hk : i / 8 < m := by omega
  rw [swapBytes, testBit_bytesNat, List.getD_eq_getElem?_getD, List.getElem?_reverse (by simpa using hk), natBytes_length,
    ← List.getD_eq_getElem?_getD, getLsbD_natBytes]
  simp [show m - 1 - i / 8 < m by omega, Nat.mod_lt]

theorem getLsbD_foldl_or {n : Nat} (l : List Nat) (h : Nat → BitVec n) (z : BitVec n) (i : Nat) :
    (l.foldl (fun r k => r ||| h k) z).getLsbD i = (z.getLsbD i || l.any fun k => (h k).getLsbD i) := by
  induction l generalizing z with
  | nil => simp
  | cons k l ih => simp [ih, Bool.or_assoc]

theorem getLsbD_reversed_byte {m k i : Nat} (a : BitVec (8 * m)) (hk : k < m) (hi : i < 8 * m) :
    (((a >>> (8 * k)) &&& BitVec.ofNat (8 * m) 255) <<< (8 * m - 8 - 8 * k)).getLsbD i =
      (decide (k = m - 1 - i / 8) && a.getLsbD (8 * k + i % 8)) := by
  rw [BitVec.getLsbD_shiftLeft, BitVec.getLsbD_and, BitVec.getLsbD_ushiftRight, BitVec.getLsbD_ofNat,
    show 255 = 2 ^ 8 - 1 from rfl, Nat.testBit_two_pow_sub_one]
  by_cases h : k = m - 1 - i / 8
  · have hbit : i - (8 * m - 8 - 8 * k) = i % 8 := by omega
    simp [hbit, ← h, hi, show ¬i < 8 * m - 8 - 8 * k by omega, show i % 8 < 8 * m by omega, Nat.mod_lt]
  · by_cases hlow : i < 8 * m - 8 - 8 * k
    · simp [h, hlow]
    · simp [h, show ¬i - (8 * m - 8 - 8 * k) < 8 by omega]

theorem getLsbD_reverseBytes {m i : Nat} (a : BitVec (8 * m)) (hi : i < 8 * m) :
    (reverseBytes (8 * m) a).getLsbD i = a.getLsbD (8 * (m - 1 - i / 8) + i % 8) := by
  rw [reverseBytes, getLsbD_foldl_or, Nat.mul_div_cancel_left m (by decide), Bool.eq_iff_iff]
  simp only [BitVec.ofNat_eq_ofNat, BitVec.getLsbD_zero, Bool.false_or, List.any_eq_true, List.mem_range]
  constructor
  · rintro ⟨k, hk, hbit⟩
    rw [getLsbD_reversed_byte a hk hi, Bool.and_eq_true, decide_eq_true_eq] at hbit
    obtain ⟨rfl, hbit⟩ := hbit
    exact hbit
  · intro hbit
    have hk : m - 1 - i / 8 < m := by omega
    exact ⟨_, hk, by simpa [getLsbD_reversed_byte a hk hi] using hbit⟩

theorem computes_bswap : Computes (fun n a _ => swapBytes (n / 8) a) (fun n a _ => reverseBytes n a) := fun n h8 _ a _ => by
  obtain ⟨m, rfl⟩ := h8
  apply BitVec.eq_of_getLsbD_eq
  intro i hi
  simp only [Nat.mul_div_cancel_left m (show 0 < 8 by decide), getLsbD_reverseBytes a hi, BitVec.getLsbD_ofNat,
    testBit_swapBytes _ hi]
  simp [hi, BitVec.getLsbD]

/-! ### Quotients and remainders (R142) -/

theorem computes_div : Computes (fun n a b => wrap n ((signed n a).tdiv (signed n b)))
    (fun n a b => BitVec.ofInt n (a.toInt.tdiv b.toInt)) := fun n _ _ a b => by
  simp only [signed_toNat, ofNat_wrap]

theorem computes_divu : Computes (fun _ a b => a / b) (fun n a b => BitVec.ofNat n (a.toNat / b.toNat)) :=
  fun _ _ _ _ _ => rfl

theorem computes_rem : Computes (fun n a b => wrap n ((signed n a).tmod (signed n b)))
    (fun n a b => BitVec.ofInt n (a.toInt.tmod b.toInt)) := fun n _ _ a b => by
  simp only [signed_toNat, ofNat_wrap]

theorem computes_remu : Computes (fun _ a b => a % b) (fun n a b => BitVec.ofNat n (a.toNat % b.toNat)) :=
  fun _ _ _ _ _ => rfl

/-! ## Refused encodings (R61, R62) -/

/-- Whatever an instruction does, it does behind the gate of the slots. -/
def Gated (i : Instr) : Prop := ∀ s : State, ∃ e : State → State, exec i s = gated i s e

theorem intR_gated (i : Instr) (f : FR) (cls : Nat) (fn : Nat → Nat → Nat → Nat) (s : State) :
    ∃ e, intR i f cls fn s = gated i s e := ⟨_, rfl⟩

theorem intI_gated (i : Instr) (f : FI) (fn : Word → Word → Word) (s : State) : ∃ e, intI i f fn s = gated i s e := ⟨_, rfl⟩

theorem gated_abs (f : FR) : Gated (.abs f) := fun s => (intR_gated .. : ∃ e, execAbs f s = gated _ s e)
theorem gated_clz (f : FR) : Gated (.clz f) := fun s => (intR_gated .. : ∃ e, execClz f s = gated _ s e)
theorem gated_ctz (f : FR) : Gated (.ctz f) := fun s => (intR_gated .. : ∃ e, execCtz f s = gated _ s e)
theorem gated_popc (f : FR) : Gated (.popc f) := fun s => (intR_gated .. : ∃ e, execPopc f s = gated _ s e)
theorem gated_bswap (f : FR) : Gated (.bswap f) := fun s => (intR_gated .. : ∃ e, execBswap f s = gated _ s e)
theorem gated_sel (f : FR) : Gated (.sel f) := fun s => ⟨_, (rfl : execSel f s = gated _ s _)⟩
theorem gated_sext (f : FR) : Gated (.sext f) := fun s => ⟨_, (rfl : execSext f s = gated _ s _)⟩
theorem gated_zext (f : FR) : Gated (.zext f) := fun s => ⟨_, (rfl : execZext f s = gated _ s _)⟩
theorem gated_shli (f : FI) : Gated (.shli f) := fun s => (intI_gated .. : ∃ e, execShli f s = gated _ s e)
theorem gated_shri (f : FI) : Gated (.shri f) := fun s => (intI_gated .. : ∃ e, execShri f s = gated _ s e)
theorem gated_sari (f : FI) : Gated (.sari f) := fun s => (intI_gated .. : ∃ e, execSari f s = gated _ s e)

/-- An instruction that runs has passed its encoding check. -/
theorem check_of_runs {i : Instr} {s : State} (h : Runs i s) : check s.rd.core.priv i = none := by
  obtain ⟨-, hc, -⟩ := h
  unfold Core.checks at hc
  split at hc <;> simp_all

theorem refused02_of_check {i : Instr} {s : State} (hg : Gated i) (hr : s.reached)
    (hc : check s.rd.core.priv i = some 0x02) : refused02 i s := by
  obtain ⟨e, he⟩ := hg s
  have hcs : s.rd.core.checks i = some 0x02 := by simp only [Core.checks, hc]
  rw [refused02, he, gated_of_check hr hcs]

section CommonBlock
variable {i : Instr} {op : Nat} {f : FR} {s : State}

/-- Below the CSR forms no privilege is asked for, so that a reserved field gives cause 0x02. -/
theorem refused02_of_bad (hg : Gated i) (hv : view i = .sR .common op f) (hop : op < 0x3C) (hr : s.reached)
    (hbad : badCommonR op f = true) : refused02 i s := by
  have hcsr : ¬(op = 0x3C ∨ op = 0x3D) := by omega
  exact refused02_of_check hg hr (by simp [check, hv, firstCause, hbad, hcsr])

theorem badCommonR_eq (hop : op < 0x3A) : badCommonR op f =
    ((f.w != 0 && !takesW op) || !fnOk op f || (unaryOp op && f.rb != 0) ||
      (f.lit.isSome && (unaryOp op || f.rb != 0))) := by
  have hcv : (op == 0x3A) = false := by simpa using (by omega : op ≠ 0x3A)
  rw [badCommonR, if_neg (by omega), hcv]
  simp only [Bool.false_and, Bool.or_false]

/-- An operation without a second operand refuses one (R138, R139). -/
theorem refused02_of_operand (hg : Gated i) (hv : view i = .sR .common op f) (hop : op < 0x3A) (hu : unaryOp op = true)
    (hr : s.reached) (h : f.rb ≠ 0 ∨ f.lit.isSome = true) : refused02 i s := by
  refine refused02_of_bad hg hv (by omega) hr ?_
  rw [badCommonR_eq hop, hu]
  rcases h with hrb | hlit
  · rw [bne_iff_ne.2 hrb]; simp
  · simp [hlit]

/-- An operation of one width refuses W = 1 (R139). -/
theorem refused02_of_w (hg : Gated i) (hv : view i = .sR .common op f) (hop : op < 0x3A) (ht : takesW op = false)
    (hr : s.reached) (h : f.w = 1) : refused02 i s := by
  refine refused02_of_bad hg hv (by omega) hr ?_
  simp [badCommonR_eq hop, ht, h]

theorem refused02_of_fn (hg : Gated i) (hv : view i = .sR .common op f) (hop : op < 0x3A) (hr : s.reached)
    (h : fnOk op f = false) : refused02 i s := by
  refine refused02_of_bad hg hv (by omega) hr ?_
  simp [badCommonR_eq hop, h]

end CommonBlock

/-! ## R138: the integer operations -/

/-- The meaning of an operation is intR with numbers that compute what the table says. -/
def Realized (op : (FR → Instr) × Nat × WidthOp) : Prop :=
  ∃ fn, Computes fn op.2.2 ∧ ∀ f s, exec (op.1 f) s = intR (op.1 f) f op.2.1 fn s

theorem integerOps_realized : ∀ op ∈ integerOps, Realized op := by
  simp only [integerOps, List.forall_mem_cons, List.not_mem_nil, false_imp_iff, implies_true, and_true]
  exact ⟨⟨_, computes_add, fun _ _ => rfl⟩, ⟨_, computes_sub, fun _ _ => rfl⟩, ⟨_, computes_mul, fun _ _ => rfl⟩,
    ⟨_, computes_mulh, fun _ _ => rfl⟩, ⟨_, computes_mulhu, fun _ _ => rfl⟩, ⟨_, computes_and, fun _ _ => rfl⟩,
    ⟨_, computes_or, fun _ _ => rfl⟩, ⟨_, computes_xor, fun _ _ => rfl⟩, ⟨_, computes_andn, fun _ _ => rfl⟩,
    ⟨_, computes_orn, fun _ _ => rfl⟩, ⟨_, computes_shl, fun _ _ => rfl⟩, ⟨_, computes_shr, fun _ _ => rfl⟩,
    ⟨_, computes_sar, fun _ _ => rfl⟩, ⟨_, computes_rol, fun _ _ => rfl⟩, ⟨_, computes_ror, fun _ _ => rfl⟩,
    ⟨_, computes_min, fun _ _ => rfl⟩, ⟨_, computes_max, fun _ _ => rfl⟩, ⟨_, computes_minu, fun _ _ => rfl⟩,
    ⟨_, computes_maxu, fun _ _ => rfl⟩, ⟨_, computes_abs, fun _ _ => rfl⟩, ⟨_, computes_cmpeq, fun _ _ => rfl⟩,
    ⟨_, computes_cmpne, fun _ _ => rfl⟩, ⟨_, computes_cmplt, fun _ _ => rfl⟩, ⟨_, computes_cmpltu, fun _ _ => rfl⟩,
    ⟨_, computes_cmple, fun _ _ => rfl⟩, ⟨_, computes_cmpleu, fun _ _ => rfl⟩, ⟨_, computes_clz, fun _ _ => rfl⟩,
    ⟨_, computes_ctz, fun _ _ => rfl⟩, ⟨_, computes_popc, fun _ _ => rfl⟩, ⟨_, computes_bswap, fun _ _ => rfl⟩⟩

theorem exec_of_realized {op : (FR → Instr) × Nat × WidthOp} (hop : Realized op) {f : FR} {s : State} (h : Runs (op.1 f) s) :
    exec (op.1 f) s =
      .next ((s.noteRead (op.1 f)).writeS op.2.1 f.rd (atWidth f.w op.2.2 (s.reg f.ra) (s.opB f))) := by
  obtain ⟨fn, hfn, hexec⟩ := hop
  rw [hexec, intR_of_runs hfn h]

/-- Settles O1: each operation on numbers is the table's operation on bit vectors, and a second operand of an operation that
takes none is a reserved field. -/
theorem integerResults : Obligations.IntegerResults := by
  refine ⟨fun op hop f s h => exec_of_realized (integerOps_realized op hop) h, ?_⟩
  simp only [List.forall_mem_cons, List.not_mem_nil, false_imp_iff, implies_true, and_true]
  exact ⟨fun f _ => refused02_of_operand (gated_abs f) rfl (by decide) rfl,
    fun f _ => refused02_of_operand (gated_clz f) rfl (by decide) rfl,
    fun f _ => refused02_of_operand (gated_ctz f) rfl (by decide) rfl,
    fun f _ => refused02_of_operand (gated_popc f) rfl (by decide) rfl,
    fun f _ => refused02_of_operand (gated_bswap f) rfl (by decide) rfl⟩

/-! ## R139: SEL, SEXT and ZEXT -/

theorem exec_sel_of_runs {f : FR} {s : State} (h : Runs (.sel f) s) : exec (.sel f) s =
    .next ((s.noteRead (.sel f)).writeS clsA1 f.rd (if s.reg f.rd ≠ 0 then s.reg f.ra else s.opB f)) := by
  rw [show exec (.sel f) s = execSel f s from rfl, execSel, gated_of_runs h]
  simp only [reg_noteRead, opB_noteRead, ne_eq, ite_not]

theorem exec_sext_of_runs {f : FR} {s : State} (h : Runs (.sext f) s) : exec (.sext f) s =
    .next ((s.noteRead (.sext f)).writeS clsA1 f.rd (((s.reg f.ra).setWidth (extWidth f)).signExtend 64)) := by
  rw [show exec (.sext f) s = execSext f s from rfl, execSext, gated_of_runs h, reg_noteRead, signed_eq_toInt_setWidth]
  rfl

theorem exec_zext_of_runs {f : FR} {s : State} (h : Runs (.zext f) s) : exec (.zext f) s =
    .next ((s.noteRead (.zext f)).writeS clsA1 f.rd (((s.reg f.ra).setWidth (extWidth f)).setWidth 64)) := by
  rw [show exec (.zext f) s = execZext f s from rfl, execZext, gated_of_runs h, reg_noteRead, ← BitVec.toNat_setWidth,
    BitVec.ofNat_toNat]

theorem extWidth_of_fn {f : FR} {k : BitVec 3} (h : f.fn = k) : extWidth f = 8 * 2 ^ k.toNat := by rw [extWidth, h]

theorem sel_sext_zext_refuse_w {f : FR} {s : State} (hr : s.reached) (hw : f.w = 1) :
    refused02 (.sel f) s ∧ refused02 (.sext f) s ∧ refused02 (.zext f) s :=
  ⟨refused02_of_w (gated_sel f) rfl (by decide) rfl hr hw, refused02_of_w (gated_sext f) rfl (by decide) rfl hr hw,
    refused02_of_w (gated_zext f) rfl (by decide) rfl hr hw⟩

theorem sext_zext_refuse {f : FR} {s : State} (hr : s.reached) (h : 3 ≤ f.fn.toNat ∨ f.rb ≠ 0 ∨ f.lit.isSome = true) :
    refused02 (.sext f) s ∧ refused02 (.zext f) s := by
  rcases h with hfn | hop
  · have hbad : ¬f.fn.toNat < 3 := by omega
    exact ⟨refused02_of_fn (gated_sext f) rfl (by decide) hr (by simp [fnOk, hbad]),
      refused02_of_fn (gated_zext f) rfl (by decide) hr (by simp [fnOk, hbad])⟩
  · exact ⟨refused02_of_operand (gated_sext f) rfl (by decide) rfl hr hop,
      refused02_of_operand (gated_zext f) rfl (by decide) rfl hr hop⟩

theorem selectAndExtend : SelectAndExtend := by
  intro f s
  refine ⟨sel_sext_zext_refuse_w, sext_zext_refuse, exec_sel_of_runs, fun h => ?_, fun h => ?_⟩
  · rw [exec_sext_of_runs h]
    refine ⟨fun hfn => ?_, fun hfn => ?_, fun hfn => ?_⟩ <;> rw [extWidth_of_fn hfn] <;> rfl
  · rw [exec_zext_of_runs h]
    refine ⟨fun hfn => ?_, fun hfn => ?_, fun hfn => ?_⟩ <;> rw [extWidth_of_fn hfn] <;> rfl

/-! ## R140, R141: immediate forms, LI and LIH -/

theorem immOf_eq_val (f : FI) : immOf f = f.val := rfl

theorem intI_of_runs {i : Instr} {f : FI} {s : State} (fn : Word → Word → Word) (h : Runs i s) :
    intI i f fn s = .next ((s.noteRead i).writeS clsA1 f.rd (fn (s.reg f.ra) (immOf f))) := by
  rw [intI, gated_of_runs h, reg_noteRead, immOf_eq_val]

section ShiftCounts
variable {i : Instr} {k : SClass} {op : Nat} {f : FI}

theorem check_of_count (priv : Bool) (hv : view i = .sI k op f) (hop : 0x29 ≤ op ∧ op ≤ 0x2B) (h : 63 < (immOf f).toNat) :
    check priv i = some 0x02 := by
  simp [check, hv, firstCause, hop, ← immOf_eq_val, h]

theorem refused02_of_count {s : State} (hg : Gated i) (hv : view i = .sI k op f) (hop : 0x29 ≤ op ∧ op ≤ 0x2B)
    (hr : s.reached) (h : 63 < (immOf f).toNat) : refused02 i s :=
  refused02_of_check hg hr (check_of_count _ hv hop h)

/-- A shift that runs has a count below 64. -/
theorem count_mod_of_runs {s : State} (hv : view i = .sI k op f) (hop : 0x29 ≤ op ∧ op ≤ 0x2B) (h : Runs i s) :
    (immOf f).toNat % 64 = (immOf f).toNat := by
  refine Nat.mod_eq_of_lt (not_le.1 fun hgt => ?_)
  have hc := check_of_runs h
  rw [check_of_count _ hv hop hgt] at hc
  cases hc

end ShiftCounts

/-- The meaning of an immediate form is intI with an operation that agrees with the table's wherever the form runs. -/
def RealizedI (op : (FI → Instr) × (Word → Word → Word)) : Prop :=
  ∃ fn, (∀ f s, exec (op.1 f) s = intI (op.1 f) f fn s) ∧
    ∀ f s, Runs (op.1 f) s → ∀ a, fn a (immOf f) = op.2 a (immOf f)

theorem immediateOps_realized : ∀ op ∈ immediateOps, RealizedI op := by
  simp only [immediateOps, List.forall_mem_cons, List.not_mem_nil, false_imp_iff, implies_true, and_true]
  exact ⟨⟨(· + ·), fun _ _ => rfl, fun _ _ _ _ => rfl⟩,
    ⟨(· &&& ·), fun _ _ => rfl, fun _ _ _ _ => rfl⟩,
    ⟨(· ||| ·), fun _ _ => rfl, fun _ _ _ _ => rfl⟩,
    ⟨(· ^^^ ·), fun _ _ => rfl, fun _ _ _ _ => rfl⟩,
    ⟨fun a i => a <<< i.toNat, fun _ _ => rfl, fun _ _ h a => congrArg (a <<< ·) (count_mod_of_runs rfl (by decide) h).symm⟩,
    ⟨fun a i => a >>> i.toNat, fun _ _ => rfl, fun _ _ h a => congrArg (a >>> ·) (count_mod_of_runs rfl (by decide) h).symm⟩,
    ⟨fun a i => a.sshiftRight i.toNat, fun _ _ => rfl,
      fun _ _ h a => congrArg a.sshiftRight (count_mod_of_runs rfl (by decide) h).symm⟩,
    ⟨fun a i => if a = i then 1 else 0, fun _ _ => rfl, fun f _ _ a => by simpa using word_truth (a == immOf f)⟩,
    ⟨fun a i => if a.slt i then 1 else 0, fun _ _ => rfl, fun _ _ _ _ => word_truth _⟩,
    ⟨fun a i => if a.ult i then 1 else 0, fun _ _ => rfl, fun _ _ _ _ => word_truth _⟩⟩

theorem exec_of_realizedI {op : (FI → Instr) × (Word → Word → Word)} (hop : RealizedI op) {f : FI} {s : State}
    (h : Runs (op.1 f) s) :
    exec (op.1 f) s = .next ((s.noteRead (op.1 f)).writeS clsA1 f.rd (op.2 (s.reg f.ra) (immOf f))) := by
  obtain ⟨fn, hexec, hfn⟩ := hop
  rw [hexec, intI_of_runs fn h, hfn f s h]

theorem exec_li_of_runs {f : FLI} {s : State} (h : Runs (.li f) s) :
    exec (.li f) s = .next ((s.noteRead (.li f)).writeS clsA1 f.rd ((FLIval f).signExtend 64)) := by
  rw [show exec (.li f) s = execLi f s from rfl, execLi, gated_of_runs h]

theorem exec_lih_of_runs {f : FLI} {s : State} (h : Runs (.lih f) s) :
    exec (.lih f) s = .next ((s.noteRead (.lih f)).writeS clsA1 f.rd (FLIval f ++ (s.reg f.rd).setWidth 32)) := by
  rw [show exec (.lih f) s = execLih f s from rfl, execLih, gated_of_runs h, reg_noteRead]

theorem immediateResults : ImmediateResults := by
  refine ⟨?_, fun op hop f s => exec_of_realizedI (immediateOps_realized op hop),
    fun f s => ⟨exec_li_of_runs, exec_lih_of_runs⟩⟩
  simp only [List.forall_mem_cons, List.not_mem_nil, false_imp_iff, implies_true, and_true]
  exact ⟨fun f _ => refused02_of_count (gated_shli f) rfl (by decide),
    fun f _ => refused02_of_count (gated_shri f) rfl (by decide),
    fun f _ => refused02_of_count (gated_sari f) rfl (by decide)⟩

/-- Settles O2, in its two parts: what a form that runs writes, and the fields and counts that the check refuses. -/
theorem scalarMoves : Obligations.ScalarMoves := ⟨selectAndExtend, immediateResults⟩

/-! ## R142: division -/

theorem divisorZero_iff (f : FR) (b : Word) : divisorZero f b ↔ b.toNat % 2 ^ opWidth f.w = 0 := by
  unfold divisorZero opWidth
  split
  · rw [← BitVec.toNat_inj, BitVec.toNat_setWidth]; rfl
  · rw [← BitVec.toNat_inj, Nat.mod_eq_of_lt b.isLt]; rfl

theorem divR_of_zero {i : Instr} {f : FR} {s : State} (fn : Nat → Nat → Nat → Nat) (h : Runs i s)
    (hz : divisorZero f (s.opB f)) : divR i f fn s = .next ((s.noteRead i).raise 0x10 (s.reg f.ra)) := by
  simp only [divR, gated_of_runs h, reg_noteRead, opB_noteRead, if_pos ((divisorZero_iff _ _).1 hz)]

theorem divR_of_nonzero {i : Instr} {f : FR} {fn : Nat → Nat → Nat → Nat} {g : WidthOp} {s : State} (hfn : Computes fn g)
    (h : Runs i s) (hz : ¬divisorZero f (s.opB f)) :
    divR i f fn s = .next ((s.noteRead i).later f.rd (some (atWidth f.w g (s.reg f.ra) (s.opB f))) none) := by
  simp only [divR, gated_of_runs h, reg_noteRead, opB_noteRead, if_neg (mt (divisorZero_iff _ _).2 hz), fitW_eq_atWidth hfn]

theorem divisionOps_realized :
    ∀ op ∈ divisionOps, ∃ fn, Computes fn op.2 ∧ ∀ f s, exec (op.1 f) s = divR (op.1 f) f fn s := by
  simp only [divisionOps, List.forall_mem_cons, List.not_mem_nil, false_imp_iff, implies_true, and_true]
  exact ⟨⟨_, computes_div, fun _ _ => rfl⟩, ⟨_, computes_divu, fun _ _ => rfl⟩, ⟨_, computes_rem, fun _ _ => rfl⟩,
    ⟨_, computes_remu, fun _ _ => rfl⟩⟩

/-- Settles O3: the divisor test sees the low n bits alone, and TVAL is the whole of RA, whose low n bits are the
dividend. -/
theorem divisionResults : Obligations.DivisionResults := by
  intro op hop f s h
  obtain ⟨fn, hfn, hexec⟩ := divisionOps_realized op hop
  rw [hexec]
  exact ⟨fun hz => ⟨s.reg f.ra, fun _ => rfl, rfl, divR_of_zero fn h hz⟩, divR_of_nonzero hfn h⟩

end Sys2Proof.Scalar
end
